-- ==== Sys2Proof/Word.lean ====
section
/-! DEFINITION. The word types of the register port and of shared memory (R178, R179): 32-bit words and bytes. -/

namespace Sys2Proof

/-- A register, a count, or an address: an unsigned 32-bit value (R178, R179). -/
abbrev Word := BitVec 32

/-- The smallest addressable unit of shared memory (R178). -/
abbrev Byte := BitVec 8

end Sys2Proof
end

