-- ==== Sys2Proof/Syntax.lean ====
section
/-! DEFINITION. The commands of the EC-1604: one constructor for each row of spec/opcode_table.json, with the operands
the spec's words give the row. The table gives no bits and names no operands; the operands of the tick, the step and the end
of a cycle say how far the work they begin has run when the next command is taken, since the spec leaves that to timing
(notes/assumptions/3.md). -/

namespace Sys2Proof

/-- The level on the active-low input pin RESET_N (R185, R186). -/
inductive PinLevel where
  | low
  | high
  deriving DecidableEq, Repr

/-- The registers a write to which has no effect (R179). -/
inductive ReadOnlyRegister where
  | estat
  | efault
  | eid
  deriving DecidableEq, Repr

/-- The two pieces of work a tick brings: the command intake (R137) and the frame cycle (R170). R34 and R138 let them
run beside each other, and either may come first. -/
inductive Party where
  | intake
  | frame
  deriving DecidableEq, Repr

/-- How the work of one tick falls out in time. `plan` names, unit by unit, which of the two parties goes on; the first unit
of `frame` is the cycle check. When the plan is used up, `finish` says whether both parties run on (the intake to its end, then
the frame through stage 8) before the next command is taken, or wait where they stand. DESIGN CHOICE, notes/assumptions/3.md. -/
structure TickTiming where
  plan   : List Party := []
  finish : Bool := true
  deriving DecidableEq, Repr

/-- The commands of the block, one for each row of the table of operations and events. -/
inductive Instr where
  /-- POWER_ON (R185). -/
  | powerOn
  /-- RESET_N: the level now on the pin (R185, R186). -/
  | resetN (level : PinLevel)
  /-- RESET_CLEARING_END (R185). -/
  | resetClearingEnd
  /-- XBASE_WRITE: a write of `value` to XBASE (R179). -/
  | xbaseWrite (value : Word)
  /-- REGISTER_WRITE_NO_EFFECT: a write of `value` to ESTAT, EFAULT or EID (R179). -/
  | registerWriteNoEffect (register : ReadOnlyRegister) (value : Word)
  /-- EFAULT_READ: a read of EFAULT (R184). -/
  | efaultRead
  /-- START: action 1 written to ECTL (R180, R181). -/
  | start
  /-- START_STEPPED: action 2 written to ECTL (R180, R181). -/
  | startStepped
  /-- STEP: action 3 written to ECTL (R180, R182); `units` bounds the units of its work (the intake's, the cycle
  check, the frame's) done within it, none: through stage 8. -/
  | step (units : Option Nat)
  /-- HALT: action 4 written to ECTL (R180, R183). -/
  | halt
  /-- ABORT: action 5 written to ECTL (R180, R183). -/
  | abort
  /-- SOFT_RESET: action 6 written to ECTL (R180, R185). -/
  | softReset
  /-- ACK_NOTICE: action 7 written to ECTL (R177, R180). -/
  | ackNotice
  /-- ECTL_VALUE_IGNORED: a write of `value` to ECTL that R180 ignores. -/
  | ectlValueIgnored (value : Word)
  /-- BLKTICK: a rising edge on BLKTICK (R170, R186). -/
  | blktick (timing : TickTiming)
  /-- CAPTURE_SEGMENT: the mover is granted the port for one segment of a capture (R158). -/
  | captureSegment
  /-- RESTORE_SEGMENT: the mover is granted the port for one segment of a restore (R160). -/
  | restoreSegment
  /-- RESTORE_END: the end of a finished restore is taken (R161). -/
  | restoreEnd
  /-- FRAME_CYCLE_END: the frame in flight is written back (R174); `units` bounds the frame work of a pending tick's check. -/
  | frameCycleEnd (units : Option Nat)
  /-- STORAGE_UPSET: part `part` of partition slot `slot` becomes `value` without a write (R91). -/
  | storageUpset (slot part : Nat) (value : Word)
  deriving DecidableEq, Repr

end Sys2Proof
end

