-- ==== Sys2Proof/Config.lean ====
section
/-! DEFINITION. The fixed quantities of the part (00_scope.md, "Principal numbers") and the free values: what the spec bounds
but does not fix. The free values are opaque, so that nothing can be proved of the value taken. -/

namespace Sys2Proof.Config

/-- Samples in a block (R8). -/
def blockLength : Nat := 128

/-- Points of the transform, and samples of a reference window (R18). -/
def windowLength : Nat := 256

/-- Frequency bins that are kept, 0..128 (R18). -/
def bins : Nat := 129

/-- Spectra held in each reference ring (R17). -/
def ringDepth : Nat := 64

/-- Reference rings held, whatever R is in force (R17). -/
def maxRefs : Nat := 4

/-- Channel contexts held (R66). -/
def maxChannels : Nat := 16

/-- Partition slots of the coefficient pool (R91). -/
def poolSlots : Nat := 2048

/-- Stored parts of a partition slot: a real and an imaginary part for each bin (R91). -/
def slotParts : Nat := 258

/-- Bytes of a partition slot in a profile's data area (R154). -/
def slotBytes : Nat := 1032

/-- Work units of one frame (R108). -/
def budget : Nat := 5120

/-- Entries of the action table (R143). -/
def tableSize : Nat := 8

/-- Records taken by one intake, at most (R137). -/
def intakeLimit : Nat := 8

/-- Frames by which a due may lie ahead of the done count (R139, R140). -/
def dueHorizon : Int := 1048576

/-- Frames of the suspension window (R87). -/
def suspensionWindow : Int := 250

/-- Partition slots of a mover segment, at most (R156). -/
def segmentSlots : Nat := 8

/-- Saturation limit of the four pending report counts (R175). -/
def pendingLimit : Nat := 255

/-- Saturation limit of a channel's parity count (R50). -/
def parityLimit : Nat := 65535

/-- A bound on the units of work of one frame: at most 8 applications, 2048 filter reads, 2560 slot updates, 2048 slot zeroings and
a few units for each of 16 channels. The frame runner stops by itself; the bound makes its recursion structural. -/
def frameFuel : Nat := 16384

/-- A bound on the units of one mover segment: a read and a write for each of 8 slots, `moved`, and the end of a capture. -/
def segmentFuel : Nat := 32

/-- A bound on the units of one intake: a look and a step for each of 8 records, and the last look. -/
def intakeFuel : Nat := 32

/-- A bound on the units of one STEP: its intake, its cycle check and its frame. -/
def stepFuel : Nat := intakeFuel + 1 + frameFuel

/-- FREE VALUE: what the engine's internal precision makes of echo estimate sample `i` at the `n`th use (R6, R40).
The model confines it to the integers that the bound of chapter 3 allows. notes/assumptions/8.md. -/
opaque estimateSample (n i : Nat) : Int

/-- FREE VALUE: what the engine's internal precision makes of part `i` of an updated partition slot at the `n`th use
(R38, R44), confined to the integers that the bound of chapter 3 allows. notes/assumptions/8.md. -/
opaque coefficientPart (n i : Nat) : Int

/-- FREE VALUE: what the engine's internal precision makes of the reference power of bin `k` at the `n`th use (R23), confined
to a relative 2^-24 of the exact step. notes/assumptions/8.md. -/
opaque powerStep (n k : Nat) : Rat

end Sys2Proof.Config
end

