-- ==== Sys2Proof/Machine/Level.lean ====
section
/-! DEFINITION. Chapter 1: sample words, rounding and saturation, block energy, the level function, the smoothing step, the gain
table, and the comparison of wrapping counts. -/

namespace Sys2Proof.Machine

/-- The signed 32-bit value of `a - b` (00_scope.md, "Frame counts"). -/
def signedDiff (a b : Word) : Int :=
  (a - b).toInt

/-- "a is at or before b": the signed 32-bit value of b - a is zero or more (00_scope.md, "Frame counts"). Where
R144's words on the dues after a START that moved D by about 2^31 or more say otherwise, the signed value is taken: the model's choice,
notes/assumptions/41.md. -/
def atOrBefore (a b : Word) : Bool :=
  decide (0 ≤ signedDiff b a)

/-- A count that rises by `k` and saturates at `limit` (R50, R175). -/
def saturatingAdd (limit n k : Nat) : Nat :=
  min limit (n + k)

/-- `v` confined to `lo..hi` (R11). -/
def clamp (v lo hi : Int) : Int :=
  if v < lo then lo else if hi < v then hi else v

/-- The 24-bit saturation of R5. -/
def sat24 (v : Int) : Int :=
  clamp v (-8388608) 8388607

/-- The sample an input word stands for (R1). -/
def sampleOf (w : Word) : Int :=
  sat24 w.toInt

/-- Whether R1 clamps an input word. -/
def clampsWord (w : Word) : Bool :=
  decide (sampleOf w ≠ w.toInt)

/-- The output word of a sample: 32 bits, sign-extended (R3). -/
def outputWord (v : Int) : Word :=
  BitVec.ofInt 32 v

/-- `a / d` rounded to the nearest integer, halves away from zero (R4). -/
def roundQuotient (a : Int) (d : Nat) : Int :=
  if 0 ≤ a then (2 * a + d) / (2 * d) else -((2 * (-a) + d) / (2 * d))

/-- A rational rounded to the nearest integer, halves away from zero (R4). -/
def roundAway (q : Rat) : Int :=
  if 0 ≤ q then (q + 1 / 2).floor else -((-q + 1 / 2).floor)

/-- The energy of a block, an exact sum of squares (R8). -/
def energy (block : List Int) : Nat :=
  (block.map (fun x => x.natAbs * x.natAbs)).sum

/-- The full-scale energy E_ref = 2^53 (R9). -/
def fullScale : Nat := 9007199254740992

/-- How many factors of ten `x` still needs to reach `target`, at most `fuel`. -/
def tenfolds (target : Nat) : Nat → Nat → Nat
  | 0, _ => 0
  | fuel + 1, x => if target ≤ x then 0 else tenfolds target fuel (x * 10) + 1

/-- The level of an energy (R9, R10): the largest k in -480..0 with E >= E_ref x 10^(k/40), decided exactly as
E^40 x 10^(-k) >= E_ref^40. -/
def levelOfEnergy (e : Nat) : Int :=
  -(tenfolds (fullScale ^ 40) 480 (e ^ 40) : Int)

/-- The level of a block (R9). -/
def level (block : List Int) : Int :=
  levelOfEnergy (energy block)

/-- The smoothing step of R13: `v` moves toward `t` by floor((t - v) / d). -/
def smooth (v t : Int) (d : Int) : Int :=
  v + (t - v) / d

/-- Whether `g - 1/2` is at or below 32768 x 10^(-a/80), decided exactly as (2g - 1)^80 x 10^a <= 65536^80. -/
def gainReaches (a g : Nat) : Bool :=
  decide ((2 * g - 1) ^ 80 * 10 ^ a ≤ 65536 ^ 80)

/-- The gain of an attenuation of `a` qdB: the largest g of at most 32767 that `gainReaches`, found bit by bit. -/
def gainOf (a : Nat) : Nat :=
  [16384, 8192, 4096, 2048, 1024, 512, 256, 128, 64, 32, 16, 8, 4, 2, 1].foldl
    (fun g b => if gainReaches a (g + b) then g + b else g) 0

/-- The gain g(A) of an attenuation A in -160..0 (R15). -/
def gain (atten : Int) : Nat :=
  gainOf (-atten).toNat

/-- One output sample: sat24(round(e x g / 32768)) (R16). -/
def scaleSample (g : Nat) (e : Int) : Int :=
  sat24 (roundQuotient (e * g) 32768)

/-- One error sample: sat24(m - y) (R7). -/
def errorSample (m y : Int) : Int :=
  sat24 (m - y)

end Sys2Proof.Machine
end

