-- ==== Sys2Proof/Machine/Sparse.lean ====
section
/-! DEFINITION. Sparse maps from addresses (or slot numbers) to values: sorted by key, no repeats, and no entry that equals what an
unlisted key reads as, so that equal maps are equal lists. -/

namespace Sys2Proof.Machine

/-- What key `k` holds: its first entry's value, or `d` when it has none. -/
def sparseGet {α : Type} (d : α) : List (Nat × α) → Nat → α
  | [], _ => d
  | (j, v) :: m, k => if j = k then v else sparseGet d m k

/-- Puts an entry for key `k` at its place in key order, over one that stands there. -/
def sparseInsert {α : Type} (k : Nat) (v : α) : List (Nat × α) → List (Nat × α)
  | [] => [(k, v)]
  | (j, w) :: m =>
    if k < j then (k, v) :: (j, w) :: m
    else if j = k then (k, v) :: m
    else (j, w) :: sparseInsert k v m

/-- Makes key `k` hold `v`; holding `d` is having no entry. -/
def sparsePut {α : Type} [DecidableEq α] (d : α) (m : List (Nat × α)) (k : Nat) (v : α) : List (Nat × α) :=
  if v = d then m.filter (fun e => e.1 ≠ k) else sparseInsert k v m

/-- The canonical form: keys strictly rising and below `bound`, no entry equal to `d`. -/
def sparseWf {α : Type} [DecidableEq α] (d : α) (bound : Nat) (m : List (Nat × α)) : Bool :=
  decide (m.Pairwise (fun x y => x.1 < y.1)) && m.all (fun e => decide (e.1 < bound) && decide (e.2 ≠ d))

end Sys2Proof.Machine
end

