-- ==== Sys2Proof/Machine/State.lean ====
section
/-! DEFINITION. The state of the EC-1604 as plain data: one group of fields for each block of the overview in 00_scope.md, the
shared memory it masters, and the queue of commands that wait. -/

namespace Sys2Proof.Machine

/-- Why a step of the model can stop with a fault: never. Every command of the table has an effect or is ignored in every
state, and the part's own faults (BUS_ERROR, WINDOW, GEOMETRY) are next states (R184). No constructor: safe. -/
inductive Fault where
  deriving DecidableEq, Repr

/-- Why a step of the model can be refused. -/
inductive Refusal where
  /-- Raised by `exec` for a command without a meaning. No arm raises it now. Safe: the model stops. -/
  | notModelled (mnemonic : String)
  deriving DecidableEq, Repr

/-! ### Engine control (chapter 12) -/

/-- The six engine states (R180). -/
inductive EngineState where
  | reset
  | halted
  | running
  | stepWait
  | draining
  | faulted
  deriving DecidableEq, Repr

/-- The step result shown in ESTAT (R179, R182). -/
inductive StepResult where
  | none
  | processed
  | noFrame
  deriving DecidableEq, Repr

/-- The fault code shown in EFAULT (R179, R184). -/
inductive FaultCode where
  | none
  | busError
  | window
  | geometry
  deriving DecidableEq, Repr

/-! ### Channel table (chapters 4, 5 and 8) -/

/-- The six channel states (R66). -/
inductive ChanState where
  | off
  | acquire
  | track
  | held
  | restoring
  | suspended
  deriving DecidableEq, Repr

/-- The states THAW can return to (R66, R78). -/
inductive PriorState where
  | acquire
  | track
  deriving DecidableEq, Repr

/-- The mode of an adaptation window (R46). -/
inductive WindowMode where
  | all
  | head
  | tail
  deriving DecidableEq, Repr

/-- An adaptation window: mode, count n and complement flag (R46). -/
structure AdaptWindow where
  mode       : WindowMode
  n          : Nat
  complement : Bool
  deriving DecidableEq, Repr

/-- The ten tuning fields of a channel (R67); `hang` is H and `floor` is F. -/
structure Tuning where
  muAcq    : Int
  muTrk    : Int
  tConv    : Int
  dConv    : Int
  dRecheck : Int
  mDt      : Int
  hang     : Int
  floor    : Int
  attack   : Int
  release  : Int
  deriving DecidableEq, Repr

/-- A channel context (R66). The extent is held once, in the allocation list (R95). In OFF every other field is
at a fixed value, that of `Channel.off`. -/
structure Channel where
  state   : ChanState
  prior   : Option PriorState
  parts   : Nat
  window  : AdaptWindow
  tuning  : Tuning
  erle    : Int
  coupling : Int
  hang    : Nat
  dwell   : Nat
  strikes : Nat
  divergences : List Word
  parity  : Nat
  atten   : Int
  capture : Bool
  deriving DecidableEq, Repr

/-! ### Coefficient pool (chapter 6) -/

/-- A partition slot: 258 stored parts, real then imaginary for each bin (R91), and for each part whether it disagrees with its
parity bit (bit i of `bad`). A slot is unlisted in the pool when it is zero and agrees with its parity. -/
structure Slot where
  parts : List Word
  bad   : BitVec 258
  deriving DecidableEq, Repr

/-- An entry of the allocation list (R95). -/
structure Extent where
  chan : Nat
  base : Nat
  size : Nat
  deriving DecidableEq, Repr

/-! ### Reference history (chapter 2) -/

/-- A spectrum of a reference ring, held exactly, as the 256-sample window whose transform it is (R18). The zero spectrum is
the spectrum of the zero window and has a form of its own (R17). -/
inductive Spectrum where
  | zero
  | of (samples : List Int)
  deriving DecidableEq, Repr

/-- The reference history (R17). -/
structure History where
  rings     : Vector (List Spectrum) 4
  last      : Vector (List Int) 4
  power     : List Rat
  hold      : Int
  levels    : Vector Int 4
  lx        : Int
  farActive : Bool
  deriving DecidableEq, Repr

/-! ### Command unit and action table (chapter 9) -/

/-- The host-written fields of a command record, read in one read (R132), and its address. -/
structure Record where
  addr       : Word
  next       : Word
  owner      : Byte
  kind       : Byte
  chan       : Byte
  duePresent : Bool
  notify     : Bool
  due        : Word
  params     : List Byte
  deriving DecidableEq, Repr

/-- The kinds that are filed in the action table, with their parameters (R141, R143). -/
inductive Action where
  | configure (parts : Nat)
  | release
  | reset
  | freeze
  | thaw
  | setWindow (window : AdaptWindow)
  | setTuning (mask : BitVec 16) (values : List Int)
  | capture (index : Nat)
  | restore (index : Nat)
  deriving DecidableEq, Repr

/-- An entry of the action table (R143); `notify` is the record's notify field as read at taking (R145). -/
structure Entry where
  addr   : Word
  action : Action
  chan   : Nat
  due    : Word
  late   : Bool
  notify : Bool
  deriving DecidableEq, Repr

/-- An intake in progress (R137, R138): the done count it read when it began (none before its first unit), the records
taken so far, and the record taken whose step is not yet complete. -/
structure Intake where
  done   : Option Word
  taken  : Nat
  inHand : Option Record
  deriving DecidableEq, Repr

/-! ### Profile mover (chapter 10) -/

/-- What a transfer does (R156). -/
inductive Direction where
  | capture
  | restore
  deriving DecidableEq, Repr

/-- The transfer the profile mover holds (R156), with the entry's late and notify fields (R145, R166) and, for a restore, the header's
P, S and C (R160). Of the segment begun it holds the slots read, in order, and how many are written on (R104, R156);
`moveDue` says that a write of `moved` has failed and is alone to be made again (R165). -/
structure Transfer where
  direction : Direction
  chan      : Nat
  index     : Nat
  slotAddr  : Word
  capacity  : Nat
  copy      : Nat
  fill      : Nat
  progress  : Nat
  fitted    : Bool
  cmd       : Word
  late      : Bool
  notify    : Bool
  parts     : Nat
  erle      : Int
  coupling  : Int
  read      : List (List Word) := []
  written   : Nat := 0
  moveDue   : Bool := false
  deriving DecidableEq, Repr

/-! ### Exchange unit (chapter 11) -/

/-- The control-page fields that START copies and holds until the next START (R167), the clamped ones after their clamp
(R26, R120), `latency` being the latency limit L in use. -/
structure Geometry where
  ringBase  : Word
  slotCount : Nat
  stride    : Nat
  mics      : Nat
  refs      : Nat
  latency   : Nat
  tFe       : Int
  farHold   : Int
  tRes      : Int
  firstCmd  : Word
  dirAddr   : Word
  dirCount  : Nat
  winBase   : Word
  winLimit  : Word
  deriving DecidableEq, Repr

/-! ### Filter engine (chapter 3): the frame in flight -/

/-- How far the frame in flight has come: the unit of work that is next (R30), then the write-back of R174. -/
inductive Phase where
  /-- Stage 1: the first due entry is applied next. -/
  | apply
  /-- Stage 2: the pushes, levels and far-end decision, one update (R29). -/
  | push
  /-- Stage 3 of channel `c`: its microphone block is read next. -/
  | estimate (c : Nat)
  /-- Stage 3 of channel `c`: the next slot of its extent is read, or its estimate formed when all are (R104). -/
  | filter (c : Nat)
  /-- Stage 4 of every channel. -/
  | decide
  /-- Stage 5: the walk and the rotation, one step (R115). -/
  | walk
  /-- Stage 6: the slots still to be updated, each a channel and an index in its extent (R45). -/
  | adapt (todo : List (Nat × Nat))
  /-- Stage 7 of channel `c` (R31). -/
  | commit (c : Nat)
  /-- Stage 7 of channel `c`, whose divergence event zeroes slot `k` of its extent next (R86, R90). -/
  | zeroing (c k : Nat)
  /-- Stage 8 of channel `c` (R127). -/
  | suppress (c : Nat)
  /-- Write-back step 1: the output block of channel `c` (R174). -/
  | output (c : Nat)
  /-- Write-back step 2: the report (R174). -/
  | report
  /-- Write-back step 3: the slot status (R174). -/
  | status
  /-- Write-back step 4 is next: the done count (R174). -/
  | count
  deriving DecidableEq, Repr

/-- The frame work of one channel: what the stages have formed so far. -/
structure ChanWork where
  mic      : List Int
  clipped  : Bool
  formed   : Bool
  err      : List Int
  lm       : Int
  ly       : Int
  le       : Int
  parity   : Bool
  hang     : Nat
  eligible : Bool
  nearEnd  : Bool
  granted  : Bool
  deferred : Bool
  out      : List Int
  lout     : Int
  deriving DecidableEq, Repr

/-- The frame in flight: its count, what its header gave, how it was begun, its next unit, the contexts at the end of stage 1,
and the results of the stages. `event` is set by a committed divergence event (R174, R176). `reads` holds the coefficients that stage 3
has read so far from the extent in hand (R39). `asks` is set while the engine goes from one port access of a stage to the next and so
asks for the port again at once (R105). `failedCaptures` lists the channels whose capture a parity failure has ended in this frame: the
walk takes the clearing of their flags after its reading (R93, R117; notes/assumptions/28.md). -/
structure Flight where
  count    : Word
  gap      : Nat
  notify   : Bool
  byStep   : Bool
  phase    : Phase
  start    : Vector Channel 16
  refClips : List Bool
  cost     : Nat
  units    : Nat
  work     : Vector ChanWork 16
  event    : Bool
  reads    : List (List Word) := []
  asks     : Bool := false
  failedCaptures : List Nat := []
  deriving DecidableEq, Repr

/-! ### The bus, as the part meets it -/

/-- The environment's bus: an access of the given direction to the word at `addr` fails once `passes` such accesses have
been answered. Spec: any shared-memory access may fail (R184). notes/assumptions/4.md. -/
structure BusError where
  write  : Bool
  addr   : Nat
  passes : Nat
  deriving DecidableEq, Repr

/-! ### The whole machine -/

/-- The state of the block. INVENTORY.md, "State", names the rule behind each field. `grants` is the environment's timing of the mover:
how many accesses each segment command to come makes before something else is taken; with none listed a command makes its segment
whole (R104; notes/assumptions/3.md). `stepDue` is set while a STEP that has been taken still has its cycle check to make (R182). -/
structure State where
  pending     : List Instr
  xbase       : Word
  readData    : Word
  engine      : EngineState
  stepResult  : StepResult
  faultCode   : FaultCode
  faultDetail : BitVec 30
  ignored     : Bool
  resetLow    : Bool
  taken       : Word
  done        : Word
  tickPending : Bool
  idleTotal     : Word
  overloadTotal : Word
  dropTotal     : Word
  gapTotal      : Word
  pendIdle      : Nat
  pendOverload  : Nat
  pendDropped   : Nat
  pendGap       : Nat
  notice      : Bool
  geo         : Geometry
  anchor      : Option Word
  intake      : Option Intake
  stepDue     : Bool
  table       : List Entry
  history     : History
  flight      : Option Flight
  channels    : Vector Channel 16
  pool        : List (Nat × Slot)
  alloc       : List Extent
  queue       : List Nat
  transfer    : Option Transfer
  lock        : Bool
  mem         : List Host.Cell
  bus         : List BusError
  grants      : List Nat
  free        : Nat
  deriving DecidableEq, Repr

/-! ### Values after reset -/

/-- The default tuning (R67). -/
def Tuning.default : Tuning :=
  { muAcq := 16384, muTrk := 4096, tConv := 80, dConv := 50, dRecheck := 100, mDt := 12, hang := 25, floor := -120,
    attack := 8, release := 2 }

/-- The window ALL, n 0, complement no (R47). -/
def AdaptWindow.default : AdaptWindow :=
  { mode := .all, n := 0, complement := false }

/-- A channel in OFF: a state and nothing else (R66). The other fields stand at fixed values that no rule reads. -/
def Channel.off : Channel :=
  { state := .off, prior := none, parts := 0, window := .default, tuning := .default, erle := 0, coupling := 0, hang := 0,
    dwell := 0, strikes := 0, divergences := [], parity := 0, atten := 0, capture := false }

/-- The zero slot with correct parity (R38, R94). -/
def Slot.zero : Slot :=
  { parts := List.replicate Config.slotParts 0#32, bad := 0#258 }

/-- A block of 128 zero samples. -/
def zeroBlock : List Int :=
  List.replicate Config.blockLength 0

/-- A ring of 64 zero spectra (R17). -/
def zeroRing : List Spectrum :=
  List.replicate Config.ringDepth .zero

/-- The history after power-on, SOFT_RESET and START (R28). -/
def History.cleared : History :=
  { rings := Vector.replicate 4 zeroRing, last := Vector.replicate 4 zeroBlock, power := List.replicate Config.bins 0,
    hold := 0, levels := Vector.replicate 4 (-480), lx := -480, farActive := false }

/-- No work of a channel in the frame yet. -/
def ChanWork.none : ChanWork :=
  { mic := [], clipped := false, formed := false, err := [], lm := -480, ly := -480, le := -480, parity := false, hang := 0,
    eligible := false, nearEnd := false, granted := false, deferred := false, out := [], lout := -480 }

/-- The geometry before the first START: the spec gives none. DESIGN CHOICE, notes/assumptions/2.md. -/
def Geometry.atReset : Geometry :=
  { ringBase := 0, slotCount := 0, stride := 0, mics := 0, refs := 0, latency := 0, tFe := 0, farHold := 0, tRes := 0,
    firstCmd := 0, dirAddr := 0, dirCount := 0, winBase := 0, winLimit := 0 }

/-- The machine right after power-on (R185): in RESET, everything cleared, no command waiting, and no byte of shared memory
written. -/
def State.reset : State :=
  { pending := [], xbase := 0, readData := 0, engine := .reset, stepResult := .none, faultCode := .none, faultDetail := 0,
    ignored := false, resetLow := false, taken := 0, done := 0, tickPending := false, idleTotal := 0, overloadTotal := 0,
    dropTotal := 0, gapTotal := 0, pendIdle := 0, pendOverload := 0, pendDropped := 0, pendGap := 0, notice := false,
    geo := .atReset, anchor := none, intake := none, stepDue := false, table := [], history := .cleared, flight := none,
    channels := Vector.replicate 16 .off, pool := [], alloc := [], queue := [], transfer := none, lock := false, mem := [],
    bus := [], grants := [], free := 0 }

end Sys2Proof.Machine
end

