-- ==== Sys2Proof/Machine/Ops.lean ====
section
/-! DEFINITION. The named operations the meanings share: work that an engine fault can cut short, shared-memory accesses,
completions, the notice flag, channel contexts, pool slots and the schedule queue. -/

namespace Sys2Proof.Machine

/-! ### One field at a time -/

/-- The engine state becomes `v`. -/
def State.setEngine (s : State) (v : EngineState) : State := { s with engine := v }

/-- The step result becomes `v`. -/
def State.setStepResult (s : State) (v : StepResult) : State := { s with stepResult := v }

/-- Tick-pending becomes `v`. -/
def State.setTickPending (s : State) (v : Bool) : State := { s with tickPending := v }

/-- Notice-pending becomes `v`. -/
def State.setNotice (s : State) (v : Bool) : State := { s with notice := v }

/-- The taken count becomes `v`. -/
def State.setTaken (s : State) (v : Word) : State := { s with taken := v }

/-- The done count becomes `v`. -/
def State.setDone (s : State) (v : Word) : State := { s with done := v }

/-- The frame in flight becomes `v`. -/
def State.setFlight (s : State) (v : Option Flight) : State := { s with flight := v }

/-- The mover's transfer becomes `v`. -/
def State.setTransfer (s : State) (v : Option Transfer) : State := { s with transfer := v }

/-- The intake in progress becomes `v`. -/
def State.setIntake (s : State) (v : Option Intake) : State := { s with intake := v }

/-- Whether a STEP's cycle check is due becomes `v`. -/
def State.setStepDue (s : State) (v : Bool) : State := { s with stepDue := v }

/-- The action table becomes `v`. -/
def State.setTable (s : State) (v : List Entry) : State := { s with table := v }

/-- The schedule queue becomes `v`. -/
def State.setQueue (s : State) (v : List Nat) : State := { s with queue := v }

/-- The history becomes `v`. -/
def State.setHistory (s : State) (v : History) : State := { s with history := v }

/-- Shared memory becomes `v`. -/
def State.setMem (s : State) (v : List Host.Cell) : State := { s with mem := v }

/-- The bus's failures to come become `v`. -/
def State.setBus (s : State) (v : List BusError) : State := { s with bus := v }

/-- The mover's accesses at the segment commands to come become `v`. -/
def State.setGrants (s : State) (v : List Nat) : State := { s with grants := v }

/-- The coefficient pool becomes `v`. -/
def State.setPool (s : State) (v : List (Nat × Slot)) : State := { s with pool := v }

/-- The free values' counter becomes `v`. -/
def State.setFree (s : State) (v : Nat) : State := { s with free := v }

/-! ### Work and engine faults -/

/-- The code and the 30-bit detail that raising a fault records (R184). -/
structure EngineFault where
  code   : FaultCode
  detail : BitVec 30
  deriving DecidableEq, Repr

/-- Work of the part on its state: it ends, or an engine fault stops it where it stands (R184), what it has done so far kept. -/
abbrev Work (α : Type) := EStateM EngineFault State α

/-- A fault whose detail is an address: its bits 31..2 (R184). -/
def addressFault (code : FaultCode) (address : Nat) : EngineFault :=
  { code := code, detail := BitVec.ofNat 30 (address / 4) }

/-- A fault whose detail is a field index (R181). -/
def fieldFault (index : Nat) : EngineFault :=
  { code := .geometry, detail := BitVec.ofNat 30 index }

/-- Raising a fault (R184): code and detail recorded, FAULTED entered, notice-pending set, the frame cycle, the intake and a
STEP ended where they stand. T stays, and the mover keeps its transfer, paused (R165). -/
def State.raise (s : State) (f : EngineFault) : State :=
  { s with engine := .faulted, faultCode := f.code, faultDetail := f.detail, notice := true, flight := none, intake := none,
           stepDue := false }

/-- The state that work leaves: where a fault stopped it, with the fault raised. -/
def settle {α : Type} (w : Work α) (s : State) : State :=
  match w s with
  | .ok _ t => t
  | .error f t => t.raise f

/-- Work that may fault, with a change of state made if it does. -/
def onFault {α : Type} (w : Work α) (change : State → State) : Work α := fun s =>
  match w s with
  | .ok a t => .ok a t
  | .error f t => .error f (change t)

/-- Work whose fault is reported with another fault in its place. -/
def withFault {α : Type} (w : Work α) (f : EngineFault) : Work α := fun s =>
  match w s with
  | .ok a t => .ok a t
  | .error _ t => .error f t

/-- The state, as it stands. -/
def getState : Work State := fun s => .ok s s

/-- A change of state that cannot fault. -/
def update (change : State → State) : Work Unit := fun s => .ok () (change s)

/-- Raises a fault. -/
def fail {α : Type} (f : EngineFault) : Work α := fun s => .error f s

/-- A use number for a free value; the counter advances. -/
def freshUse : Work Nat := fun s => .ok s.free (s.setFree (s.free + 1))

/-! ### Shared memory -/

/-- The cell an address selects: the bus has 32 address lines (R178). -/
def cellOf (a : Nat) : Nat :=
  a % 4294967296

/-- What a byte of shared memory holds; a byte that nothing has written holds 0 (notes/assumptions/5.md). -/
def readByte (m : List Host.Cell) (a : Nat) : Byte :=
  sparseGet 0#8 m (cellOf a)

/-- Shared memory with one byte written. -/
def writeByte (m : List Host.Cell) (a : Nat) (v : Byte) : List Host.Cell :=
  sparsePut 0#8 m (cellOf a) v

/-- Shared memory with consecutive bytes written. -/
def writeBytes (m : List Host.Cell) (a : Nat) : List Byte → List Host.Cell
  | [] => m
  | v :: vs => writeBytes (writeByte m a v) (a + 1) vs

/-- The little-endian word at an address (R178). -/
def memWord (m : List Host.Cell) (a : Nat) : Word :=
  readByte m (a + 3) ++ readByte m (a + 2) ++ readByte m (a + 1) ++ readByte m a

/-- The bytes of a word, least significant first (R178). -/
def wordBytes (w : Word) : List Byte :=
  [w.extractLsb' 0 8, w.extractLsb' 8 8, w.extractLsb' 16 8, w.extractLsb' 24 8]

/-- The canonical form of shared memory. -/
def memoryWf (m : List Host.Cell) : Bool :=
  sparseWf 0#8 4294967296 m

/-- The bus's answer to an access of the word at `a`: whether it fails, and the answers that remain. -/
def busAnswer : List BusError → Bool → Nat → Bool × List BusError
  | [], _, _ => (false, [])
  | e :: es, write, a =>
    if e.write = write ∧ e.addr = a then
      if e.passes = 0 then (true, e :: es) else (false, { e with passes := e.passes - 1 } :: es)
    else
      let rest := busAnswer es write a
      (rest.1, e :: rest.2)

/-- The address of the aligned word that holds byte `a` (R186: all accesses are aligned word accesses). -/
def wordAddress (a : Nat) : Nat :=
  cellOf a / 4 * 4

/-- One access on the bus; a failing one raises BUS_ERROR with its address (R184). -/
def busAccess (write : Bool) (a : Nat) : Work Unit := fun s =>
  if (busAnswer s.bus write (wordAddress a)).1 then .error (addressFault .busError (wordAddress a)) s
  else .ok () (s.setBus (busAnswer s.bus write (wordAddress a)).2)

/-- Reads a word of shared memory. -/
def readWord (a : Nat) : Work Word := do
  busAccess false a
  let s ← getState
  pure (memWord s.mem a)

/-- Writes bytes within one word: the byte enables select them, the others of the word stay (R178). A write that fails has not reached
memory, which R136 leaves open: the model's choice, notes/assumptions/4.md. -/
def writeLanes (a : Nat) (bytes : List Byte) : Work Unit := do
  busAccess true a
  update fun s => s.setMem (writeBytes s.mem a bytes)

/-- Writes a word of shared memory. -/
def writeWord (a : Nat) (w : Word) : Work Unit :=
  writeLanes a (wordBytes w)

/-- Reads consecutive words, by rising address. -/
def readWords (a : Nat) : Nat → Work (List Word)
  | 0 => pure []
  | n + 1 => do
    let w ← readWord a
    let ws ← readWords (a + 4) n
    pure (w :: ws)

/-- Writes consecutive words, by rising address: the model's choice where a write that fails shows it (notes/assumptions/37.md). -/
def writeWords (a : Nat) : List Word → Work Unit
  | [] => pure ()
  | w :: ws => do
    writeWord a w
    writeWords (a + 4) ws

/-- Shared memory after the host has written bytes: what the other master of the DRAM does between two steps. -/
def State.hostWrite (s : State) (a : Nat) (bytes : List Byte) : State :=
  s.setMem (writeBytes s.mem a bytes)

/-! ### Notice (R177) -/

/-- Sets notice-pending. -/
def setNotice : Work Unit :=
  update fun s => s.setNotice true

/-- Sets notice-pending if asked. -/
def noticeIf (asked : Bool) : Work Unit :=
  if asked then setNotice else pure ()

/-! ### Completions (R145, R146) -/

/-- The completion codes, in the order of their values (R146, R178). -/
inductive Code where
  | ok
  | late
  | cancelled
  | badKind
  | badChannel
  | badState
  | range
  | noRoom
  | fragmented
  | growRefused
  | busy
  | notFound
  | locked
  | protected_
  | badSlot
  | noProfile
  | mismatch
  | tooSmall
  | aborted
  | dataError
  | tableFull
  deriving DecidableEq, Repr

/-- The value of a completion code in shared memory (R178). -/
def codeWord : Code → Word
  | .ok => 0
  | .late => 1
  | .cancelled => 2
  | .badKind => 3
  | .badChannel => 4
  | .badState => 5
  | .range => 6
  | .noRoom => 7
  | .fragmented => 8
  | .growRefused => 9
  | .busy => 10
  | .notFound => 11
  | .locked => 12
  | .protected_ => 13
  | .badSlot => 14
  | .noProfile => 15
  | .mismatch => 16
  | .tooSmall => 17
  | .aborted => 18
  | .dataError => 19
  | .tableFull => 20

/-- A late entry's OK is LATE; every other code stands (R33, R140). -/
def lateCode (late : Bool) (code : Code) : Code :=
  if late && decide (code = .ok) then .late else code

/-- A result that holds two values, in bytes 0..1 and 2..3 (R178). -/
def pairResult (first second : Nat) : Word :=
  BitVec.ofNat 16 second ++ BitVec.ofNat 16 first

/-- Writes a completion into the record at `address`: result, code and sequence, then DONE; then notice-pending if the record
asks (R145). -/
def complete (address : Word) (code : Code) (sequence result : Word) (notify : Bool) : Work Unit := do
  writeWord (address.toNat + 0x30) result
  writeWord (address.toNat + 0x2C) (codeWord code)
  writeWord (address.toNat + 0x28) sequence
  writeLanes (address.toNat + 4) [3#8]
  noticeIf notify

/-! ### Channel contexts (R66) -/

/-- The context of channel `c`; a number above 15 has none and reads as OFF. -/
def State.chan (s : State) (c : Nat) : Channel :=
  (s.channels[c]?).getD .off

/-- The state with the context of channel `c` replaced. -/
def State.setChan (s : State) (c : Nat) (ctx : Channel) : State :=
  { s with channels := s.channels.setIfInBounds c ctx }

/-- The state with the context of channel `c` changed. -/
def State.modChan (s : State) (c : Nat) (change : Channel → Channel) : State :=
  s.setChan c (change (s.chan c))

/-- The context with its parity count raised by one, at most 65535 (R50). -/
def Channel.countParity (ctx : Channel) : Channel :=
  { ctx with parity := saturatingAdd Config.parityLimit ctx.parity 1 }

/-- The values RESET_CHANNEL gives; P, window and tuning are kept (R69, R76). -/
def Channel.resetValues (ctx : Channel) : Channel :=
  { ctx with state := .acquire, prior := none, erle := 0, coupling := -80, hang := 0, dwell := 0, strikes := 0,
             divergences := [], parity := 0, atten := 0, capture := false }

/-- The context a CONFIGURE_CHANNEL from OFF gives (R69, R73). -/
def Channel.configured (parts : Nat) : Channel :=
  { Channel.off with state := .acquire, parts := parts, coupling := -80 }

/-! ### Pool slots (R91, R92) -/

/-- What slot `i` of the pool holds. -/
def State.slot (s : State) (i : Nat) : Slot :=
  sparseGet Slot.zero s.pool i

/-- The state with slot `i` holding `v`. -/
def State.setSlot (s : State) (i : Nat) (v : Slot) : State :=
  s.setPool (sparsePut Slot.zero s.pool i v)

/-- A whole write of a slot leaves every part in agreement with its parity bit (R91). -/
def State.writeSlot (s : State) (i : Nat) (parts : List Word) : State :=
  s.setSlot i { parts := parts, bad := 0#258 }

/-- The pool with `n` slots from `base` on zeroed. -/
def zeroPool (pool : List (Nat × Slot)) (base n : Nat) : List (Nat × Slot) :=
  (List.range n).foldl (fun p j => sparsePut Slot.zero p (base + j) Slot.zero) pool

/-- The state with `n` slots from `base` on zeroed. -/
def State.zeroSlots (s : State) (base n : Nat) : State :=
  s.setPool (zeroPool s.pool base n)

/-- A checked read (R92): the stored parts, or zeros if a part disagrees with its parity, the slot being zeroed within the read. The
flag says that the read failed. -/
def readSlot (i : Nat) : Work (List Word × Bool) := fun s =>
  if (s.slot i).bad = 0#258 then .ok ((s.slot i).parts, false) s
  else .ok (Slot.zero.parts, true) (s.setSlot i .zero)

/-- The extent of channel `c` in the allocation list (R95); a channel without one reads as an empty extent. -/
def State.extent (s : State) (c : Nat) : Extent :=
  (s.alloc.find? (fun e => decide (e.chan = c))).getD { chan := c, base := 0, size := 0 }

/-- Zeroes every slot of channel `c`'s extent (R102). -/
def State.zeroExtent (s : State) (c : Nat) : State :=
  s.zeroSlots (s.extent c).base (s.extent c).size

/-! ### The schedule queue (R110, R111) -/

/-- Takes a channel out of the queue. -/
def State.dequeue (s : State) (c : Nat) : State :=
  s.setQueue (s.queue.filter (fun d => decide (d ≠ c)))

/-- Puts a channel before every other, from wherever it stood. -/
def State.toHead (s : State) (c : Nat) : State :=
  s.setQueue (c :: s.queue.filter (fun d => decide (d ≠ c)))

/-- Puts a channel after every other. -/
def State.toTail (s : State) (c : Nat) : State :=
  s.setQueue (s.queue.filter (fun d => decide (d ≠ c)) ++ [c])

end Sys2Proof.Machine
end

