-- ==== Sys2Proof/Machine/Operands.lean ====
section
/-! DEFINITION. The shared-memory structures (R178): where their fields lie, how they are read, and the values of the enumerated
fields. -/

namespace Sys2Proof.Machine

/-- A structure of `n` bytes at `a` lies inside the address window of `base` and `limit` (R167). -/
def insideWindow (base limit : Word) (a n : Nat) : Bool :=
  decide (base.toNat ≤ a) && decide (a + n ≤ limit.toNat)

/-- The same, for the window in force. -/
def State.inside (s : State) (a n : Nat) : Bool :=
  insideWindow s.geo.winBase s.geo.winLimit a n

/-- Byte `i` of a word, 0 the least significant (R178). -/
def byteOf (w : Word) (i : Nat) : Byte :=
  w.extractLsb' (8 * i) 8

/-- Half-word `i` of a word, as an unsigned value (R178). -/
def halfOf (w : Word) (i : Nat) : Nat :=
  (w.extractLsb' (16 * i) 16).toNat

/-- Half-word `i` of a word, as a signed value (R178). -/
def signedHalfOf (w : Word) (i : Nat) : Int :=
  (w.extractLsb' (16 * i) 16).toInt

/-- A signed 16-bit field (R178). -/
def half (v : Int) : BitVec 16 :=
  BitVec.ofInt 16 v

/-! ### The control page -/

/-- The address of the control-page field at `offset` (R167, R178). -/
def State.pageField (s : State) (offset : Nat) : Nat :=
  s.xbase.toNat + offset

/-- Writes the taken count to the page (R168). -/
def writeTaken : Work Unit := do
  let s ← getState
  writeWord (s.pageField 0x3C) s.taken

/-- Writes a done count to the page (R168). -/
def writeDone (d : Word) : Work Unit := do
  let s ← getState
  writeWord (s.pageField 0x40) d

/-- Writes the idle total to the page (R168). -/
def writeIdleTotal : Work Unit := do
  let s ← getState
  writeWord (s.pageField 0x44) s.idleTotal

/-- Writes the overload total to the page (R168). -/
def writeOverloadTotal : Work Unit := do
  let s ← getState
  writeWord (s.pageField 0x48) s.overloadTotal

/-- Writes the drop total to the page (R168). -/
def writeDropTotal : Work Unit := do
  let s ← getState
  writeWord (s.pageField 0x4C) s.dropTotal

/-- Writes the gap total to the page (R168). -/
def writeGapTotal : Work Unit := do
  let s ← getState
  writeWord (s.pageField 0x50) s.gapTotal

/-! ### The frame slot (R169) -/

/-- The size of a frame slot: 64 + 512R + 1024M + 64 + 32M (R169). -/
def slotSize (mics refs : Nat) : Nat :=
  64 + 512 * refs + 1024 * mics + 64 + 32 * mics

/-- The address of the slot of the frame with count `n` (R169). -/
def Geometry.slotOf (g : Geometry) (n : Word) : Nat :=
  g.ringBase.toNat + n.toNat % g.slotCount * g.stride

/-- The address of reference block `r` of the frame with count `n` (R169). -/
def Geometry.refBlock (g : Geometry) (n : Word) (r : Nat) : Nat :=
  g.slotOf n + 64 + 512 * r

/-- The address of microphone block `c` of the frame with count `n` (R169). -/
def Geometry.micBlock (g : Geometry) (n : Word) (c : Nat) : Nat :=
  g.slotOf n + 64 + 512 * g.refs + 512 * c

/-- The address of output block `c` of the frame with count `n` (R169). -/
def Geometry.outBlock (g : Geometry) (n : Word) (c : Nat) : Nat :=
  g.slotOf n + 64 + 512 * g.refs + 512 * g.mics + 512 * c

/-- The address of the report part of the frame with count `n` (R169). -/
def Geometry.reportPart (g : Geometry) (n : Word) : Nat :=
  g.slotOf n + 64 + 512 * g.refs + 1024 * g.mics

/-- The address of the channel record of channel `c` of the frame with count `n` (R169). -/
def Geometry.channelRecord (g : Geometry) (n : Word) (c : Nat) : Nat :=
  g.reportPart n + 64 + 32 * c

/-- The slot statuses the part writes (R178). -/
inductive SlotStatus where
  | done
  | mismatch
  | aborted
  deriving DecidableEq, Repr

/-- The value of a slot status (R178). -/
def statusByte : SlotStatus → Byte
  | .done => 1
  | .mismatch => 2
  | .aborted => 3

/-- Writes the status of the slot of the frame with count `n`. -/
def writeStatus (n : Word) (status : SlotStatus) : Work Unit := do
  let s ← getState
  writeLanes (s.geo.slotOf n + 6) [statusByte status]

/-! ### Command records (R132, R178) -/

/-- The owner values (R133, R178). -/
def ownerPosted : Byte := 1

/-- The owner value the part writes at taking (R133, R178). -/
def ownerTaken : Byte := 2

/-- Reads every host-written field of the record at `address` in one read (R132): the ten words at offsets 0x00..0x27. That they are read by
rising address, which shows in the detail where two of them fail, is the model's choice: notes/assumptions/37.md. -/
def readRecord (address : Word) : Work Record := do
  let ws ← readWords address.toNat 10
  let w1 := ws.getD 1 0
  pure { addr := address, next := ws.getD 0 0, owner := byteOf w1 0, kind := byteOf w1 1, chan := byteOf w1 2,
         duePresent := (byteOf w1 3).getLsbD 0, notify := (byteOf w1 3).getLsbD 1, due := ws.getD 2 0,
         params := (ws.drop 3).flatMap wordBytes }

/-- Parameter byte at an offset of the parameter area. -/
def Record.param (r : Record) (offset : Nat) : Nat :=
  (r.params.getD offset 0).toNat

/-- The two parameter bytes at an offset, little-endian. -/
def Record.paramHalf (r : Record) (offset : Nat) : BitVec 16 :=
  r.params.getD (offset + 1) 0 ++ r.params.getD offset 0

/-- The four parameter bytes at offset 0: the target address of a CANCEL. -/
def Record.target (r : Record) : Word :=
  r.params.getD 3 0 ++ r.params.getD 2 0 ++ r.params.getD 1 0 ++ r.params.getD 0 0

/-! ### Enumerated values (R178) -/

/-- The value of a channel state (R178). -/
def ChanState.value : ChanState → Nat
  | .off => 0
  | .acquire => 1
  | .track => 2
  | .held => 3
  | .restoring => 4
  | .suspended => 5

/-- The window mode a value names (R178). -/
def windowModeOf (n : Nat) : Option WindowMode :=
  if n = 0 then some .all else if n = 1 then some .head else if n = 2 then some .tail else none

/-- The validity values of a profile slot (R154, R178). -/
inductive Validity where
  | empty
  | inProgress
  | valid
  | invalid
  deriving DecidableEq, Repr

/-- The value of a validity (R178). -/
def validityWord : Validity → Word
  | .empty => 0
  | .inProgress => 1
  | .valid => 2
  | .invalid => 3

/-! ### Profile directory (R153, R178) -/

/-- A directory entry as read: slot address, capacity, and the protect field, 0 where it is not read. -/
structure DirEntry where
  slotAddr : Word
  capacity : Nat
  guard    : Word
  deriving DecidableEq, Repr

/-- The bytes of a whole profile slot: the header and capacity x 1032 bytes of data (R153). -/
def profileBytes (capacity : Nat) : Nat :=
  64 + capacity * Config.slotBytes

/-- Reads the first `words` words of the directory entry of an index that is below the directory count, and checks it (R153): none is
BAD_SLOT. A restore does not read the third, the protect field (R159). -/
def readDirEntry (index words : Nat) : Work (Option DirEntry) := do
  let s ← getState
  if index < s.geo.dirCount then do
    let ws ← readWords (s.geo.dirAddr.toNat + 16 * index) words
    let e : DirEntry := { slotAddr := ws.getD 0 0, capacity := (ws.getD 1 0).toNat, guard := ws.getD 2 0 }
    pure (if e.slotAddr.toNat % 64 = 0 ∧ s.inside e.slotAddr.toNat (profileBytes e.capacity) = true then some e else none)
  else pure none

/-- The address of profile slot `j`'s data (R154). -/
def profileData (slotAddr : Word) (j : Nat) : Nat :=
  slotAddr.toNat + 64 + j * Config.slotBytes

end Sys2Proof.Machine
end

