-- ==== Sys2Proof/Machine/Channels.lean ====
section
/-! DEFINITION. Chapters 4 and 5: the adaptation window, the near-end decision of stage 4, and the steps of stage 7. -/

namespace Sys2Proof.Machine

/-- Whether a channel in this state reads its extent and forms an estimate (R36). -/
def ChanState.filters : ChanState → Bool
  | .acquire => true
  | .track => true
  | .held => true
  | .off => false
  | .restoring => false
  | .suspended => false

/-- Whether a channel in this state stands in the schedule queue (R70, R110). -/
def ChanState.adapts : ChanState → Bool
  | .acquire => true
  | .track => true
  | .off => false
  | .held => false
  | .restoring => false
  | .suspended => false

/-- Whether a window selects partition `p` of `parts` (R46). -/
def AdaptWindow.selects (w : AdaptWindow) (parts p : Nat) : Bool :=
  let inSet := match w.mode with
    | .all => true
    | .head => decide (p < w.n)
    | .tail => decide (parts - w.n ≤ p)
  xor inSet w.complement

/-- The adapting set, in partition order (R46). -/
def Channel.adaptingSet (ctx : Channel) : List Nat :=
  (List.range ctx.parts).filter (fun p => ctx.window.selects ctx.parts p)

/-- The adapting count a (R46). -/
def Channel.adaptingCount (ctx : Channel) : Nat :=
  ctx.adaptingSet.length

/-! ### Stage 4 (R55 to R59) -/

/-- Near-end detection: the far end is active and Lm > Lx + C + M_dt (R56). -/
def detects (ctx : Channel) (farActive : Bool) (lm lx : Int) : Bool :=
  farActive && decide (lx + ctx.coupling + ctx.tuning.mDt < lm)

/-- The hangover counter after the block (R57). -/
def hangoverAfter (ctx : Channel) (detected : Bool) : Nat :=
  if detected then ctx.tuning.hang.toNat else ctx.hang - 1

/-- Eligibility (R58). -/
def eligibleBlock (ctx : Channel) (farActive detected : Bool) : Bool :=
  !detected && decide (ctx.hang = 0) && farActive

/-- Near-end speech present (R59). -/
def nearEndPresent (detected : Bool) (hang : Nat) : Bool :=
  detected || decide (0 < hang)

/-- The stage-4 decision of a channel with the context it had at the end of stage 1; an OFF channel is not decided (R55). -/
def decideChannel (ctx : Channel) (farActive : Bool) (lx : Int) (w : ChanWork) : ChanWork :=
  if ctx.state = .off then w
  else
    let detected := detects ctx farActive w.lm lx
    { w with hang := hangoverAfter ctx detected
             eligible := eligibleBlock ctx farActive detected
             nearEnd := nearEndPresent detected (hangoverAfter ctx detected) }

/-! ### Stage 7 (R89) -/

/-- The coupling step (R14, R64). -/
def couplingStep (c lm lx : Int) : Int :=
  clamp (smooth c (lm - lx) 16) (-240) 48

/-- The smoothed ERLE step toward the clamped instantaneous ERLE (R14, R81). -/
def erleStep (s lm le : Int) : Int :=
  smooth s (clamp (lm - le) (-96) 240) 8

/-- Steps 1 and 2 of stage 7: coupling and ERLE on an eligible block (R64, R81). -/
def measureStep (ctx : Channel) (lx : Int) (w : ChanWork) : Channel :=
  if w.eligible then
    { ctx with coupling := couplingStep ctx.coupling w.lm lx
               erle := if ctx.state.filters then erleStep ctx.erle w.lm w.le else ctx.erle }
  else ctx

/-- A dwell test: a qualifying block raises the dwell, another clears it; at the limit the state changes and the dwell is 0
(R82, R83). -/
def dwellTest (ctx : Channel) (qualifies : Bool) (limit : Int) (next : ChanState) : Channel :=
  let dwell := if qualifies then ctx.dwell + 1 else 0
  if limit ≤ (dwell : Int) then { ctx with state := next, dwell := 0 } else { ctx with dwell := dwell }

/-- Step 3 of stage 7: the convergence or the path-change test on an eligible block, with the new S (R82, R83, R84). -/
def dwellStep (ctx : Channel) (w : ChanWork) : Channel :=
  if w.eligible then
    match ctx.state with
    | .acquire => dwellTest ctx (decide (ctx.tuning.tConv ≤ ctx.erle)) ctx.tuning.dConv .track
    | .track => dwellTest ctx (decide (ctx.erle < ctx.tuning.tConv - 24)) ctx.tuning.dRecheck .acquire
    | .off => ctx
    | .held => ctx
    | .restoring => ctx
    | .suspended => ctx
  else ctx

/-- Step 4 of stage 7, the strikes of a granted block (R85). -/
def strikeStep (ctx : Channel) (w : ChanWork) : Channel :=
  if w.granted then { ctx with strikes := if w.lm + 24 < w.le then ctx.strikes + 1 else 0 } else ctx

/-- Steps 1 to 4 without the divergence event. -/
def stageSeven (ctx : Channel) (lx : Int) (w : ChanWork) : Channel :=
  { strikeStep (dwellStep (measureStep ctx lx w) w) w with hang := w.hang }

/-- A divergence event occurs when strikes reach 8 in a granted block (R85). -/
def diverges (ctx : Channel) (w : ChanWork) : Bool :=
  w.granted && decide (8 ≤ ctx.strikes)

/-- The divergence history with the frame count appended and at most three kept (R86). -/
def appendDivergence (history : List Word) (s : Word) : List Word :=
  (history ++ [s]).drop (history.length + 1 - 3)

/-- The suspension test on the history the event leaves (R87). -/
def suspends (history : List Word) (s : Word) : Bool :=
  match history with
  | [oldest, _, _] => decide (0 ≤ signedDiff s oldest) && decide (signedDiff s oldest ≤ Config.suspensionWindow)
  | _ => false

/-- What a divergence event at frame `s` makes of the context (R86, R87). -/
def Channel.diverged (ctx : Channel) (s : Word) : Channel :=
  let history := appendDivergence ctx.divergences s
  { ctx with erle := 0, strikes := 0, dwell := 0, divergences := history
             state := if suspends history s then .suspended else .acquire }

/-- The commit of stage 7: the new values enter the live context together; what stage 7 does not own stays (R31). -/
def Channel.commit (live new : Channel) : Channel :=
  { live with state := new.state, erle := new.erle, coupling := new.coupling, hang := new.hang, dwell := new.dwell,
              strikes := new.strikes, divergences := new.divergences }

end Sys2Proof.Machine
end

