-- ==== Sys2Proof/Machine/Flags.lean ====
section
/-! DEFINITION. What the register port and the pins show of the state: ESTAT, EFAULT, EID, ECTL and XBASE (R179), the notice line
(R177), and which actions an engine state takes (R180). -/

namespace Sys2Proof.Machine

/-- The value of an engine state in ESTAT bits 2..0 (R179). -/
def engineBits : EngineState → BitVec 3
  | .reset => 0
  | .halted => 1
  | .running => 2
  | .stepWait => 3
  | .draining => 4
  | .faulted => 5

/-- The value of the step result in ESTAT bits 11..10 (R179). -/
def stepResultBits : StepResult → BitVec 2
  | .none => 0
  | .processed => 1
  | .noFrame => 2

/-- The value of the mover state in ESTAT bits 6..5 (R179). -/
def moverBits : Option Transfer → BitVec 2
  | none => 0
  | some t => match t.direction with
    | .capture => 1
    | .restore => 2

/-- The value of a fault code in EFAULT bits 1..0 (R179). -/
def faultCodeBits : FaultCode → BitVec 2
  | .none => 0
  | .busError => 1
  | .window => 2
  | .geometry => 3

/-- Frame-busy: a frame cycle is in flight (R169, R179). -/
def State.frameBusy (s : State) : Bool :=
  s.flight.isSome

/-- What a read of ESTAT returns; the bits not listed read 0 (R179). -/
def State.estat (s : State) : Word :=
  0#20 ++ stepResultBits s.stepResult ++ BitVec.ofBool s.ignored ++ BitVec.ofBool s.notice ++ BitVec.ofBool s.lock ++
    moverBits s.transfer ++ BitVec.ofBool s.tickPending ++ BitVec.ofBool s.frameBusy ++ engineBits s.engine

/-- The contents of EFAULT: detail in bits 31..2, code in bits 1..0 (R179). -/
def State.efault (s : State) : Word :=
  s.faultDetail ++ faultCodeBits s.faultCode

/-- What a read of EID returns: family code 0x1604, revision 1 (R179). That bits 15..8 read 0 is the model's choice:
notes/assumptions/38.md. -/
def eid : Word := 0x16040001#32

/-- What a read of ECTL returns (R179). -/
def ectlRead : Word := 0#32

/-- The level the part leaves NOTICE_N at: low while notice-pending is set (R177, R186). -/
def State.noticeLine (s : State) : PinLevel :=
  if s.notice then .low else .high

/-- The engine actions (R180). -/
inductive EngineAction where
  | start
  | startStepped
  | step
  | halt
  | abort
  | softReset
  | ackNotice
  deriving DecidableEq, Repr

/-- The action a value written to ECTL names (R179). -/
def actionOf (value : Word) : Option EngineAction :=
  if value = 1 then some .start
  else if value = 2 then some .startStepped
  else if value = 3 then some .step
  else if value = 4 then some .halt
  else if value = 5 then some .abort
  else if value = 6 then some .softReset
  else if value = 7 then some .ackNotice
  else none

/-- Whether an action is taken (R180). -/
def State.takes (s : State) : EngineAction → Bool
  | .start => decide (s.engine = .halted)
  | .startStepped => decide (s.engine = .halted)
  | .step => decide (s.engine = .stepWait) && !s.frameBusy
  | .halt => decide (s.engine = .running) || decide (s.engine = .stepWait)
  | .abort => decide (s.engine = .running) || decide (s.engine = .stepWait) || decide (s.engine = .draining)
  | .softReset => decide (s.engine ≠ .reset)
  | .ackNotice => true

/-- Whether the mover makes accesses: in RUNNING and STEP_WAIT (R156, R165). -/
def State.moverWorks (s : State) : Bool :=
  decide (s.engine = .running) || decide (s.engine = .stepWait)

/-- Whether a frame in flight goes on: in RUNNING, STEP_WAIT and DRAINING (R183). -/
def State.frameWorks (s : State) : Bool :=
  decide (s.engine = .running) || decide (s.engine = .stepWait) || decide (s.engine = .draining)

end Sys2Proof.Machine
end

