-- ==== Sys2Proof/Machine/Pool.lean ====
section
/-! DEFINITION. Chapter 6: the gaps of the coefficient pool, allocation, shrink and release of extents, the port's arbiter, and the
storage upset. -/

namespace Sys2Proof.Machine

/-- The gaps of the pool from slot `pos` on, lowest first, each a base and a length; a run of no slots is not a gap (R95). -/
def gapsFrom (pos : Nat) : List Extent → List (Nat × Nat)
  | [] => if pos < Config.poolSlots then [(pos, Config.poolSlots - pos)] else []
  | e :: es => (if pos < e.base then [(pos, e.base - pos)] else []) ++ gapsFrom (e.base + e.size) es

/-- The gaps of an allocation list (R95). -/
def gaps (alloc : List Extent) : List (Nat × Nat) :=
  gapsFrom 0 alloc

/-- The free total: 2048 less the sizes in the list (R95). -/
def freeTotal (alloc : List Extent) : Nat :=
  Config.poolSlots - (alloc.map Extent.size).sum

/-- The length of the largest gap (R97). -/
def largestGap (alloc : List Extent) : Nat :=
  ((gaps alloc).map Prod.snd).foldl max 0

/-- The base a first-fit allocation of `size` slots takes: the first gap that is long enough (R96). -/
def firstFit (alloc : List Extent) (size : Nat) : Option Nat :=
  ((gaps alloc).find? (fun g => decide (size ≤ g.2))).map Prod.fst

/-- An entry inserted at its place in base order (R96). -/
def insertExtent (e : Extent) : List Extent → List Extent
  | [] => [e]
  | d :: ds => if e.base ≤ d.base then e :: d :: ds else d :: insertExtent e ds

/-- The list without channel `c`'s entry (R101). -/
def State.releaseExtent (s : State) (c : Nat) : State :=
  { s with alloc := s.alloc.filter (fun e => decide (e.chan ≠ c)) }

/-- The list with channel `c`'s entry shortened in place to `size` slots (R100). -/
def State.shrinkExtent (s : State) (c size : Nat) : State :=
  { s with alloc := s.alloc.map (fun e => if e.chan = c then { e with size := size } else e) }

/-- The list with a new entry, and the slots of its extent zeroed (R96, R98). -/
def State.allocate (s : State) (c base size : Nat) : State :=
  { s with alloc := insertExtent { chan := c, base := base, size := size } s.alloc }.zeroSlots base size

/-! ### The port's arbiter (R104 to R106) -/

/-- The first entry, in table order, whose due is at or before `seq` (R32), by the signed comparison of 00_scope.md. After a START has moved
D backward by 2^31 or slightly more, an entry due at or before the old D can have a signed difference below zero, though R144 says that it
compares as past: it waits, the model's choice, notes/assumptions/41.md. -/
def State.dueEntry (s : State) (seq : Word) : Option Entry :=
  s.table.find? (fun e => atOrBefore e.due seq)

/-- Whether applying an entry writes zeros through the port: the extent of a new allocation, or that of a channel reset (R98, R102,
R106). -/
def State.zeroes (s : State) (e : Entry) : Bool :=
  decide (e.chan < s.geo.mics) &&
    match e.action with
    | .configure parts => decide ((s.chan e.chan).state = .off) && (firstFit s.alloc (parts * s.geo.refs)).isSome
    | .reset => decide ((s.chan e.chan).state ≠ .off)
    | .release => false
    | .freeze => false
    | .thaw => false
    | .setWindow _ => false
    | .setTuning _ _ => false
    | .capture _ => false
    | .restore _ => false

/-- Whether the next application of stage 1 of the frame with count `seq` writes zeros. -/
def State.zeroesNext (s : State) (seq : Word) : Bool :=
  match s.dueEntry seq with
  | some e => s.zeroes e
  | none => false

/-- Whether the engine goes from one port access of a stage to the next, so that a waiting mover is not granted (R105, R106). In stage 1
the table says whether another zeroing follows. -/
def State.engineAsks (s : State) : Bool :=
  match s.flight with
  | some f => f.asks && (decide (f.phase ≠ .apply) || s.zeroesNext f.count)
  | none => false

/-! ### The storage upset (R91) -/

/-- A slot after an upset of part `part`: the part holds `value` and disagrees with its parity bit (R91). -/
def Slot.upset (v : Slot) (part : Nat) (value : Word) : Slot :=
  { parts := v.parts.set part value, bad := v.bad ||| (1#258 <<< part) }

/-- STORAGE_UPSET (R91): a stored part changes without a write. A slot or a part that does not exist cannot be hit. -/
def execStorageUpset (slot part : Nat) (value : Word) (s : State) : Host.Outcome State Fault Refusal :=
  .next (if slot < Config.poolSlots ∧ part < Config.slotParts then s.setSlot slot ((s.slot slot).upset part value) else s)

end Sys2Proof.Machine
end

