-- ==== Sys2Proof/Machine/Mover.lean ====
section
/-! DEFINITION. Chapter 10: the profile mover. Starting a capture or a restore at application, the segments, and every way a
transfer ends. -/

namespace Sys2Proof.Machine

/-! ### Ending a transfer (R161 to R166) -/

/-- Writes the completion of a transfer: the sequence is the done count as it stands (R166). -/
def completeTransfer (t : Transfer) (code : Code) (result : Word) : Work Unit := do
  let s ← getState
  complete t.cmd (lateCode t.late code) s.done result t.notify

/-- The mover idle, and the channel's capture flag clear. -/
def State.endCapture (s : State) (t : Transfer) : State :=
  (s.modChan t.chan (fun ctx => { ctx with capture := false })).setTransfer none

/-- Writes the validity of a profile slot's header (R154). -/
def writeValidity (slotAddr : Word) (v : Validity) : Work Unit :=
  writeWord slotAddr.toNat (validityWord v)

/-- Ends a capture before it is whole: flag clear and mover idle whatever the writes meet (R165), header INVALID, completion
(R162, R163, R164). -/
def endCaptureEarly (t : Transfer) (code : Code) (result : Word) : Work Unit := do
  update fun s => s.endCapture t
  writeValidity t.slotAddr .invalid
  completeTransfer t code result

/-- The frame in flight, if there is one, notes that a parity failure has ended a capture of channel `c` (R93). -/
def State.noteFailedCapture (s : State) (c : Nat) : State :=
  s.setFlight (s.flight.map fun f => { f with failedCaptures := c :: f.failedCaptures })

/-- Ends a capture DATA_ERROR, slot `j` of the extent having failed parity, whichever party found it (R93, R163). The mover is done with
it at once; the walk of a frame in flight takes the flag's clearing after its reading, so that the slot ends the frame holding zeros:
notes/assumptions/28.md. -/
def endCaptureFailed (t : Transfer) (j : Nat) : Work Unit := do
  update fun s => s.noteFailedCapture t.chan
  endCaptureEarly t .dataError (BitVec.ofNat 32 j)

/-- Ends a transfer ABORTED within an application to its channel; the application then acts on the channel (R162). -/
def endByApplication (t : Transfer) : Work Unit := do
  match t.direction with
  | .capture => endCaptureEarly t .aborted (BitVec.ofNat 32 t.progress)
  | .restore => do
    update fun s => s.setTransfer none
    completeTransfer t .aborted (BitVec.ofNat 32 t.progress)

/-- The channel of a restore that ABORT ends: the values of RESET_CHANNEL, its extent zeroed, the head of the queue (R80, R164). -/
def State.resetChannel (s : State) (c : Nat) : State :=
  ((s.zeroExtent c).modChan c Channel.resetValues).toHead c

/-- ABORT ends the transfer in flight (R164). -/
def endByAbort (t : Transfer) : Work Unit := do
  match t.direction with
  | .capture => endCaptureEarly t .aborted (BitVec.ofNat 32 t.progress)
  | .restore => do
    update fun s => (s.resetChannel t.chan).setTransfer none
    completeTransfer t .aborted (BitVec.ofNat 32 t.progress)

/-- The context a restore's end gives: TRACK, S and C of the header, h, strikes and dwell 0 (R80, R161). -/
def Channel.restored (ctx : Channel) (t : Transfer) : Channel :=
  { ctx with state := .track, prior := none, erle := t.erle, coupling := t.coupling, hang := 0, strikes := 0, dwell := 0 }

/-- Whether a transfer is a restore whose copy and fill are made, its end not yet taken (R161). -/
def Transfer.endReady (t : Transfer) : Bool :=
  decide (t.direction = .restore) && decide (t.copy + t.fill ≤ t.progress)

/-- Takes the end of a restore: the channel, the queue, then the completion; the mover is idle whatever the completion's writes
meet (R161, R165). A frame that ends early after it, before the channel's stage 7, leaves the C and h it has set: the model's choice,
notes/assumptions/34.md. -/
def takeRestoreEnd (t : Transfer) : Work Unit := do
  update fun s => ((s.modChan t.chan (fun ctx => ctx.restored t)).toTail t.chan).setTransfer none
  completeTransfer t .ok (pairResult t.parts t.fitted.toNat)

/-- Takes a restore's end that is ready (R161, R165). -/
def takeReadyEnd : Work Unit := do
  let s ← getState
  match s.transfer with
  | some t => if t.endReady then takeRestoreEnd t else pure ()
  | none => pure ()

/-! ### Starting a transfer at stage 1 (R157 to R160) -/

/-- The transfer in flight that makes another one BUSY: any but a restore of this channel (R157, R159). -/
def State.busyTransfer (s : State) (c : Nat) : Option Transfer :=
  match s.transfer with
  | some t => if t.direction = .restore ∧ t.chan = c then none else some t
  | none => none

/-- The state check of a capture and of a restore: not in ACQUIRE, TRACK or HELD is BAD_STATE, with the state as result. -/
def stateRefusal (ctx : Channel) : Option (Code × Word) :=
  if ctx.state.filters then none else some (.badState, BitVec.ofNat 32 ctx.state.value)

/-- Checks 2 to 6 of a capture (R157). For a channel in OFF check 4 passes. -/
def captureRefusal (s : State) (c index : Nat) (e : DirEntry) : Option (Code × Word) :=
  let ctx := s.chan c
  if s.lock then some (.locked, 0)
  else if e.guard ≠ 0 then some (.protected_, BitVec.ofNat 32 index)
  else if ctx.state ≠ .off ∧ e.capacity < ctx.parts * s.geo.refs then
    some (.tooSmall, BitVec.ofNat 32 (ctx.parts * s.geo.refs))
  else match s.busyTransfer c with
    | some t => some (.busy, BitVec.ofNat 32 t.chan)
    | none => stateRefusal ctx

/-- The header a capture begins with: IN_PROGRESS, then P and R, S and C, the capture sequence, moved 0 and the unused bytes
zero (R154, R158, R178). -/
def captureHeader (ctx : Channel) (refs : Nat) (sequence : Word) : List Word :=
  [validityWord .inProgress, pairResult ctx.parts refs, half ctx.coupling ++ half ctx.erle, sequence] ++
    List.replicate 12 0#32

/-- Applies a CAPTURE_PROFILE at frame `seq`: its refusal, or none when the transfer has started (R157, R158). -/
def applyCapture (seq : Word) (e : Entry) (index : Nat) : Work (Option (Code × Word)) := do
  let entry ← readDirEntry index 3
  match entry with
  | none => pure (some (.badSlot, BitVec.ofNat 32 index))
  | some d => do
    let s ← getState
    match captureRefusal s e.chan index d with
    | some refusal => pure (some refusal)
    | none => do
      let ctx := s.chan e.chan
      writeWords d.slotAddr.toNat (captureHeader ctx s.geo.refs seq)
      update fun s =>
        (s.modChan e.chan (fun ctx => { ctx with capture := true })).setTransfer
          (some
            { direction := .capture, chan := e.chan, index := index, slotAddr := d.slotAddr, capacity := d.capacity,
              copy := ctx.parts * s.geo.refs, fill := 0, progress := 0, fitted := false, cmd := e.addr, late := e.late,
              notify := e.notify, parts := ctx.parts, erle := ctx.erle, coupling := ctx.coupling })
      pure none

/-- Checks 2 and 3 of a restore (R159). -/
def restoreRefusal (s : State) (c : Nat) : Option (Code × Word) :=
  match s.busyTransfer c with
  | some t => some (.busy, BitVec.ofNat 32 t.chan)
  | none => stateRefusal (s.chan c)

/-- Checks 4 and 5 of a restore, on the header's words 0 and 1 (R159). -/
def headerRefusal (refs capacity : Nat) (w0 w1 : Word) : Option (Code × Word) :=
  if w0 = validityWord .valid ∧ 4 ≤ halfOf w1 0 ∧ halfOf w1 0 ≤ 64 ∧ halfOf w1 0 * halfOf w1 1 ≤ capacity then
    if halfOf w1 1 ≠ refs then some (.mismatch, BitVec.ofNat 32 (halfOf w1 1)) else none
  else some (.noProfile, w0)

/-- The context a restore's start gives: RESTORING, no prior state, dwell 0 (R80). -/
def Channel.enterRestoring (ctx : Channel) : Channel :=
  { ctx with state := .restoring, prior := none, dwell := 0 }

/-- Applies a RESTORE_PROFILE: its refusal, or none when the transfer has started (R159, R160). The protect field is not read. That the
header's words 0 to 2 are read, and no other, is the model's choice: notes/assumptions/36.md. -/
def applyRestore (e : Entry) (index : Nat) : Work (Option (Code × Word)) := do
  let entry ← readDirEntry index 2
  match entry with
  | none => pure (some (.badSlot, BitVec.ofNat 32 index))
  | some d => do
    let s ← getState
    match restoreRefusal s e.chan with
    | some refusal => pure (some refusal)
    | none => do
      let ws ← readWords d.slotAddr.toNat 3
      let w1 := ws.getD 1 0
      let w2 := ws.getD 2 0
      match headerRefusal s.geo.refs d.capacity (ws.getD 0 0) w1 with
      | some refusal => pure (some refusal)
      | none => do
        let own := (s.chan e.chan).parts
        let saved := halfOf w1 0
        update fun s =>
          ((s.modChan e.chan Channel.enterRestoring).dequeue e.chan).setTransfer
            (some
              { direction := .restore, chan := e.chan, index := index, slotAddr := d.slotAddr, capacity := d.capacity,
                copy := min saved own * s.geo.refs, fill := (own - saved) * s.geo.refs, progress := 0,
                fitted := decide (saved ≠ own), cmd := e.addr, late := e.late, notify := e.notify, parts := saved,
                erle := clamp (signedHalfOf w2 0) (-96) 240, coupling := clamp (signedHalfOf w2 1) (-240) 48 })
        pure none

/-! ### Segments (R156, R158, R160) -/

/-- The slots of the next segment of a run of which `left` slots are left (R156). -/
def segmentSize (left : Nat) : Nat :=
  min Config.segmentSlots left

/-- The slots of the segment that a transfer is in or begins next; none when copy and fill are made (R156). -/
def Transfer.segment (t : Transfer) : Nat :=
  if t.progress < t.copy then segmentSize (t.copy - t.progress) else segmentSize (t.copy + t.fill - t.progress)

/-- The transfer with its segment complete: the progress rises by its size (R156). -/
def Transfer.advanced (t : Transfer) : Transfer :=
  { t with progress := t.progress + t.segment, read := [], written := 0, moveDue := false }

/-- The transfer as the mover resumes it: the segment begun is made again from its first slot, but a failed write of `moved` alone
is not forgotten (R165). -/
def Transfer.resumed (t : Transfer) : Transfer :=
  { t with read := [], written := 0 }

/-- The mover resumes (R165). -/
def State.resumeMover (s : State) : State :=
  s.setTransfer (s.transfer.map Transfer.resumed)

/-- The accesses that segments are made of (R104, R158, R160). -/
inductive MoverAccess where
  | captureRead
  | dataWrite
  | movedWrite
  | validWrite
  | dataRead
  | restoreWrite
  deriving DecidableEq, Repr

/-- The mover's next access: of a capture the segment's reads, then its data, then `moved`, and VALID after the last; of a restore's copy
the segment's data, then its writes, of its fill the writes (R158, R160). -/
def Transfer.access (t : Transfer) : Option MoverAccess :=
  match t.direction with
  | .capture =>
    if t.segment = 0 then some .validWrite
    else if t.moveDue then some .movedWrite
    else if t.read.length < t.segment then some .captureRead
    else if t.written < t.segment then some .dataWrite
    else some .movedWrite
  | .restore =>
    if t.segment = 0 then none
    else if t.progress < t.copy ∧ t.read.length < t.segment then some .dataRead
    else some .restoreWrite

/-- Whether an access passes through the pool port (R104). -/
def MoverAccess.usesPort : MoverAccess → Bool
  | .captureRead => true
  | .restoreWrite => true
  | .dataWrite => false
  | .movedWrite => false
  | .validWrite => false
  | .dataRead => false

/-- A capture's end when `moved` has reached its copy count: VALID, flag clear, completion, idle (R158, R165). -/
def finishCapture (t : Transfer) : Work Unit := do
  writeValidity t.slotAddr .valid
  update fun s => s.endCapture t
  completeTransfer t .ok (BitVec.ofNat 32 t.copy)

/-- A capture read of the mover failed: the channel's parity count rises, and the capture ends DATA_ERROR (R163). -/
def captureReadFailed (t : Transfer) (j : Nat) : Work Unit := do
  update fun s => s.modChan t.chan Channel.countParity
  endCaptureFailed t j

/-- One capture read (R158): the slot's parts join the segment, or the capture ends (R163). -/
def captureRead (t : Transfer) : Work Unit := do
  let s ← getState
  let j := t.progress + t.read.length
  let r ← readSlot ((s.extent t.chan).base + j)
  if r.2 then captureReadFailed t j
  else update fun s => s.setTransfer (some { t with read := t.read ++ [r.1] })

/-- One slot of the segment is written to the data area (R154, R158). -/
def captureDataWrite (t : Transfer) : Work Unit := do
  writeWords (profileData t.slotAddr (t.progress + t.written)) (t.read.getD t.written [])
  update fun s => s.setTransfer (some { t with written := t.written + 1 })

/-- The segment's new progress is written into `moved`, and then counted; a write that fails is alone made again (R156, R158, R165). -/
def captureMovedWrite (t : Transfer) : Work Unit := do
  onFault (writeWord (t.slotAddr.toNat + 0x10) (BitVec.ofNat 32 (t.progress + t.segment)))
    (fun s => s.setTransfer (some { t with moveDue := true }))
  update fun s => s.setTransfer (some t.advanced)

/-- The parts of a restored slot: as read, the imaginary parts of bins 0 and 128 zero (R160). -/
def restoredParts (parts : List Word) : List Word :=
  (parts.set 1 0#32).set 257 0#32

/-- One slot of the segment is read from the data area (R160). -/
def restoreDataRead (t : Transfer) : Work Unit := do
  let parts ← readWords (profileData t.slotAddr (t.progress + t.read.length)) Config.slotParts
  update fun s => s.setTransfer (some { t with read := t.read ++ [parts] })

/-- What a restore write gives its slot: the profile's parts in the copy, zeros in the fill (R160). -/
def Transfer.restoreParts (t : Transfer) : List Word :=
  if t.progress < t.copy then restoredParts (t.read.getD t.written []) else Slot.zero.parts

/-- One restore write; the last of the segment completes it (R156, R160). -/
def restoreWrite (t : Transfer) : Work Unit :=
  update fun s =>
    (s.writeSlot ((s.extent t.chan).base + t.progress + t.written) t.restoreParts).setTransfer
      (some (if t.written + 1 < t.segment then { t with written := t.written + 1 } else t.advanced))

/-- One access of the mover. -/
def moverUnit (t : Transfer) : MoverAccess → Work Unit
  | .captureRead => captureRead t
  | .dataWrite => captureDataWrite t
  | .movedWrite => captureMovedWrite t
  | .validWrite => finishCapture t
  | .dataRead => restoreDataRead t
  | .restoreWrite => restoreWrite t

/-- Whether the command goes on after an access: until the segment that stood at `progress` is complete, and over the end of a
capture whose last segment that was (R158). -/
def State.segmentGoesOn (s : State) (progress : Nat) : Bool :=
  match s.transfer with
  | some t => decide (t.progress = progress) || decide (t.access = some .validWrite)
  | none => false

/-- At most `n` accesses of one segment. An access to the pool waits while the engine asks for the port (R105). -/
def runSegment : Nat → Work Unit
  | 0 => pure ()
  | n + 1 => do
    let s ← getState
    match s.transfer with
    | some t =>
      match t.access with
      | some a =>
        if a.usesPort = true ∧ s.engineAsks = true then pure ()
        else do
          moverUnit t a
          let s ← getState
          if s.segmentGoesOn t.progress then runSegment n else pure ()
      | none => pure ()
    | none => pure ()

/-- The accesses of a segment command, if the mover works and holds a transfer of the direction (R107, R156): to the end of the
segment, or as many as the environment's timing gives the command, the rest being left to the next (R104). -/
def moveSegment (direction : Direction) (s : State) : State :=
  match s.transfer with
  | some t =>
    if s.moverWorks ∧ t.direction = direction then
      settle (runSegment (s.grants.headD Config.segmentFuel)) (s.setGrants s.grants.tail)
    else s
  | none => s

/-- CAPTURE_SEGMENT (R158): accesses of the capture in flight. -/
def execCaptureSegment (s : State) : Host.Outcome State Fault Refusal :=
  .next (moveSegment .capture s)

/-- RESTORE_SEGMENT (R160): accesses of the restore in flight. -/
def execRestoreSegment (s : State) : Host.Outcome State Fault Refusal :=
  .next (moveSegment .restore s)

/-- Whether the frame in flight, if there is one, lets a restore's end be taken: it stands between two stages, after stage 1 and before
the walk (R71, R161). -/
def State.endPoint (s : State) : Bool :=
  match s.flight with
  | none => true
  | some f => match f.phase with
    | .push => true
    | .estimate c => decide (c = 0)
    | .decide => true
    | .walk => true
    | .apply => false
    | .filter _ => false
    | .adapt _ => false
    | .commit _ => false
    | .zeroing _ _ => false
    | .suppress _ => false
    | .output _ => false
    | .report => false
    | .status => false
    | .count => false

/-- RESTORE_END (R161): a ready end is taken, if the engine works and the frame in flight allows it now; else it waits. -/
def execRestoreEnd (s : State) : Host.Outcome State Fault Refusal :=
  if s.moverWorks ∧ s.endPoint then .next (settle takeReadyEnd s) else .next s

end Sys2Proof.Machine
end

