-- ==== Sys2Proof/Machine/Actions.lean ====
section
/-! DEFINITION. Stage 1 (R32, R33): the effect of each kind filed in the action table, and the application of one entry. -/

namespace Sys2Proof.Machine

/-- Base and size of an extent as a result (R99). -/
def extentResult (e : Extent) : Word :=
  pairResult e.base e.size

/-- The state a channel returns to from HELD (R78). -/
def priorOf (prior : Option PriorState) : ChanState :=
  match prior with
  | some .track => .track
  | some .acquire => .acquire
  | none => .acquire

/-! ### CONFIGURE_CHANNEL (R73, R74, R96 to R100) -/

/-- From OFF: first-fit allocation, or the pool's refusal (R73, R96, R97). -/
def configureOff (s : State) (c parts : Nat) : State × Code × Word :=
  let size := parts * s.geo.refs
  match firstFit s.alloc size with
  | some base =>
    (((s.allocate c base size).setChan c (Channel.configured parts)).toHead c, .ok, pairResult base size)
  | none =>
    if freeTotal s.alloc < size then (s, .noRoom, BitVec.ofNat 32 (freeTotal s.alloc))
    else (s, .fragmented, BitVec.ofNat 32 (largestGap s.alloc))

/-- The window after a shrink to `parts` partitions: n at most the new P (R47). -/
def Channel.shrunk (ctx : Channel) (parts : Nat) : Channel :=
  { ctx with parts := parts, window := { ctx.window with n := min ctx.window.n parts } }

/-- Of a configured channel: equal, larger or smaller P (R74). -/
def configureOn (s : State) (c parts : Nat) : State × Code × Word :=
  let ctx := s.chan c
  if parts = ctx.parts then (s, .ok, extentResult (s.extent c))
  else if ctx.parts < parts then (s, .growRefused, extentResult (s.extent c))
  else if ctx.state = .restoring then (s, .badState, extentResult (s.extent c))
  else
    let t := (s.shrinkExtent c (parts * s.geo.refs)).modChan c (fun ctx => ctx.shrunk parts)
    (t, .ok, extentResult (t.extent c))

/-- CONFIGURE_CHANNEL. -/
def applyConfigure (s : State) (c parts : Nat) : State × Code × Word :=
  if (s.chan c).state = .off then configureOff s c parts else configureOn s c parts

/-! ### The other kinds that complete at application -/

/-- RELEASE_CHANNEL (R75, R101). -/
def applyRelease (s : State) (c : Nat) : State × Code × Word :=
  if (s.chan c).state = .off then (s, .badState, 0)
  else (((s.releaseExtent c).dequeue c).setChan c .off, .ok, extentResult (s.extent c))

/-- RESET_CHANNEL (R76, R102); the result is the size of the extent zeroed (R150). -/
def applyReset (s : State) (c : Nat) : State × Code × Word :=
  if (s.chan c).state = .off then (s, .badState, 0)
  else (s.resetChannel c, .ok, BitVec.ofNat 32 (s.extent c).size)

/-- A channel frozen from `prior` (R77). -/
def Channel.frozen (ctx : Channel) (prior : PriorState) : Channel :=
  { ctx with state := .held, prior := some prior, dwell := 0 }

/-- A completion whose result is the channel's state after application (R150). -/
def withState (s : State) (c : Nat) (code : Code) : State × Code × Word :=
  (s, code, BitVec.ofNat 32 (s.chan c).state.value)

/-- FREEZE (R77). -/
def applyFreeze (s : State) (c : Nat) : State × Code × Word :=
  match (s.chan c).state with
  | .acquire => withState ((s.modChan c (fun ctx => ctx.frozen .acquire)).dequeue c) c .ok
  | .track => withState ((s.modChan c (fun ctx => ctx.frozen .track)).dequeue c) c .ok
  | .held => withState s c .ok
  | .off => withState s c .badState
  | .restoring => withState s c .badState
  | .suspended => withState s c .badState

/-- A held channel thawed (R78). -/
def Channel.thawed (ctx : Channel) : Channel :=
  { ctx with state := priorOf ctx.prior, prior := none }

/-- The place in the queue of a thawed channel: the head in ACQUIRE, the tail in TRACK (R72). -/
def State.enqueueThawed (s : State) (c : Nat) : State :=
  if (s.chan c).state = .track then s.toTail c else s.toHead c

/-- THAW (R78). -/
def applyThaw (s : State) (c : Nat) : State × Code × Word :=
  match (s.chan c).state with
  | .held => withState ((s.modChan c Channel.thawed).enqueueThawed c) c .ok
  | .acquire => withState s c .ok
  | .track => withState s c .ok
  | .off => withState s c .badState
  | .restoring => withState s c .badState
  | .suspended => withState s c .badState

/-- SET_WINDOW: n clamped to P; the result is the n held and the adapting count (R47, R150). -/
def applySetWindow (s : State) (c : Nat) (w : AdaptWindow) : State × Code × Word :=
  if (s.chan c).state = .off then (s, .badState, 0)
  else
    let t := s.modChan c (fun ctx => { ctx with window := { w with n := min w.n ctx.parts } })
    (t, .ok, pairResult (t.chan c).window.n (t.chan c).adaptingCount)

/-- Tuning field `i` of R67's table replaced. -/
def Tuning.setField (t : Tuning) (i : Nat) (v : Int) : Tuning :=
  match i with
  | 0 => { t with muAcq := v }
  | 1 => { t with muTrk := v }
  | 2 => { t with tConv := v }
  | 3 => { t with dConv := v }
  | 4 => { t with dRecheck := v }
  | 5 => { t with mDt := v }
  | 6 => { t with hang := v }
  | 7 => { t with floor := v }
  | 8 => { t with attack := v }
  | 9 => { t with release := v }
  | _ => t

/-- The tuning with the fields that the mask names replaced by the command's values (R79, R151). -/
def Tuning.merge (t : Tuning) (mask : BitVec 16) (values : List Int) : Tuning :=
  (List.range 10).foldl (fun t i => if mask.getLsbD i then t.setField i (values.getD i 0) else t) t

/-- A context with a new tuning: h is lowered to an H below it (R60). -/
def Channel.retuned (ctx : Channel) (tuning : Tuning) : Channel :=
  { ctx with tuning := tuning, hang := min ctx.hang tuning.hang.toNat }

/-- SET_TUNING: the state check, then the check of the merged step sizes (R151). -/
def applySetTuning (s : State) (c : Nat) (mask : BitVec 16) (values : List Int) : State × Code × Word :=
  if (s.chan c).state = .off then (s, .badState, 0)
  else
    let merged := (s.chan c).tuning.merge mask values
    if merged.muAcq < merged.muTrk then (s, .range, 4)
    else (s.modChan c (fun ctx => ctx.retuned merged), .ok, 0)

/-! ### One application (R32 to R35) -/

/-- Whether an application takes the extent away from, or changes it under, a transfer on its channel (R103, R162). -/
def endsTransfer (s : State) (e : Entry) : Bool :=
  let ctx := s.chan e.chan
  match e.action with
  | .release => decide (ctx.state ≠ .off)
  | .reset => decide (ctx.state ≠ .off)
  | .configure parts => decide (ctx.state ≠ .off) && decide (ctx.state ≠ .restoring) && decide (parts < ctx.parts)
  | .freeze => false
  | .thaw => false
  | .setWindow _ => false
  | .setTuning _ _ => false
  | .capture _ => false
  | .restore _ => false

/-- Ends the transfer on the entry's channel, if the application does so. -/
def endTransferFor (e : Entry) : Work Unit := do
  let s ← getState
  match s.transfer with
  | some t => if t.chan = e.chan ∧ endsTransfer s e then endByApplication t else pure ()
  | none => pure ()

/-- Makes a change that completes at application. -/
def applyNow (change : State → State × Code × Word) : Work (Option (Code × Word)) := fun s =>
  .ok (some (change s).2) (change s).1

/-- The effect of an entry at frame `seq`: its code and result, or none when it started a transfer (R33, R150). A channel that is
M or above is refused before any check of the kind (R144). -/
def applyAction (seq : Word) (e : Entry) : Work (Option (Code × Word)) := do
  let s ← getState
  if s.geo.mics ≤ e.chan then pure (some (.badChannel, BitVec.ofNat 32 e.chan))
  else match e.action with
    | .configure parts => applyNow (fun s => applyConfigure s e.chan parts)
    | .release => applyNow (fun s => applyRelease s e.chan)
    | .reset => applyNow (fun s => applyReset s e.chan)
    | .freeze => applyNow (fun s => applyFreeze s e.chan)
    | .thaw => applyNow (fun s => applyThaw s e.chan)
    | .setWindow w => applyNow (fun s => applySetWindow s e.chan w)
    | .setTuning mask values => applyNow (fun s => applySetTuning s e.chan mask values)
    | .capture index => applyCapture seq e index
    | .restore index => applyRestore e index

/-- Takes an entry out of the action table: the first that equals it. -/
def State.removeEntry (s : State) (e : Entry) : State :=
  s.setTable (s.table.erase e)

/-- Applies one entry at frame `seq`, whole (R32, R33, R35). A fault of the writes that end a transfer leaves the entry in the
table; any later fault finds it removed. -/
def applyEntry (seq : Word) (e : Entry) : Work Unit := do
  let s ← getState
  if e.chan < s.geo.mics then endTransferFor e else pure ()
  update fun s => s.removeEntry e
  let outcome ← applyAction seq e
  match outcome with
  | some r => complete e.addr (lateCode e.late r.1) seq r.2 e.notify
  | none => pure ()

end Sys2Proof.Machine
end

