-- ==== Sys2Proof/Machine/Cyclotomic.lean ====
section
/-! DEFINITION. The exact arithmetic behind chapter 3: numbers of the field of the 256th roots of unity, as 128 rational
coefficients of the powers of z = e^(j2pi/256), where z^128 = -1. The transforms of R18, R40 and R44 are exact in it; only the last
step, the rounding of a real value, encloses the cosines. -/

namespace Sys2Proof.Machine

/-- An exact number: coefficient i belongs to z^i, i = 0..127. -/
abbrev Cyc := List Rat

/-- Zero. -/
def cycZero : Cyc :=
  List.replicate 128 0

/-- Sum. -/
def cycAdd (a b : Cyc) : Cyc :=
  List.zipWith (fun x y => x + y) a b

/-- A rational multiple. -/
def cycScale (q : Rat) (a : Cyc) : Cyc :=
  a.map (fun x => q * x)

/-- The product with z^e for e in 0..128: what passes z^128 comes back negated. -/
def cycTurnHalf (e : Nat) (a : Cyc) : Cyc :=
  (a.drop (128 - e)).map (fun x => -x) ++ a.take (128 - e)

/-- The product with z^e for any e. -/
def cycTurn (e : Nat) (a : Cyc) : Cyc :=
  if e % 256 < 128 then cycTurnHalf (e % 256) a
  else (cycTurnHalf (e % 256 - 128) a).map (fun x => -x)

/-- The complex conjugate: z^(-i) is -z^(128-i). -/
def cycConj : Cyc → Cyc
  | [] => []
  | x :: xs => x :: xs.reverse.map (fun y => -y)

/-- The product of `b` with the number whose coefficients from z^i on are `a`. -/
def cycMulFrom (b : Cyc) : Nat → Cyc → Cyc
  | _, [] => cycZero
  | i, x :: xs =>
    if x = 0 then cycMulFrom b (i + 1) xs else cycAdd (cycScale x (cycTurn i b)) (cycMulFrom b (i + 1) xs)

/-- Product. -/
def cycMul (a b : Cyc) : Cyc :=
  cycMulFrom b 0 a

/-- The integer number `x` times z^e. -/
def cycMono (e : Nat) (x : Rat) : Cyc :=
  cycTurn e (x :: List.replicate 127 0)

/-- floor(cos(2 pi j / 256) x 2^128) for j = 0..64; entries 0 and 64 are exact. `cosTable_doubling` (Laws) checks it. -/
def cosTable : List Nat :=
  [
   340282366920938463463374607431768211456, 340179880234010501256410555240815138610,
   339872481907374595982655373237523399997, 339360357106288349328032498044149400969,
   338643814315582355912937410983851649519, 337723285153840476332821521520529929454,
   336599324113408941498947577040116493245, 335272608226390897073175966682374215529,
   333743936656827580393945988193699131950, 332014230219311784703143864687547591040,
   330084530824323579922805282762113192378, 327956000850622399003223290442124622882,
   325629922445073537381874007153931917509, 323107696750330823888712577627669223074,
   320390843060840678178081004465978635029, 317480997907675946283989871696659394586,
   314379914072750776175968446001973125504, 311089459533010333413568304003503482915,
   307611616335231337535520824973702244655, 303948479402111197266509800434453270876,
   300102255270364911803307903244229695503, 296075260761589861421346168462272343660] ++
  [
   291869921586699108752288466602701767675, 287488770884763847928321354201396769955,
   282934447697145148265594844364568804968, 278209695377834118468530126406174896017,
   273317359940958042998867698499945342121, 268260388346447891122181704886098932261,
   263041826724899848421390153303749767786, 257664818542700147813974622480129723350,
   252132602708518460264302931081863982428, 246448511622310422769717146189789131995,
   240615969168004511545033772477625056927, 234638488651082390774777473857098136785,
   228519670682295061412222007379249703244, 222263201008789580284251687560915740834,
   215872848293952797667059038254236574541, 209352461847309452448173266086336704103,
   202705969305842049377716322867731736006, 195937374268129204613796208250251755886,
   189050753882727566157415671260389918823, 182050256392249977731818088761596102732,
   174940098634619241587517209381463132862, 167724563503002631532157123300078148712] ++
  [
   160407997365957196655387116530659854222, 152994807449339863750807025511319824614,
   145489459181559377892597328643785955352, 137896473503769202130406868941249360242,
   130220424146621615521356287377630227995, 122465934875223391001779638495968948699,
   114637676703952588780611687166053448735, 106740365082814155473372667675490248197,
   98778757057029163154891549982764432297, 90757648401568645563363141267280765314,
   82681870732358081126128530457129424483, 74556288595892625207582274584975679731,
   66385796539016198537004233668372411923, 58175316160629487325429982603091147843,
   49929793147102795928550736636311367807, 41654194293179508500145189614863970630,
   33353504510164655995148692934415085169, 25032723823200743858562047540562724536,
   16696864359439569162511425913059001623, 8350947328924239869306493724758181497,
   0]

/-- The real part of a number, enclosed: the rational coefficient exactly, and each other pair of coefficients with its cosine
between its table entry and one more. A number whose real part is its rational coefficient is enclosed by itself. -/
def realFrom (a : Cyc) : Nat → Rat × Rat
  | 0 => (a.getD 0 0, a.getD 0 0)
  | j + 1 =>
    let rest := realFrom a j
    let x := a.getD (j + 1) 0 - a.getD (127 - j) 0
    let below := x * (cosTable.getD (j + 1) 0 : Nat) / 2 ^ 128
    let above := x * (cosTable.getD (j + 1) 0 + 1 : Nat) / 2 ^ 128
    (rest.1 + min below above, rest.2 + max below above)

/-- Bounds on the real part. -/
def realBounds (a : Cyc) : Rat × Rat :=
  realFrom a 63

/-- Bounds on the imaginary part: the real part of -j a, and -j is z^192. -/
def imagBounds (a : Cyc) : Rat × Rat :=
  realBounds (cycTurn 192 a)

/-- Bin `k` of the transform of R18: the sum of x[n] z^(-kn). -/
def transformBin (samples : List Int) (k : Nat) : Cyc :=
  samples.zipIdx.foldl (fun acc xn => cycAdd acc (cycMono (256 - k * xn.2 % 256) (xn.1 : Rat))) cycZero

/-- The 256-point inverse transform of R40 at position `t`, the bins 129..255 mirrored. -/
def inverseAt (spectrum : List Cyc) (t : Nat) : Cyc :=
  cycScale (1 / 256)
    (spectrum.zipIdx.foldl (fun acc yk =>
      let term := cycTurn (yk.2 * t) yk.1
      if yk.2 = 0 ∨ yk.2 = 128 then cycAdd acc term else cycAdd acc (cycAdd term (cycConj term))) cycZero)

/-- The value a coefficient's stored parts stand for (R38): (re + j im) / 2^24, and j is z^64. -/
def coefficient (re im : Word) : Cyc :=
  cycAdd (cycMono 0 (re.toInt / 2 ^ 24 : Rat)) (cycMono 64 (im.toInt / 2 ^ 24 : Rat))

/-- A free integer confined to `lo..hi`. -/
def pickInt (lo hi choice : Int) : Int :=
  if lo = hi then lo else clamp choice lo hi

/-- A free rational confined to `lo..hi`. -/
def pickRat (lo hi choice : Rat) : Rat :=
  if lo = hi then lo else if choice < lo then lo else if hi < choice then hi else choice

end Sys2Proof.Machine
end

