-- ==== Sys2Proof/Machine/History.lean ====
section
/-! DEFINITION. Chapter 2: the pushes of the reference history, the reference power, the far-end level, hold and activity. -/

namespace Sys2Proof.Machine

/-- The spectrum of a 256-sample window (R18); the window of zeros has the zero spectrum. -/
def spectrumOf (samples : List Int) : Spectrum :=
  if samples.all (fun x => decide (x = 0)) then .zero else .of samples

/-- A spectrum enters at depth 0 and the one at depth 63 leaves (R18). -/
def pushRing (ring : List Spectrum) (x : Spectrum) : List Spectrum :=
  (x :: ring).take Config.ringDepth

/-- `k` spectra entering one after another. -/
def pushZeros (ring : List Spectrum) : Nat → List Spectrum
  | 0 => ring
  | k + 1 => pushZeros (pushRing ring .zero) k

/-- The bounds on the squared magnitude of bin `k` of a spectrum: exact but for the cosines' enclosure (R23). -/
def binPower (x : Spectrum) (k : Nat) : Rat × Rat :=
  match x with
  | .zero => (0, 0)
  | .of samples =>
    let bin := transformBin samples k
    realBounds (cycMul (cycConj bin) bin)

/-- The power P_k of the newest spectra (R23), bounded. -/
def newPower (spectra : List Spectrum) (k : Nat) : Rat × Rat :=
  (((spectra.map (fun x => (binPower x k).1)).sum), ((spectra.map (fun x => (binPower x k).2)).sum))

/-- One step of the reference power of a bin (R23): Pw + (P - Pw) / 16, within a relative 2^-24 of the exact step
(chapter 3, "Reference power"). An exact step of zero gives zero. -/
def powerStep (pw : Rat) (p : Rat × Rat) (choice : Rat) : Rat :=
  pickRat (max 0 ((pw + (p.1 - pw) / 16) * (1 - 1 / 2 ^ 24))) (max 0 ((pw + (p.2 - pw) / 16) * (1 + 1 / 2 ^ 24))) choice

/-- The step of every bin, at use `n` of the free value. -/
def powerSteps (n : Nat) (power : List Rat) (spectra : List Spectrum) : List Rat :=
  power.zipIdx.map (fun pk => powerStep pk.1 (newPower spectra pk.2) (Config.powerStep n pk.2))

/-- The power steps of `k` zero spectra (R20, R23), at uses `n`, `n + 1`, … -/
def powerDecay (n : Nat) (power : List Rat) : Nat → List Rat
  | 0 => power
  | k + 1 => powerDecay (n + 1) (powerSteps n power []) k

/-- The blocks a gap push of `k` pushes: at most 64 (R20). -/
def gapBlocks (k : Nat) : Nat :=
  min k Config.ringDepth

/-- A gap push of `k` blocks, `k` already capped, into the references below `refs` (R20). -/
def History.gapPush (h : History) (refs n k : Nat) : History :=
  if k = 0 then h
  else
    { h with rings := h.rings.mapFinIdx (fun r ring _ => if r < refs then pushZeros ring k else ring)
             last := h.last.mapFinIdx (fun r block _ => if r < refs then zeroBlock else block)
             power := powerDecay n h.power k }

/-- The gap push of `k` blocks made on the state, the free values' counter advancing once for each step of the power (R20). -/
def State.gapPush (s : State) (k : Nat) : State :=
  { s with history := s.history.gapPush s.geo.refs s.free (gapBlocks k), free := s.free + gapBlocks k }

/-- The spectra a processed push enters: each reference's last block followed by its new block (R18). -/
def newSpectra (h : History) (blocks : List (List Int)) : List Spectrum :=
  blocks.zipIdx.map (fun br => spectrumOf ((h.last[br.2]?).getD zeroBlock ++ br.1))

/-- The far-end hold counter after a frame whose far-end level is `lx` (R26). -/
def holdAfter (geo : Geometry) (hold lx : Int) : Int :=
  if geo.tFe ≤ lx then geo.farHold else if 0 < hold then hold - 1 else 0

/-- The largest of the levels; -480 of none (R25). -/
def maxLevel (levels : List Int) : Int :=
  levels.foldl max (-480)

/-- The update of a processed frame (R18, R19, R23, R25, R26, R27), one update (R29): pushes, power, levels, Lx, hold, activity.
`blocks` are the new clamped blocks of the references in use. -/
def History.processed (h : History) (geo : Geometry) (n : Nat) (blocks : List (List Int)) : History :=
  let spectra := newSpectra h blocks
  let levels := blocks.map level
  let lx := maxLevel levels
  let hold := holdAfter geo h.hold lx
  { rings := h.rings.mapFinIdx (fun r ring _ => match spectra[r]? with
      | some x => pushRing ring x
      | none => ring)
    last := h.last.mapFinIdx (fun r block _ => (blocks[r]?).getD block)
    power := powerSteps n h.power spectra
    hold := hold
    levels := h.levels.mapFinIdx (fun r l _ => (levels[r]?).getD l)
    lx := lx
    farActive := decide (geo.tFe ≤ lx) || decide (0 < hold) }

end Sys2Proof.Machine
end

