-- ==== Sys2Proof/Machine/Filter.lean ====
section
/-! DEFINITION. Chapter 3: the echo estimate and the error of stage 3, and the adaptation update of stage 6. The exact values are
formed in Cyclotomic.lean; what the engine makes of them is a free value within the bounds chapter 3 states. -/

namespace Sys2Proof.Machine

/-! ### The echo estimate (R39, R40) -/

/-- The part `i` of a stored slot. -/
def partOf (parts : List Word) (i : Nat) : Word :=
  parts.getD i 0#32

/-- Whether every part is zero. -/
def zeroParts (parts : List Word) : Bool :=
  parts.all (fun w => decide (w = 0#32))

/-- Coefficient `k` of a slot (R38, R91). -/
def coefficientAt (parts : List Word) (k : Nat) : Cyc :=
  coefficient (partOf parts (2 * k)) (partOf parts (2 * k + 1))

/-- A term of the estimate spectrum: a reference window and the slot it is paired with. -/
abbrev Term := List Int × List Word

/-- The term a spectrum and a slot make; a zero factor makes none (R39). -/
def termOf (x : Spectrum) (parts : List Word) : Option Term :=
  match x with
  | .zero => none
  | .of samples => if zeroParts parts then none else some (samples, parts)

/-- Bin `k` of the estimate spectrum (R39). -/
def estimateBin (terms : List Term) (k : Nat) : Cyc :=
  terms.foldl (fun acc t => cycAdd acc (cycMul (coefficientAt t.2 k) (transformBin t.1 k))) cycZero

/-- One estimate sample: the exact value lies within `bounds`, the engine's within 1/2 of it, so after R4 it is one of the integers
that enclose it (R6, and chapter 3, "Estimate samples"). -/
def estimateSample (bounds : Rat × Rat) (choice : Int) : Int :=
  sat24 (pickInt bounds.1.floor bounds.2.ceil choice)

/-- The estimate block at use `n` of the free value (R40); without a term it is 128 zeros. -/
def estimateBlock (n : Nat) (terms : List Term) : List Int :=
  if terms.isEmpty then zeroBlock
  else
    let spectrum := (List.range Config.bins).map (estimateBin terms)
    (List.range Config.blockLength).map fun i =>
      estimateSample (realBounds (inverseAt spectrum (128 + i))) (Config.estimateSample n i)

/-- The spectrum that extent slot `j` is paired with: depth j div R of ring j mod R (R24, R37). -/
def History.paired (h : History) (refs j : Nat) : Spectrum :=
  ((h.rings[j % refs]?).getD []).getD (j / refs) .zero

/-! ### Stage 3 of a channel -/

/-- The engine found a parity failure in slot `j` of channel `c`'s extent: the count rises, and a capture of the channel ends
DATA_ERROR (R48, R50, R93, R163). That it does so at once in DRAINING too, where the mover is paused (R165), is the model's choice:
notes/assumptions/26.md. -/
def engineFoundParity (c j : Nat) : Work Unit := do
  update fun s => s.modChan c Channel.countParity
  let s ← getState
  match s.transfer with
  | some t =>
    if (s.chan c).capture = true ∧ t.direction = .capture ∧ t.chan = c then endCaptureFailed t j
    else pure ()
  | none => pure ()

/-- The terms that the slots of an extent make, read in their order, each with the spectrum its index is paired with (R24, R39). A read
that failed delivered zeros and makes none (R48). -/
def estimateTerms (h : History) (refs : Nat) (reads : List (List Word)) : List Term :=
  reads.zipIdx.filterMap (fun r => termOf (h.paired refs r.2) r.1)

/-- The work of a channel that forms no estimate: its error block is its microphone block (R7, R129), an OFF channel's Le is -480
(R130). -/
def workWithout (off : Bool) (mic : List Int) (clipped : Bool) : ChanWork :=
  { ChanWork.none with mic := mic, clipped := clipped, err := mic, lm := level mic, le := if off then -480 else level mic }

/-- The work of a channel that formed the estimate block `y` (R41). -/
def workWith (mic : List Int) (clipped : Bool) (y : List Int) (parity : Bool) : ChanWork :=
  let err := List.zipWith errorSample mic y
  { ChanWork.none with mic := mic, clipped := clipped, formed := true, err := err, lm := level mic, ly := level y, le := level err,
                       parity := parity }

/-! ### The adaptation update of stage 6 (R42 to R45) -/

/-- The regularisation power: 2^54 x 10^-9 (R43). -/
def regularisation : Rat := 18014398509481984 / 1000000000

/-- The step size in the state the channel had at the end of stage 1 (R42). -/
def stepSize (ctx : Channel) : Rat :=
  if ctx.state = .acquire then (ctx.tuning.muAcq : Rat) / 32768 else (ctx.tuning.muTrk : Rat) / 32768

/-- Bin `k` of the gradient spectrum (R43): the error spectrum is that of 128 zeros followed by the error block (R41). -/
def gradientBin (mu : Rat) (power : List Rat) (window err : List Int) (k : Nat) : Cyc :=
  cycScale (mu / (power.getD k 0 + regularisation))
    (cycMul (cycConj (transformBin window k)) (transformBin (zeroBlock ++ err) k))

/-- The constrained gradient's time values 0..127; the last 128 are set to zero (R44). -/
def constrainedTime (gradient : List Cyc) : List Cyc :=
  (List.range Config.blockLength).map (inverseAt gradient)

/-- Bin `k` of the constrained gradient, in units of 2^-24 (R44). -/
def constrainedBin (time : List Cyc) (k : Nat) : Cyc :=
  cycScale 16777216 (time.zipIdx.foldl (fun acc xt => cycAdd acc (cycTurn (256 - k * xt.2 % 256) xt.1)) cycZero)

/-- A stored part after the update: the exact sum lies within `bounds` of the old part, the engine's within one unit of it, then R4
and saturation to 32 bits (R38, and chapter 3, "Updated coefficients"). That a part may move by a unit where every product X_k E_k has a
zero factor, though neither the spectrum nor the error block is zero, is the model's choice: notes/assumptions/33.md. -/
def updatedPart (old : Word) (bounds : Rat × Rat) (choice : Int) : Word :=
  BitVec.ofInt 32 (clamp (pickInt (roundAway (old.toInt + bounds.1 - 1)) (roundAway (old.toInt + bounds.2 + 1)) choice)
    (-2147483648) 2147483647)

/-- The two stored parts of coefficient `k`; the imaginary parts of bins 0 and 128 stay zero (R38, R44). -/
def updatedCoefficient (n : Nat) (parts : List Word) (step : Cyc) (k : Nat) : List Word :=
  [updatedPart (partOf parts (2 * k)) (realBounds step) (Config.coefficientPart n (2 * k)),
   if k = 0 ∨ k = 128 then 0#32
   else updatedPart (partOf parts (2 * k + 1)) (imagBounds step) (Config.coefficientPart n (2 * k + 1))]

/-- The parts of a slot after its update at use `n` (R43, R44); a zero spectrum or an all-zero error leaves them. -/
def updatedParts (n : Nat) (mu : Rat) (power : List Rat) (x : Spectrum) (err : List Int) (parts : List Word) : List Word :=
  match x with
  | .zero => parts
  | .of window =>
    if err.all (fun e => decide (e = 0)) then parts
    else
      let time := constrainedTime ((List.range Config.bins).map (gradientBin mu power window err))
      (List.range Config.bins).flatMap fun k => updatedCoefficient n parts (constrainedBin time k) k

/-- Stage 6 for slot `j` of channel `c`'s extent: a checked read and a write of the whole slot (R45, R49). Answers whether the
read failed. -/
def adaptSlot (ctx : Channel) (err : List Int) (c j : Nat) : Work Bool := do
  let s ← getState
  let i := (s.extent c).base + j
  let r ← readSlot i
  if r.2 then update fun s => s.modChan c Channel.countParity else pure ()
  let n ← freshUse
  update fun t => t.writeSlot i (updatedParts n (stepSize ctx) s.history.power (s.history.paired s.geo.refs j) err r.1)
  pure r.2

end Sys2Proof.Machine
end

