-- ==== Sys2Proof/Machine/Schedule.lean ====
section
/-! DEFINITION. Chapter 7: filter cost, adaptation cost, the walk and the rotation of the schedule queue. -/

namespace Sys2Proof.Machine

/-- The slots of a channel's filter in the frame: P x R if it filters, else 0 (R108). -/
def filterCostOf (refs : Nat) (ctx : Channel) : Nat :=
  if ctx.state.filters then ctx.parts * refs else 0

/-- The filter cost FC of the frame (R108). -/
def filterCost (refs : Nat) (channels : List Channel) : Nat :=
  (channels.map (filterCostOf refs)).sum

/-- The adaptation cost 2 x a x R (R109). -/
def adaptationCost (refs : Nat) (ctx : Channel) : Nat :=
  2 * ctx.adaptingCount * refs

/-- What a walk gives: the channels granted in order, those deferred, and the units granted. -/
structure WalkResult where
  granted  : List Nat
  deferred : List Nat
  units    : Nat
  deriving DecidableEq, Repr

/-- The walk along the queue with a remaining budget (R113, R114). -/
def walkQueue (candidate : Nat → Bool) (cost : Nat → Nat) : List Nat → Nat → WalkResult
  | [], _ => { granted := [], deferred := [], units := 0 }
  | c :: cs, budget =>
    if candidate c then
      if cost c ≤ budget then
        let rest := walkQueue candidate cost cs (budget - cost c)
        { granted := c :: rest.granted, deferred := rest.deferred, units := cost c + rest.units }
      else { granted := [], deferred := c :: cs.filter candidate, units := 0 }
    else walkQueue candidate cost cs budget

/-- The queue after the rotation: the granted channels at the tail in grant order (R115). -/
def rotateQueue (queue granted : List Nat) : List Nat :=
  queue.filter (fun c => !granted.contains c) ++ granted

end Sys2Proof.Machine
end

