-- ==== Sys2Proof/Machine/Suppress.lean ====
section
/-! DEFINITION. Chapter 8: the residual estimate, the target and the ramp of stage 8, the output block, and the report part and
channel records of R128 to R131 and R178. -/

namespace Sys2Proof.Machine

/-- The residual echo estimate Lr (R121): `ctx` is the context stage 7 has left. R62's last sentence would have stage 8 use the C of the end
of stage 1; that it uses the C that stage 7 has committed, as R121 says, is the model's choice: notes/assumptions/40.md. -/
def residual (ctx : Channel) (w : ChanWork) (lx : Int) : Int :=
  if w.formed = true ∧ ctx.state ≠ .suspended then w.ly - ctx.erle else lx + ctx.coupling

/-- The target attenuation A_t (R122). -/
def targetAttenuation (nearEnd farActive : Bool) (floor tRes lr : Int) : Int :=
  if nearEnd = true ∨ farActive = false then 0 else max floor (min 0 (tRes - lr))

/-- One step of the ramp from `a` toward `target` (R123). -/
def ramp (a target attack release : Int) : Int :=
  if target < a then max target (a - attack)
  else if a < target then min target (a + release)
  else a

/-- The applied attenuation after stage 8: the tuning as it stood at the end of stage 1 (R123, R124). -/
def attenuationAfter (tuning : Tuning) (ctx : Channel) (w : ChanWork) (farActive : Bool) (lx tRes : Int) : Int :=
  ramp ctx.atten (targetAttenuation w.nearEnd farActive tuning.floor tRes (residual ctx w lx)) tuning.attack tuning.release

/-- The work of a channel whose output block is formed: an OFF channel's is its clamped input, another's its scaled error block
(R125, R126). -/
def withOutput (off : Bool) (atten : Int) (w : ChanWork) : ChanWork :=
  let out := if off then w.mic else w.err.map (scaleSample (gain atten))
  { w with out := out, lout := level out }

/-! ### The report (R128 to R131, R178) -/

/-- A 32-bit word of four bytes, the first the least significant. -/
def byteWord (b0 b1 b2 b3 : Nat) : Word :=
  BitVec.ofNat 8 b3 ++ BitVec.ofNat 8 b2 ++ BitVec.ofNat 8 b1 ++ BitVec.ofNat 8 b0

/-- A 32-bit word of two half-words, the first the least significant. -/
def halfWord (h0 h1 : Int) : Word :=
  half h1 ++ half h0

/-- The flags byte of a channel record (R131, R178). That its bits 7..6 are zero is the model's choice: notes/assumptions/42.md. -/
def recordFlags (w : ChanWork) : Nat :=
  w.granted.toNat + 2 * w.eligible.toNat + 4 * w.nearEnd.toNat + 8 * w.deferred.toNat + 16 * w.parity.toNat + 32 * w.clipped.toNat

/-- The record of a channel in OFF at the end of stage 1 (R130). -/
def offRecord (w : ChanWork) : List Word :=
  [byteWord ChanState.off.value (32 * w.clipped.toNat) 0 0, halfWord w.lm (-480), halfWord (-480) w.lm, 0#32, 0#32, 0#32, 0#32, 0#32]

/-- The record of another channel, with the context at the end of the frame (R128, R129). -/
def channelRecordOf (ctx : Channel) (w : ChanWork) : List Word :=
  [byteWord ctx.state.value (recordFlags w) ctx.strikes 0, halfWord w.lm w.ly, halfWord w.le w.lout, halfWord ctx.erle ctx.coupling,
   halfWord ctx.atten (ctx.parity : Int), 0#32, 0#32, 0#32]

/-- The level of reference `r` in the report: -480 for one not in use (R178). -/
def reportedLevel (h : History) (refs r : Nat) : Int :=
  if r < refs then (h.levels[r]?).getD (-480) else -480

/-- The clip flags of the references: reference r at bit r (R2, R178). That the other bits of the byte are zero is the model's choice:
notes/assumptions/42.md. -/
def clipFlags : List Bool → Nat
  | [] => 0
  | b :: bs => b.toNat + 2 * clipFlags bs

/-- The report part of the frame `f` (R178), with the four pending report counts as they stand (R175). -/
def reportWords (s : State) (f : Flight) : List Word :=
  [f.count, byteWord s.pendIdle s.pendOverload s.pendDropped s.pendGap,
   halfWord (reportedLevel s.history s.geo.refs 0) (reportedLevel s.history s.geo.refs 1),
   halfWord (reportedLevel s.history s.geo.refs 2) (reportedLevel s.history s.geo.refs 3),
   half s.history.lx ++ BitVec.ofNat 8 s.history.farActive.toNat ++ BitVec.ofNat 8 (clipFlags f.refClips),
   halfWord (f.cost : Int) (f.units : Int)] ++ List.replicate 10 0#32

end Sys2Proof.Machine
end

