-- ==== Sys2Proof/Machine/Frame.lean ====
section
/-! DEFINITION. The frame in flight: the stages of R30 and the write-back of R174, cut into units that an ending event can fall
between. -/

namespace Sys2Proof.Machine

/-- The context of channel `c` at the end of stage 1 of the frame. -/
def Flight.ctx (f : Flight) (c : Nat) : Channel :=
  (f.start[c]?).getD .off

/-- The work of channel `c` in the frame. -/
def Flight.chanWork (f : Flight) (c : Nat) : ChanWork :=
  (f.work[c]?).getD .none

/-- The frame with the work of channel `c` replaced. -/
def Flight.setWork (f : Flight) (c : Nat) (w : ChanWork) : Flight :=
  { f with work := f.work.setIfInBounds c w }

/-- The frame at another unit. -/
def Flight.at (f : Flight) (phase : Phase) : Flight :=
  { f with phase := phase }

/-- The frame in flight becomes `f`. -/
def setFlight (f : Flight) : Work Unit :=
  update fun s => s.setFlight (some f)

/-- The phase after a stage's channel `c`: the stage's next channel, or the next stage. -/
def afterChannel (c mics : Nat) (stage : Nat → Phase) (next : Phase) : Phase :=
  if c + 1 < mics then stage (c + 1) else next

/-! ### Stages 1 to 4 -/

/-- The end of stage 1: the contexts of the frame and its filter cost (R36, R108). -/
def Flight.entered (f : Flight) (s : State) : Flight :=
  { f with start := s.channels, cost := filterCost s.geo.refs s.channels.toList, phase := .push, asks := false }

/-- The frame after the application of an entry for channel `c`. The engine that has written its zeros asks for the port again at once
(R105), and the channel's extent is another than the one whose capture failed: the channel may be a candidate again (R112). -/
def Flight.applied (f : Flight) (c : Nat) (zeroed : Bool) : Flight :=
  { f with asks := zeroed
           failedCaptures := if zeroed then f.failedCaptures.filter (fun d => decide (d ≠ c)) else f.failedCaptures }

/-- A unit of stage 1: the next due entry is applied, or the stage has ended (R32). -/
def applyUnit (f : Flight) : Work Unit := do
  let s ← getState
  match s.dueEntry f.count with
  | some e => do
    applyEntry f.count e
    setFlight (f.applied e.chan (s.zeroes e))
  | none => setFlight (f.entered s)

/-- Reads the blocks of references `r`, `r + 1`, …, `n` of them (R174). Their order is the model's choice: notes/assumptions/37.md. -/
def readRefBlocks (g : Geometry) (seq : Word) (r : Nat) : Nat → Work (List (List Word))
  | 0 => pure []
  | n + 1 => do
    let ws ← readWords (g.refBlock seq r) Config.blockLength
    let rest ← readRefBlocks g seq (r + 1) n
    pure (ws :: rest)

/-- A gap push of `k` blocks with its counts, the gap total and the pending count; of no blocks, nothing (R20, R22, R175). -/
def State.countedGap (s : State) (k : Nat) : State :=
  if k = 0 then s
  else
    { s.gapPush k with
      gapTotal := s.gapTotal + BitVec.ofNat 32 (gapBlocks k)
      pendGap := saturatingAdd Config.pendingLimit s.pendGap (gapBlocks k) }

/-- Writes the gap total after a gap push of `k` blocks has raised it (R22, R168). -/
def writeGapTotalAfter (k : Nat) : Work Unit :=
  if k = 0 then pure () else writeGapTotal

/-- The exchange unit's own gap push, at a drop or a mismatch (R172, R173). That the push is made and its counts have risen when the write of
the gap total fails is the model's choice: notes/assumptions/12.md. -/
def countedGapPush (k : Nat) : Work Unit := do
  update fun s => s.countedGap k
  writeGapTotalAfter k

/-- The update of stage 2, one update (R29): the header's gap push with its counts, then the frame's own push, the levels, the power
steps, the hold and the far-end decision (R18, R21). -/
def State.pushed (s : State) (gap : Nat) (blocks : List (List Int)) : State :=
  let t := s.countedGap gap
  (t.setHistory (t.history.processed t.geo t.free blocks)).setFree (t.free + 1)

/-- Stage 2: the reference blocks are read, then the one update is made, then the gap total is written if it rose (R22, R29, R174). That the
total has risen when its write fails is the model's choice: notes/assumptions/12.md. -/
def pushUnit (f : Flight) : Work Unit := do
  let s ← getState
  let blocks ← readRefBlocks s.geo f.count 0 s.geo.refs
  update fun s => s.pushed f.gap (blocks.map (fun ws => ws.map sampleOf))
  writeGapTotalAfter f.gap
  setFlight { f with refClips := blocks.map (fun ws => ws.any clampsWord), phase := .estimate 0 }

/-- Stage 3 of channel `c` begins: its microphone block is read (R174). A channel that filters reads its extent next; the work of
another is done (R36). That the microphone block comes first, channel by channel, is the model's choice: notes/assumptions/27.md. -/
def estimateUnit (f : Flight) (c : Nat) : Work Unit := do
  let s ← getState
  let words ← readWords (s.geo.micBlock f.count c) Config.blockLength
  let g := f.setWork c
    (workWithout (decide ((f.ctx c).state = .off)) (words.map sampleOf) (words.any clampsWord))
  if (f.ctx c).state.filters then setFlight { g with phase := .filter c, reads := [] }
  else setFlight { g with phase := afterChannel c s.geo.mics .estimate .decide, asks := false }

/-- Whether the engine asks for the port again at once after a filter read: for the channel's next slot, or after its last for the
next channel's extent (R105, R106). -/
def Flight.asksAfterRead (f : Flight) (c mics left : Nat) : Bool :=
  decide (1 < left) || (decide (c + 1 < mics) && (f.ctx (c + 1)).state.filters)

/-- The frame after a filter read of channel `c`: what the read delivered, whether it failed, and whether the engine asks again (R39,
R50, R105). -/
def Flight.afterRead (f : Flight) (c : Nat) (r : List Word × Bool) (asks : Bool) : Flight :=
  let w := f.chanWork c
  { f.setWork c { w with parity := w.parity || r.2 } with reads := f.reads ++ [r.1], asks := asks }

/-- One filter read of channel `c`, of the `left` that are left (R39, R48, R104). Slots are read in rising order: the model's choice,
notes/assumptions/9.md. -/
def filterRead (f : Flight) (c left : Nat) : Work Unit := do
  let s ← getState
  let j := f.reads.length
  let r ← readSlot ((s.extent c).base + j)
  if r.2 then engineFoundParity c j else pure ()
  update fun t => t.setFlight (t.flight.map fun g => g.afterRead c r (f.asksAfterRead c s.geo.mics left))

/-- The estimate and the error block of channel `c`, every slot of its extent read (R39 to R41). -/
def formEstimate (f : Flight) (c : Nat) : Work Unit := do
  let s ← getState
  let n ← freshUse
  let w := f.chanWork c
  let y := estimateBlock n (estimateTerms s.history s.geo.refs f.reads)
  setFlight
    { f.setWork c (workWith w.mic w.clipped y w.parity) with
      phase := afterChannel c s.geo.mics .estimate .decide
      reads := [] }

/-- The next unit of stage 3 of channel `c` once its microphone block is read: a slot, or the estimate when each has been read once. -/
def filterUnit (f : Flight) (c : Nat) : Work Unit := do
  let s ← getState
  let left := (f.ctx c).parts * s.geo.refs - f.reads.length
  if left = 0 then formEstimate f c else filterRead f c left

/-- Stage 4 of every channel (R55). -/
def Flight.decided (f : Flight) (h : History) : Flight :=
  { f with work := f.work.mapFinIdx (fun c w _ => decideChannel (f.ctx c) h.farActive h.lx w), phase := .walk }

/-! ### Stages 5 and 6 -/

/-- Whether queued channel `c` is a candidate of the frame (R112). R117 lets a capture's end in the frame be taken before or after the walk's
reading of the flag; one that a parity failure of the frame has brought about is taken after it, so that the failed slot ends the frame
holding zeros (R93): notes/assumptions/28.md. -/
def State.candidateIn (s : State) (f : Flight) (c : Nat) : Bool :=
  (f.ctx c).state.adapts && (f.chanWork c).eligible && !(s.chan c).capture && !f.failedCaptures.contains c

/-- The walk of the frame over the queue as it stands (R113). -/
def State.walk (s : State) (f : Flight) : WalkResult :=
  walkQueue (s.candidateIn f) (fun c => adaptationCost s.geo.refs (f.ctx c)) s.queue (Config.budget - f.cost)

/-- The slots stage 6 updates for channel `c`: every reference of each adapting partition (R42). The order, partition by partition and in
each reference by reference, is the model's choice: notes/assumptions/9.md. -/
def slotsToAdapt (refs : Nat) (ctx : Channel) (c : Nat) : List (Nat × Nat) :=
  ctx.adaptingSet.flatMap (fun p => (List.range refs).map (fun r => (c, p * refs + r)))

/-- The frame after the walk: grants, deferrals, units granted, and the slots to update. -/
def Flight.walked (f : Flight) (refs : Nat) (r : WalkResult) : Flight :=
  { f with work := f.work.mapFinIdx (fun c w _ =>
             { w with granted := r.granted.contains c, deferred := r.deferred.contains c })
           units := r.units
           phase := .adapt (r.granted.flatMap (fun c => slotsToAdapt refs (f.ctx c) c)) }

/-- Stage 5: the walk and the rotation, one step (R115). -/
def walkUnit (f : Flight) : Work Unit :=
  update fun s =>
    let r := s.walk f
    (s.setQueue (rotateQueue s.queue r.granted)).setFlight (some (f.walked s.geo.refs r))

/-- A unit of stage 6: the update of one slot, or the stage has ended (R45). -/
def adaptUnit (f : Flight) : List (Nat × Nat) → Work Unit
  | [] => setFlight (f.at (.commit 0))
  | (c, j) :: rest => do
    let failed ← adaptSlot (f.ctx c) (f.chanWork c).err c j
    let w := f.chanWork c
    setFlight { f.setWork c { w with parity := w.parity || failed } with phase := .adapt rest, asks := !rest.isEmpty }

/-! ### Stage 7 -/

/-- The phase after the commit of channel `c`. -/
def afterCommit (c mics : Nat) : Phase :=
  afterChannel c mics .commit (.suppress 0)

/-- The contexts with channel `c`'s new values committed (R31). -/
def State.commitChan (s : State) (c : Nat) (new : Channel) : State :=
  s.modChan c (fun live => live.commit new)

/-- Whether stage 7 acts on channel `c`: not in OFF (R89), and not where the state is no longer that of the end of stage 1, which only a
restore's end taken before the walk can bring about: what that end has set stands (R161). -/
def State.commits (s : State) (f : Flight) (c : Nat) : Bool :=
  decide ((f.ctx c).state ≠ .off) && decide ((s.chan c).state = (f.ctx c).state)

/-- The context that stage 7 forms for channel `c`, a divergence event apart. -/
def State.stageSevenOf (s : State) (f : Flight) (c : Nat) : Channel :=
  stageSeven (f.ctx c) s.history.lx (f.chanWork c)

/-- Whether stage 7 of channel `c` finds a divergence event (R85). -/
def State.divergesIn (s : State) (f : Flight) (c : Nat) : Bool :=
  s.commits f c && diverges (s.stageSevenOf f c) (f.chanWork c)

/-- Stage 7 of channel `c` (R89). A divergence event zeroes the extent first (R86). -/
def commitUnit (f : Flight) (c : Nat) : Work Unit :=
  update fun s =>
    let onward := f.at (afterCommit c s.geo.mics)
    if s.divergesIn f c then s.setFlight (some (f.at (.zeroing c 0)))
    else if s.commits f c then (s.commitChan c (s.stageSevenOf f c)).setFlight (some onward)
    else s.setFlight (some onward)

/-- Whether the engine, with channel `c`'s extent zeroed, asks for the port again at once: the next channel's event zeroes too (R105). -/
def State.zeroingGoesOn (s : State) (f : Flight) (c : Nat) : Bool :=
  decide (c + 1 < s.geo.mics) && s.divergesIn f (c + 1)

/-- The queue after a committed divergence event: out of it when suspended, else its head (R72, R87). -/
def State.requeueDiverged (s : State) (c : Nat) (new : Channel) : State :=
  if new.state = .suspended then s.dequeue c else s.toHead c

/-- The zeroing of a divergence event, slot by slot, then its commit (R86, R87, R90, R102). That the slots are zeroed in rising order, which
shows when an event cuts the zeroing, is the model's choice: notes/assumptions/9.md. The history takes the frame's count at the commit
alone, so that a frame whose zeroing was cut short and that is taken again enters it once: the model's choice, notes/assumptions/35.md. -/
def zeroingUnit (f : Flight) (c k : Nat) : Work Unit :=
  update fun s =>
    if k < (s.extent c).size then
      (s.setSlot ((s.extent c).base + k) .zero).setFlight
        (some { f with phase := .zeroing c (k + 1), asks := decide (k + 1 < (s.extent c).size) || s.zeroingGoesOn f c })
    else
      let new := (s.stageSevenOf f c).diverged f.count
      ((s.commitChan c new).requeueDiverged c new).setFlight
        (some { f.at (afterCommit c s.geo.mics) with event := true, asks := s.zeroingGoesOn f c })

/-! ### Stage 8 and the write-back -/

/-- Stage 8 of channel `c`, whole (R125 to R127). -/
def suppressUnit (f : Flight) (c : Nat) : Work Unit :=
  update fun s =>
    let next := afterChannel c s.geo.mics .suppress (.output 0)
    let w := f.chanWork c
    if (f.ctx c).state = .off then s.setFlight (some ((f.setWork c (withOutput true 0 w)).at next))
    else
      let a := attenuationAfter (f.ctx c).tuning (s.chan c) w s.history.farActive s.history.lx s.geo.tRes
      (s.modChan c (fun ctx => { ctx with atten := a })).setFlight (some ((f.setWork c (withOutput false a w)).at next))

/-- Write-back step 1 for channel `c` (R174). -/
def outputUnit (f : Flight) (c : Nat) : Work Unit := do
  let s ← getState
  writeWords (s.geo.outBlock f.count c) ((f.chanWork c).out.map outputWord)
  setFlight (f.at (afterChannel c s.geo.mics .output .report))

/-- The channel records of channels `c`, `c + 1`, …, `n` of them (R174). A record's parity count is that of the context as it stands when
the record is written: the model's choice, notes/assumptions/30.md. -/
def writeRecords (f : Flight) (c : Nat) : Nat → Work Unit
  | 0 => pure ()
  | n + 1 => do
    let s ← getState
    writeWords (s.geo.channelRecord f.count c)
      (if (f.ctx c).state = .off then offRecord (f.chanWork c) else channelRecordOf (s.chan c) (f.chanWork c))
    writeRecords f (c + 1) n

/-- Write-back step 2: the report part, whose four pending counts are then 0, and the channel records (R174, R175). -/
def reportUnit (f : Flight) : Work Unit := do
  let s ← getState
  writeWords (s.geo.reportPart f.count) (reportWords s f)
  update fun s => { s with pendIdle := 0, pendOverload := 0, pendDropped := 0, pendGap := 0 }
  writeRecords f 0 s.geo.mics
  setFlight (f.at .status)

/-- Write-back step 3: the slot status DONE (R174). -/
def statusUnit (f : Flight) : Work Unit := do
  writeStatus f.count .done
  setFlight (f.at .count)

/-! ### Units and runs -/

/-- One unit of the frame in flight; the done count of step 4 is not part of it (R174). -/
def frameUnit (f : Flight) : Work Unit :=
  match f.phase with
  | .apply => applyUnit f
  | .push => pushUnit f
  | .estimate c => estimateUnit f c
  | .filter c => filterUnit f c
  | .decide => update fun s => s.setFlight (some (f.decided s.history))
  | .walk => walkUnit f
  | .adapt todo => adaptUnit f todo
  | .commit c => commitUnit f c
  | .zeroing c k => zeroingUnit f c k
  | .suppress c => suppressUnit f c
  | .output c => outputUnit f c
  | .report => reportUnit f
  | .status => statusUnit f
  | .count => pure ()

/-- Whether stage 8 has ended for every channel (R174). -/
def Phase.stagesEnded : Phase → Bool
  | .apply => false
  | .push => false
  | .estimate _ => false
  | .filter _ => false
  | .decide => false
  | .walk => false
  | .adapt _ => false
  | .commit _ => false
  | .zeroing _ _ => false
  | .suppress _ => false
  | .output _ => true
  | .report => true
  | .status => true
  | .count => true

/-- One unit of the stages, if stage 8 has not ended. -/
def stageUnit : Work Unit := do
  let s ← getState
  match s.flight with
  | some f => if f.phase.stagesEnded then pure () else frameUnit f
  | none => pure ()

/-- At most `n` units of the stages. -/
def runStages : Nat → Work Unit
  | 0 => pure ()
  | n + 1 => do
    let s ← getState
    match s.flight with
    | some f =>
      if f.phase.stagesEnded then pure ()
      else do
        frameUnit f
        runStages n
    | none => pure ()

/-- The stages run for the units given, or through stage 8. -/
def runStagesFor (units : Option Nat) : Work Unit :=
  runStages (units.getD Config.frameFuel)

/-- The units of the frame until the done count is next, at most `n`. -/
def runToCount : Nat → Work Unit
  | 0 => pure ()
  | n + 1 => do
    let s ← getState
    match s.flight with
    | some f =>
      if f.phase = .count then pure ()
      else do
        frameUnit f
        runToCount n
    | none => pure ()

end Sys2Proof.Machine
end

