-- ==== Sys2Proof/Machine/Intake.lean ====
section
/-! DEFINITION. Chapter 9: the command intake. One unit either looks at the chain and takes a record, or completes the step of the
record that was taken. -/

namespace Sys2Proof.Machine

/-! ### Intake validation (R139, R141) -/

/-- The kinds that name a channel: 1..9 (R139). -/
def namesChannel (kind : Nat) : Bool :=
  decide (1 ≤ kind) && decide (kind ≤ 9)

/-- The range of tuning field `i` (R67). -/
def tuningRange (i : Nat) : Int × Int :=
  match i with
  | 0 => (1, 32767)
  | 1 => (1, 32767)
  | 2 => (8, 200)
  | 3 => (1, 1000)
  | 4 => (1, 1000)
  | 5 => (0, 48)
  | 6 => (0, 250)
  | 7 => (-160, 0)
  | 8 => (1, 48)
  | _ => (1, 48)

/-- The value of tuning field `i` in the parameter area (R178). -/
def Record.tuningValue (r : Record) (i : Nat) : Int :=
  (r.paramHalf (2 + 2 * i)).toInt

/-- Whether present tuning field `i` fails: outside its range, or mu_trk above a present mu_acq (R141). -/
def Record.tuningFails (r : Record) (i : Nat) : Bool :=
  (r.paramHalf 0).getLsbD i &&
    (decide (r.tuningValue i < (tuningRange i).1) || decide ((tuningRange i).2 < r.tuningValue i) ||
      (decide (i = 1) && (r.paramHalf 0).getLsbD 0 && decide (r.tuningValue 0 < r.tuningValue 1)))

/-- The offset of the first parameter, in offset order, that is outside its range (R141, R178). -/
def Record.paramFault (r : Record) : Option Nat :=
  match r.kind.toNat with
  | 1 => if 4 ≤ r.param 0 ∧ r.param 0 ≤ 64 then none else some 0
  | 6 =>
    if 3 ≤ r.param 0 then some 0
    else if 64 < r.param 1 then some 1
    else if 2 ≤ r.param 2 then some 2
    else none
  | 7 =>
    if 1024 ≤ (r.paramHalf 0).toNat then some 0
    else ((List.range 10).find? r.tuningFails).map (fun i => 2 + 2 * i)
  | 8 => if r.param 0 ≤ 15 then none else some 0
  | 9 => if r.param 0 ≤ 15 then none else some 0
  | _ => none

/-- The action a record of a filed kind stands for (R143). -/
def Record.action (r : Record) : Option Action :=
  match r.kind.toNat with
  | 1 => some (.configure (r.param 0))
  | 2 => some .release
  | 3 => some .reset
  | 4 => some .freeze
  | 5 => some .thaw
  | 6 => (windowModeOf (r.param 0)).map fun mode =>
      .setWindow { mode := mode, n := r.param 1, complement := decide (r.param 2 = 1) }
  | 7 => some (.setTuning (r.paramHalf 0) ((List.range 10).map r.tuningValue))
  | 8 => some (.capture (r.param 0))
  | 9 => some (.restore (r.param 0))
  | _ => none

/-- Checks 1 to 5 in order, with the done count `d` of the intake: the code and the result of the first that fails (R139). -/
def Record.refusal (r : Record) (s : State) (d : Word) : Option (Code × Word) :=
  let kind := r.kind.toNat
  if kind = 0 ∨ 11 < kind then some (.badKind, BitVec.ofNat 32 kind)
  else if namesChannel kind ∧ s.geo.mics ≤ r.chan.toNat then some (.badChannel, BitVec.ofNat 32 r.chan.toNat)
  else if namesChannel kind ∧ r.duePresent = true ∧ Config.dueHorizon ≤ signedDiff r.due d then some (.range, r.due)
  else match r.paramFault with
    | some offset => some (.range, BitVec.ofNat 32 offset)
    | none =>
      if namesChannel kind ∧ Config.tableSize ≤ s.table.length then
        some (.tableFull, ((s.table.head?).map Entry.due).getD 0)
      else none

/-! ### Filing (R140, R143) -/

/-- Whether the record's due lies in the past of `d` (R140). -/
def Record.isLate (r : Record) (d : Word) : Bool :=
  r.duePresent && decide (signedDiff r.due d < 0)

/-- The due of the record's entry (R140). -/
def Record.entryDue (r : Record) (d : Word) : Word :=
  if r.duePresent = true ∧ 0 ≤ signedDiff r.due d then r.due else d

/-- An entry inserted after every entry whose due is at or before its own and before every other (R143). Where dues about 2^31 apart leave
no such place, it goes before the first entry that is not at or before it: the model's choice, notes/assumptions/32.md. -/
def insertEntry (e : Entry) : List Entry → List Entry
  | [] => [e]
  | f :: fs => if atOrBefore f.due e.due then f :: insertEntry e fs else e :: f :: fs

/-- The entry a record is filed as (R140, R143). -/
def Record.entry (r : Record) (d : Word) (action : Action) : Entry :=
  { addr := r.addr, action := action, chan := r.chan.toNat, due := r.entryDue d, late := r.isLate d, notify := r.notify }

/-! ### The record's step (R138, R148, R152) -/

/-- CANCEL: the target completes CANCELLED and leaves the table, or is not found (R148). A target that is the CANCEL's own address, with an
older entry still filed under it, is cancelled: the model's choice, notes/assumptions/31.md. -/
def cancelStep (r : Record) (d : Word) : Work Unit := do
  let s ← getState
  match s.table.find? (fun e => decide (e.addr = r.target)) with
  | some e => do
    complete e.addr .cancelled d 0 e.notify
    update fun s => s.setTable (s.table.erase e)
    complete r.addr .ok d e.due r.notify
  | none => complete r.addr .notFound d 0 r.notify

/-- LOCK_PROFILES: sets the lock; the result says whether it was set (R152). -/
def lockStep (r : Record) (d : Word) : Work Unit := do
  let s ← getState
  update fun s => { s with lock := true }
  complete r.addr .ok d (BitVec.ofNat 32 s.lock.toNat) r.notify

/-- Checks a taken record, then completes it at intake or files it (R139). -/
def recordStep (r : Record) (d : Word) : Work Unit := do
  let s ← getState
  match r.refusal s d with
  | some refusal => complete r.addr refusal.1 d refusal.2 r.notify
  | none =>
    match r.action with
    | some action => update fun s => s.setTable (insertEntry (r.entry d action) s.table)
    | none => if r.kind.toNat = 10 then cancelStep r d else lockStep r d

/-! ### Looks (R134 to R136) -/

/-- The candidate address of a look (R134). -/
def candidate : Work Word := do
  let s ← getState
  match s.anchor with
  | none => pure s.geo.firstCmd
  | some a => readWord a.toNat

/-- One look: nothing new, the WINDOW fault, or a record taken (R135, R136). -/
def look : Work (Option Record) := do
  let a ← candidate
  let s ← getState
  if a = 0 then pure none
  else if a.toNat % 64 ≠ 0 ∨ s.inside a.toNat 64 = false then fail (addressFault .window a.toNat)
  else do
    let r ← readRecord a
    if r.owner = ownerPosted then do
      writeLanes (a.toNat + 4) [ownerTaken]
      update fun s => { s with anchor := some a }
      pure (some r)
    else pure none

/-! ### Units of an intake (R137, R138) -/

/-- Begins an intake, unless one is in progress (R137). -/
def beginIntake : Work Unit :=
  update fun s => s.setIntake (some (s.intake.getD { done := none, taken := 0, inHand := none }))

/-- Ends the intake. -/
def closeIntake : Work Unit :=
  update fun s => s.setIntake none

/-- The look of an intake whose done count is `d`, `n` records taken before it. -/
def intakeLook (d : Word) (n : Nat) : Work Unit := do
  let found ← look
  match found with
  | none => closeIntake
  | some r => update fun s => s.setIntake (some { done := some d, taken := n + 1, inHand := some r })

/-- The step of the record in hand; the intake ends after its eighth record (R137). -/
def intakeStep (d : Word) (n : Nat) (r : Record) : Work Unit := do
  recordStep r d
  if Config.intakeLimit ≤ n then closeIntake
  else update fun s => s.setIntake (some { done := some d, taken := n, inHand := none })

/-- One unit of the intake in progress; the done count is read at its first unit (R138). -/
def intakeUnit : Work Unit := do
  let s ← getState
  match s.intake with
  | none => pure ()
  | some i =>
    match i.inHand with
    | some r => intakeStep (i.done.getD s.done) i.taken r
    | none => intakeLook (i.done.getD s.done) i.taken

/-- Units of the intake until it has ended, at most `fuel`. -/
def runIntake : Nat → Work Unit
  | 0 => pure ()
  | fuel + 1 => do
    let s ← getState
    match s.intake with
    | none => pure ()
    | some _ => do
      intakeUnit
      runIntake fuel

/-- The intake to its end. -/
def finishIntake : Work Unit :=
  runIntake Config.intakeFuel

/-- The intake ended by HALT or ABORT: the record in progress completes its step (R138). -/
def cutIntake : Work Unit := do
  let s ← getState
  match s.intake with
  | none => pure ()
  | some i => do
    match i.inHand with
    | some r => recordStep r (i.done.getD s.done)
    | none => pure ()
    closeIntake

end Sys2Proof.Machine
end

