-- ==== Sys2Proof/Machine/Exchange.lean ====
section
/-! DEFINITION. Chapter 11: ticks, the cycle check, drops, taking a frame, mismatches, and the end of a frame cycle. -/

namespace Sys2Proof.Machine

/-! ### The cycle check (R171) -/

/-- An idle check: counted unless a STEP made it, whose result is then NO_FRAME (R171, R182). That the idle total and the pending count have
risen when the write of the total fails is the model's choice: notes/assumptions/12.md. -/
def idleCheck (byStep : Bool) : Work Unit := do
  if byStep then update fun s => s.setStepResult .noFrame
  else do
    update fun s => { s with
      idleTotal := s.idleTotal + 1
      pendIdle := saturatingAdd Config.pendingLimit s.pendIdle 1 }
    writeIdleTotal

/-- A drop of the oldest `d` frames (R172). T, D, the drop total and the pending count rise first, then T, D and the total are written, then
the gap push is made: the model's choice where a write fails, notes/assumptions/12.md. -/
def dropFrames (d : Nat) : Work Unit := do
  update fun s => { s with
    taken := s.taken + BitVec.ofNat 32 d
    done := s.done + BitVec.ofNat 32 d
    dropTotal := s.dropTotal + BitVec.ofNat 32 d
    pendDropped := saturatingAdd Config.pendingLimit s.pendDropped d }
  writeTaken
  let s ← getState
  writeDone s.done
  writeDropTotal
  countedGapPush d

/-- The frame in flight that the frame with count D begins as; `w1` is the header's second word: gap, notify, status (R173, R178). -/
def Flight.begin (s : State) (w1 : Word) (byStep : Bool) : Flight :=
  { count := s.done, gap := min (byteOf w1 0).toNat 64, notify := decide (byteOf w1 1 ≠ 0), byStep := byStep, phase := .apply,
    start := s.channels, refClips := [], cost := 0, units := 0, work := Vector.replicate 16 .none, event := false }

/-- The done count advances by one: first in the page, then in the unit (R168; notes/assumptions/12.md). -/
def advanceDone : Work Unit := do
  let s ← getState
  writeDone (s.done + 1)
  update fun s => s.setDone (s.done + 1)

/-- A frame whose header sequence is not its count (R173). -/
def mismatchFrame (notify byStep : Bool) : Work Unit := do
  countedGapPush 1
  let s ← getState
  writeStatus s.done .mismatch
  advanceDone
  noticeIf notify
  if byStep then update fun s => s.setStepResult .noFrame else pure ()

/-- Takes the frame with count D (R173). -/
def takeFrame (byStep : Bool) : Work Unit := do
  update fun s => s.setTaken (s.done + 1)
  writeTaken
  let s ← getState
  let header ← readWords (s.geo.slotOf s.done) 2
  let w1 := header.getD 1 0
  if header.getD 0 0 = s.done then update fun s => s.setFlight (some (Flight.begin s w1 byStep))
  else mismatchFrame (decide (byteOf w1 1 ≠ 0)) byStep

/-- The cycle check; a restore's end that waits is taken before it (R161, R171). -/
def cycleCheck (byStep : Bool) : Work Unit := do
  takeReadyEnd
  let s ← getState
  let fill ← readWord (s.pageField 0x38)
  let s ← getState
  let b := signedDiff fill s.done
  if b ≤ 0 then idleCheck byStep
  else do
    if (s.geo.latency : Int) < b then dropFrames (b - s.geo.latency).toNat else pure ()
    takeFrame byStep

/-! ### Ticks (R170) -/

/-- What a tick that finds the cycle busy does to it: tick-pending, or an overload (R170). That the overload total and the pending count have
risen when the write of the total fails is the model's choice: notes/assumptions/12.md. -/
def busyTick : Work Unit := do
  let s ← getState
  if s.tickPending then do
    update fun s => { s with
      overloadTotal := s.overloadTotal + 1
      pendOverload := saturatingAdd Config.pendingLimit s.pendOverload 1 }
    writeOverloadTotal
  else update fun s => s.setTickPending true

/-- The part of a tick's plan that has run: the units in their order, the frame's first being the cycle check if one is due. Answers
whether the check is still due (R34). -/
def runPlan : List Party → Bool → Work Bool
  | [], due => pure due
  | .intake :: rest, due => do
    intakeUnit
    runPlan rest due
  | .frame :: rest, due => do
    if due then cycleCheck false else stageUnit
    runPlan rest false

/-- The work a tick in RUNNING brings: its intake, and the frame cycle's part (R137, R170). -/
def tickWork (timing : TickTiming) : Work Unit := do
  let s ← getState
  if s.frameBusy then busyTick else pure ()
  beginIntake
  let due ← runPlan timing.plan (!s.frameBusy)
  if timing.finish then finishIntake else pure ()
  if due then cycleCheck false else pure ()
  if timing.finish then runStagesFor none else pure ()

/-- BLKTICK (R170): ignored outside RUNNING. -/
def execBlktick (timing : TickTiming) (s : State) : Host.Outcome State Fault Refusal :=
  if s.engine = .running then .next (settle (tickWork timing) s) else .next s

/-! ### The end of a frame cycle (R170, R174, R182, R183) -/

/-- Write-back steps 4 and 5, and the end of the cycle: D, notice, the step result (R174, R182). -/
def closeFrame (f : Flight) : Work Unit := do
  advanceDone
  noticeIf (f.notify || f.event)
  update fun s => (s.setFlight none).setStepResult (if f.byStep then .processed else s.stepResult)

/-- What follows the end of a cycle: HALTED after DRAINING, else a waiting restore's end and the check of a pending tick
(R161, R170, R183). That the restore's end is taken before tick-pending is cleared, so that a failing write of its completion leaves the
flag set, is the model's choice: notes/assumptions/44.md. -/
def afterFrame (units : Option Nat) : Work Unit := do
  let s ← getState
  if s.engine = .draining then update fun s => s.setEngine .halted
  else do
    takeReadyEnd
    if s.tickPending then do
      update fun s => s.setTickPending false
      cycleCheck false
      runStagesFor units
    else pure ()

/-- The rest of the frame in flight, then its end. -/
def endFrame (units : Option Nat) : Work Unit := do
  runToCount Config.frameFuel
  let s ← getState
  match s.flight with
  | some f =>
    if f.phase = .count then do
      closeFrame f
      afterFrame units
    else pure ()
  | none => pure ()

/-- FRAME_CYCLE_END (R174): the frame in flight, if there is one, is written back and ends. -/
def execFrameCycleEnd (units : Option Nat) (s : State) : Host.Outcome State Fault Refusal :=
  if s.frameWorks = true ∧ s.frameBusy = true then .next (settle (endFrame units) s) else .next s

/-! ### The part's own progress between commands -/

/-- The cycle check of a STEP, its intake ended (R182). -/
def stepCheck : Work Unit := do
  update fun s => s.setStepDue false
  cycleCheck true

/-- One unit of the work in flight: of the intake in RUNNING and STEP_WAIT, or else of the frame, or else the cycle check of a STEP
(notes/assumptions/3.md). -/
def progress : Work Unit := do
  let s ← getState
  if (s.engine = .running ∨ s.engine = .stepWait) ∧ s.intake.isSome = true then intakeUnit
  else
    match s.flight with
    | some f => frameUnit f
    | none => if s.stepDue then stepCheck else pure ()

/-- Whether a STEP has more to do within it: its intake, its cycle check, or stages of its frame (R182). -/
def State.stepGoesOn (s : State) : Bool :=
  s.intake.isSome ||
    match s.flight with
    | some f => !f.phase.stagesEnded
    | none => s.stepDue

/-- At most `n` units of a STEP. -/
def runStep : Nat → Work Unit
  | 0 => pure ()
  | n + 1 => do
    let s ← getState
    if s.stepGoesOn then do
      progress
      runStep n
    else pure ()

/-- What a step with no command waiting does: one unit of the work in flight, if the engine works and there is any. -/
def execIdle (s : State) : Host.Outcome State Fault Refusal :=
  if s.frameWorks then .next (settle progress s) else .next s

end Sys2Proof.Machine
end

