-- ==== Sys2Proof/Machine/Engine.lean ====
section
/-! DEFINITION. Chapter 12: the register port, the engine actions, START validation, ABORT, HALT, and the RESET state. -/

namespace Sys2Proof.Machine

/-! ### The RESET state (R185) -/

/-- The state RESET leaves (R185): everything the part holds is cleared. Kept are XBASE, what no rule clears (the geometry of the last
START, the last value read, the level on RESET_N), shared memory and the bus, the commands that wait, the mover's timing and the free
values' counter. That the pool is cleared on entering RESET, and not later within it (R94), is the model's choice:
notes/assumptions/29.md. -/
def State.cleared (s : State) : State :=
  { State.reset with
    pending := s.pending, xbase := s.xbase, readData := s.readData, resetLow := s.resetLow, geo := s.geo, mem := s.mem,
    bus := s.bus, grants := s.grants, free := s.free }

/-- POWER_ON (R185): RESET, with XBASE 0. -/
def execPowerOn (s : State) : Host.Outcome State Fault Refusal :=
  .next { s.cleared with xbase := 0 }

/-- RESET_N (R185, R186): low enters RESET with XBASE 0 and holds it there; high lets the clearing end. -/
def execResetN (level : PinLevel) (s : State) : Host.Outcome State Fault Refusal :=
  match level with
  | .low => .next { s.cleared with xbase := 0, resetLow := true }
  | .high => .next { s with resetLow := false }

/-- RESET_CLEARING_END (R185): RESET becomes HALTED; not while RESET_N is low. -/
def execResetClearingEnd (s : State) : Host.Outcome State Fault Refusal :=
  if s.engine = .reset ∧ s.resetLow = false then .next (s.setEngine .halted) else .next s

/-! ### Registers (R179, R184) -/

/-- An ignored register write or action sets last-action-ignored (R179, R180). -/
def State.ignore (s : State) : State :=
  { s with ignored := true }

/-- A taken action clears last-action-ignored (R180). -/
def State.heed (s : State) : State :=
  { s with ignored := false }

/-- XBASE_WRITE (R179): taken in HALTED. -/
def execXbaseWrite (value : Word) (s : State) : Host.Outcome State Fault Refusal :=
  if s.engine = .halted then .next { s with xbase := value } else .next s.ignore

/-- REGISTER_WRITE_NO_EFFECT (R179): a write to ESTAT, EFAULT or EID. -/
def execRegisterWriteNoEffect (register : ReadOnlyRegister) (_value : Word) (s : State) : Host.Outcome State Fault Refusal :=
  match register with
  | .estat => .next s
  | .efault => .next s
  | .eid => .next s

/-- EFAULT_READ (R184): in FAULTED it returns and clears the code and the detail and enters HALTED; in any other state it returns 0. -/
def execEfaultRead (s : State) : Host.Outcome State Fault Refusal :=
  if s.engine = .faulted then
    .next { s with readData := s.efault, faultCode := .none, faultDetail := 0, engine := .halted }
  else .next { s with readData := 0, faultCode := .none, faultDetail := 0 }

/-! ### START (R181) -/

/-- The control-page fields START reads (R167): the words at 0x00..0x34 and the done count. -/
structure Page where
  fields : List Word
  done   : Word
  deriving DecidableEq, Repr

/-- Field `i` of the page (R178: its offset divided by 4). -/
def Page.field (p : Page) (i : Nat) : Word :=
  p.fields.getD i 0

/-- Field `i` as an unsigned value. -/
def Page.nat (p : Page) (i : Nat) : Nat :=
  (p.field i).toNat

/-- Reads the control page; a failing read raises BUS_ERROR with the address of the page (R181). -/
def readPage : Work Page := do
  let s ← getState
  let fault := addressFault .busError s.xbase.toNat
  let fields ← withFault (readWords (s.pageField 0) 14) fault
  let done ← withFault (readWord (s.pageField 0x40)) fault
  pure { fields := fields, done := done }

/-- The latency limit L in use: 0 means slot count - 1 (R167). -/
def latencyOf (slotCount field : Nat) : Nat :=
  if field = 0 then slotCount - 1 else field

/-- The geometry a START copies (R26, R120, R167). -/
def Page.geometry (p : Page) : Geometry :=
  { ringBase := p.field 0, slotCount := p.nat 1, stride := p.nat 2, mics := p.nat 3, refs := p.nat 4,
    latency := latencyOf (p.nat 1) (p.nat 5), tFe := clamp (p.field 6).toInt (-400) (-40),
    farHold := clamp (p.field 7).toInt 0 64, tRes := clamp (p.field 8).toInt (-400) 0, firstCmd := p.field 9,
    dirAddr := p.field 10, dirCount := p.nat 11, winBase := p.field 12, winLimit := p.field 13 }

/-- Whether `n` bytes at `a` lie inside the page's window. -/
def Page.inside (p : Page) (a n : Nat) : Bool :=
  insideWindow (p.field 12) (p.field 13) a n

/-- A WINDOW fault for an address. -/
def windowFault (address : Word) : EngineFault :=
  addressFault .window address.toNat

/-- Whether M is at or below the number of a channel that is not OFF (R37, R181). -/
def State.micsTooFew (s : State) (mics : Nat) : Bool :=
  (List.range 16).any (fun c => decide (mics ≤ c) && decide ((s.chan c).state ≠ .off))

/-- The records check 13 looks at, in its order: the anchor, the table's, and a transfer's (R181). -/
def State.heldRecords (s : State) : List Word :=
  s.anchor.toList ++ s.table.map Entry.addr ++ s.transfer.toList.map Transfer.cmd

/-- The first structure of check 13 that lies outside the page's window (R181). -/
def State.heldOutside (s : State) (p : Page) : Option Word :=
  match s.heldRecords.find? (fun a => !p.inside a.toNat 64) with
  | some a => some a
  | none =>
    match s.transfer with
    | some t => if p.inside t.slotAddr.toNat (profileBytes t.capacity) then none else some t.slotAddr
    | none => none

/-- Checks 2 to 8, the GEOMETRY checks, in order (R181). -/
def geometryFault (s : State) (p : Page) : Option EngineFault :=
  if p.nat 1 < 2 ∨ 32 < p.nat 1 then some (fieldFault 1)
  else if p.nat 3 < 1 ∨ 16 < p.nat 3 ∨ s.micsTooFew (p.nat 3) = true then some (fieldFault 3)
  else if p.nat 4 < 1 ∨ 4 < p.nat 4 ∨ (p.nat 4 ≠ s.geo.refs ∧ s.alloc ≠ []) then some (fieldFault 4)
  else if p.nat 2 < slotSize (p.nat 3) (p.nat 4) ∨ p.nat 2 % 16 ≠ 0 then some (fieldFault 2)
  else if p.nat 1 - 1 < p.nat 5 then some (fieldFault 5)
  else if 16 < p.nat 11 then some (fieldFault 11)
  else if p.nat 13 ≤ p.nat 12 then some (fieldFault 13)
  else none

/-- Checks 9 to 13, the WINDOW checks of the page's pointers, in order (R181). -/
def pointerFault (s : State) (p : Page) : Option EngineFault :=
  if p.inside s.xbase.toNat 128 = false then some (windowFault s.xbase)
  else if p.nat 0 % 16 ≠ 0 ∨ p.inside (p.nat 0) (p.nat 1 * p.nat 2) = false then some (windowFault (p.field 0))
  else if 0 < p.nat 11 ∧ (p.nat 10 % 16 ≠ 0 ∨ p.inside (p.nat 10) (p.nat 11 * 16) = false) then some (windowFault (p.field 10))
  else if s.anchor = none ∧ p.field 9 ≠ 0 ∧ (p.nat 9 % 64 ≠ 0 ∨ p.inside (p.nat 9) 64 = false) then some (windowFault (p.field 9))
  else (s.heldOutside p).map windowFault

/-- Checks 2 to 13 in order: the fault of the first that fails (R181). -/
def startFault (s : State) (p : Page) : Option EngineFault :=
  match geometryFault s p with
  | some f => some f
  | none => pointerFault s p

/-- Steps 1 to 3 of a START that passes: the geometry, T and D, the history, tick-pending, the pending report counts and the step
result (R181). -/
def State.startWith (s : State) (p : Page) : State :=
  { s with geo := p.geometry, taken := p.done, done := p.done, history := .cleared, tickPending := false, pendIdle := 0,
           pendOverload := 0, pendDropped := 0, pendGap := 0, stepResult := .none }

/-- START and START_STEPPED as taken: the checks, then the five steps, then the mover's resumption (R165, R181). The order of the four
totals' writes is the model's choice: notes/assumptions/37.md. -/
def startWork (enters : EngineState) : Work Unit := do
  let s ← getState
  if s.xbase.toNat % 128 ≠ 0 then fail (windowFault s.xbase)
  else do
    let p ← readPage
    let s ← getState
    match startFault s p with
    | some f => fail f
    | none => do
      update fun s => s.startWith p
      writeTaken
      writeIdleTotal
      writeOverloadTotal
      writeDropTotal
      writeGapTotal
      update fun s => (s.setEngine enters).resumeMover
      takeReadyEnd

/-! ### STEP, HALT, ABORT (R182, R183) -/

/-- STEP as taken (R182): the step result cleared, one intake, one cycle check, and the frame's work, for the units given or through
stage 8. Between two units an ending event can fall (R138). A STEP written while the intake of an earlier one goes on brings no second
intake or check, and one written when that intake has ended, with its check still due, brings a second intake and one check for both: the
model's choices, notes/assumptions/39.md. -/
def stepWork (units : Option Nat) : Work Unit := do
  update fun s => (s.setStepResult .none).setStepDue true
  beginIntake
  runStep (units.getD Config.stepFuel)

/-- HALT as taken, its intake already cut; a STEP's cycle check is not made (R183). -/
def State.halt (s : State) : State :=
  ((s.setTickPending false).setStepDue false).setEngine (if s.frameBusy then .draining else .halted)

/-- ABORT's end of the frame in flight (R176): status ABORTED, D set to T, and the notice of a committed divergence event. That D is written
to the page before the unit's own D is set, so that a failing write leaves T = D + 1, is the model's choice: notes/assumptions/12.md. -/
def abortFrame (f : Flight) : Work Unit := do
  writeStatus f.count .aborted
  let s ← getState
  writeDone s.taken
  update fun s => s.setDone s.taken
  noticeIf f.event
  update fun s => s.setFlight none

/-- ABORT as taken, its intake already cut: the frame, the transfer, tick-pending, HALTED (R164, R176, R183). That tick-pending is cleared
after all of ABORT's writes, so that a failing one leaves it set, is the model's choice: notes/assumptions/43.md. -/
def abortWork : Work Unit := do
  let s ← getState
  match s.flight with
  | some f => abortFrame f
  | none => pure ()
  match s.transfer with
  | some t => endByAbort t
  | none => pure ()
  update fun s => ((s.setTickPending false).setStepDue false).setEngine .halted

/-- HALT and ABORT first let the record of an intake in progress complete its step (R138). If that faults, the fault comes first
and the action is ignored (R180). -/
def afterCut (s : State) (act : State → State) : State :=
  match cutIntake s with
  | .ok _ t => act t.heed
  | .error f t => (t.raise f).ignore

/-! ### The actions (R180) -/

/-- SOFT_RESET as taken (R185). -/
def State.softReset (s : State) : State :=
  s.cleared

/-- What an action does where it is taken; `units` bounds the work of a STEP (R180). -/
def State.act (s : State) (units : Option Nat) : EngineAction → State
  | .start => settle (startWork .running) s.heed
  | .startStepped => settle (startWork .stepWait) s.heed
  | .step => settle (stepWork units) s.heed
  | .halt => afterCut s State.halt
  | .abort => afterCut s (settle abortWork)
  | .softReset => s.softReset
  | .ackNotice => s.heed.setNotice false

/-- An action written to ECTL: taken, or ignored (R180). -/
def State.attempt (s : State) (units : Option Nat) (a : EngineAction) : State :=
  if s.takes a then s.act units a else s.ignore

/-- START (R180, R181). -/
def execStart (s : State) : Host.Outcome State Fault Refusal :=
  .next (s.attempt none .start)

/-- START_STEPPED (R180, R181). -/
def execStartStepped (s : State) : Host.Outcome State Fault Refusal :=
  .next (s.attempt none .startStepped)

/-- STEP (R180, R182). -/
def execStep (units : Option Nat) (s : State) : Host.Outcome State Fault Refusal :=
  .next (s.attempt units .step)

/-- HALT (R180, R183). -/
def execHalt (s : State) : Host.Outcome State Fault Refusal :=
  .next (s.attempt none .halt)

/-- ABORT (R180, R183). -/
def execAbort (s : State) : Host.Outcome State Fault Refusal :=
  .next (s.attempt none .abort)

/-- SOFT_RESET (R180, R185). -/
def execSoftReset (s : State) : Host.Outcome State Fault Refusal :=
  .next (s.attempt none .softReset)

/-- ACK_NOTICE (R177, R180): taken in every state. -/
def execAckNotice (s : State) : Host.Outcome State Fault Refusal :=
  .next (s.attempt none .ackNotice)

/-- ECTL_VALUE_IGNORED (R180): a value that names no action is ignored, and so is an action that this state does not take; a value
that names an action this state takes is that action (notes/assumptions/18.md). -/
def execEctlValueIgnored (value : Word) (s : State) : Host.Outcome State Fault Refusal :=
  match actionOf value with
  | some a => .next (s.attempt none a)
  | none => .next s.ignore

end Sys2Proof.Machine
end

