-- ==== Sys2Proof/Machine/Dispatch.lean ====
section
/-! DEFINITION. The dispatch: one arm for each command. -/

namespace Sys2Proof.Machine

open Sys2Proof

def exec (i : Instr) (s : State) : Host.Outcome State Fault Refusal :=
  match i with
  | .powerOn => Sys2Proof.Machine.execPowerOn s
  | .resetN level => Sys2Proof.Machine.execResetN level s
  | .resetClearingEnd => Sys2Proof.Machine.execResetClearingEnd s
  | .xbaseWrite value => Sys2Proof.Machine.execXbaseWrite value s
  | .registerWriteNoEffect register value => Sys2Proof.Machine.execRegisterWriteNoEffect register value s
  | .efaultRead => Sys2Proof.Machine.execEfaultRead s
  | .start => Sys2Proof.Machine.execStart s
  | .startStepped => Sys2Proof.Machine.execStartStepped s
  | .step units => Sys2Proof.Machine.execStep units s
  | .halt => Sys2Proof.Machine.execHalt s
  | .abort => Sys2Proof.Machine.execAbort s
  | .softReset => Sys2Proof.Machine.execSoftReset s
  | .ackNotice => Sys2Proof.Machine.execAckNotice s
  | .ectlValueIgnored value => Sys2Proof.Machine.execEctlValueIgnored value s
  | .blktick timing => Sys2Proof.Machine.execBlktick timing s
  | .captureSegment => Sys2Proof.Machine.execCaptureSegment s
  | .restoreSegment => Sys2Proof.Machine.execRestoreSegment s
  | .restoreEnd => Sys2Proof.Machine.execRestoreEnd s
  | .frameCycleEnd units => Sys2Proof.Machine.execFrameCycleEnd units s
  | .storageUpset slot part value => Sys2Proof.Machine.execStorageUpset slot part value s

end Sys2Proof.Machine
end

