-- ==== Sys2Proof/Safety.lean ====
section
/-! DEFINITION. What a sound state of the block is: the invariants of the spec's prose, as properties of State. Each holds right after
power-on and is meant to be kept by every step from any state that has it. -/

namespace Sys2Proof.Machine

/-! ### Shared memory -/

/-- Shared memory has its one canonical form. -/
def State.MemoryCanonical (s : State) : Prop :=
  memoryWf s.mem = true

/-! ### The frame counts (R169) -/

/-- T is D + 1 while a frame cycle is busy, whose count is D, and D otherwise; a frame abandoned by a fault leaves T = D + 1 in FAULTED
and in the HALTED that follows. A frame is in flight only in RUNNING, STEP_WAIT and DRAINING, and in DRAINING one is (R169, R183). -/
def State.CountsAgree (s : State) : Prop :=
  (match s.flight with
    | some f => s.taken = s.done + 1 ∧ f.count = s.done ∧ s.frameWorks = true
    | none => s.taken = s.done ∨ (s.taken = s.done + 1 ∧ (s.engine = .faulted ∨ s.engine = .halted))) ∧
  (s.engine = .draining → s.flight.isSome = true)

/-! ### Faults (R184) -/

/-- A fault code and a detail stand only in FAULTED (R184). -/
def State.FaultsAgree (s : State) : Prop :=
  s.engine ≠ .faulted → s.faultCode = .none ∧ s.faultDetail = 0

/-! ### The action table (R143) -/

/-- The table holds at most 8 entries (R143). -/
def State.TableBounded (s : State) : Prop :=
  s.table.length ≤ Config.tableSize

/-! ### The schedule queue (R110) -/

/-- The channel whose stage-7 zeroing, commit or stage 8 is next; 0 in the other phases. -/
def Phase.channel : Phase → Nat
  | .apply => 0
  | .push => 0
  | .estimate c => c
  | .filter c => c
  | .decide => 0
  | .walk => 0
  | .adapt _ => 0
  | .commit c => c
  | .zeroing c _ => c
  | .suppress c => c
  | .output c => c
  | .report => 0
  | .status => 0
  | .count => 0

/-- Channel numbers in use name channels of the table: M is at most 16, and so is every channel of a transfer or of the frame's
next unit (R66, R181). -/
def State.ChannelsNamed (s : State) : Prop :=
  s.geo.mics ≤ 16 ∧ (∀ t, s.transfer = some t → t.chan < 16) ∧ (∀ f, s.flight = some f → f.phase.channel < 16)

/-- The schedule queue contains each channel in ACQUIRE or TRACK exactly once and no channel in any other state (R110). -/
def State.QueueExact (s : State) : Prop :=
  s.queue.Nodup ∧ ∀ c, c ∈ s.queue ↔ (s.chan c).state.adapts = true

/-! ### The capture flag (R66, R156) -/

/-- A channel's capture flag is set exactly while the mover captures it, and never in OFF (R66, R156). -/
def State.CapturesAgree (s : State) : Prop :=
  (∀ c, (s.chan c).capture = true ↔ ∃ t, s.transfer = some t ∧ t.direction = .capture ∧ t.chan = c) ∧
  (∀ c, (s.chan c).state = .off → (s.chan c).capture = false)

/-! ### Ranges (R11, R66, R67) -/

/-- Every tuning field lies in its range, and mu_trk is at most mu_acq (R67). -/
def Tuning.InRange (t : Tuning) : Prop :=
  (1 ≤ t.muAcq ∧ t.muAcq ≤ 32767) ∧ (1 ≤ t.muTrk ∧ t.muTrk ≤ t.muAcq) ∧ (8 ≤ t.tConv ∧ t.tConv ≤ 200) ∧
  (1 ≤ t.dConv ∧ t.dConv ≤ 1000) ∧ (1 ≤ t.dRecheck ∧ t.dRecheck ≤ 1000) ∧ (0 ≤ t.mDt ∧ t.mDt ≤ 48) ∧
  (0 ≤ t.hang ∧ t.hang ≤ 250) ∧ (-160 ≤ t.floor ∧ t.floor ≤ 0) ∧ (1 ≤ t.attack ∧ t.attack ≤ 48) ∧
  (1 ≤ t.release ∧ t.release ≤ 48)

/-- Every field of a context lies in its range, h at most the channel's H, and P in 4..64 outside OFF (R60, R66); the window's n is at most
P (R46). -/
def Channel.InRange (ctx : Channel) : Prop :=
  (-96 ≤ ctx.erle ∧ ctx.erle ≤ 240) ∧ (-240 ≤ ctx.coupling ∧ ctx.coupling ≤ 48) ∧ (-160 ≤ ctx.atten ∧ ctx.atten ≤ 0) ∧
  ctx.strikes ≤ 7 ∧ ctx.dwell ≤ 1000 ∧ (ctx.hang : Int) ≤ ctx.tuning.hang ∧ ctx.parity ≤ 65535 ∧ ctx.divergences.length ≤ 3 ∧
  ctx.window.n ≤ ctx.parts ∧ (ctx.state ≠ .off → 4 ≤ ctx.parts ∧ ctx.parts ≤ 64) ∧ ctx.tuning.InRange

/-- A level lies in -480..0 (R9). -/
def LevelInRange (l : Int) : Prop :=
  -480 ≤ l ∧ l ≤ 0

/-- The levels measured for a channel in the frame lie in range (R9, R130). -/
def ChanWork.LevelsInRange (w : ChanWork) : Prop :=
  LevelInRange w.lm ∧ LevelInRange w.ly ∧ LevelInRange w.le ∧ LevelInRange w.lout

/-- A block of `n` samples of 24 bits. -/
def SampleBlock (n : Nat) (block : List Int) : Prop :=
  block.length = n ∧ ∀ v ∈ block, -8388608 ≤ v ∧ v ≤ 8388607

/-- Every spectrum held is zero or that of a window of 256 samples (R17, R18). -/
def History.Sampled (h : History) : Prop :=
  ∀ r : Fin 4, ∀ w, Spectrum.of w ∈ h.rings[r] → SampleBlock 256 w

/-- The history has the form of R17: 64 spectra in each ring, each of 256 samples, 128 samples in each last block, and 129 powers, none
negative. -/
def History.Formed (h : History) : Prop :=
  (∀ r : Fin 4, h.rings[r].length = 64 ∧ SampleBlock 128 h.last[r]) ∧ h.Sampled ∧
  h.power.length = 129 ∧ ∀ p ∈ h.power, 0 ≤ p

/-- The history has its form, its levels lie in range, and the hold counter in 0 to the hold value, itself in 0..64 (R17, R26). -/
def History.InRange (h : History) (farHold : Int) : Prop :=
  h.Formed ∧ (∀ r : Fin 4, LevelInRange h.levels[r]) ∧ LevelInRange h.lx ∧ (0 ≤ h.hold ∧ h.hold ≤ farHold) ∧ farHold ≤ 64

/-- A filed action carries parameters that passed intake (R141). -/
def Action.InRange : Action → Prop
  | .configure parts => 4 ≤ parts ∧ parts ≤ 64
  | .release => True
  | .reset => True
  | .freeze => True
  | .thaw => True
  | .setWindow w => w.n ≤ 64
  | .setTuning mask values =>
    ∀ i < 10, mask.getLsbD i = true → (tuningRange i).1 ≤ values.getD i 0 ∧ values.getD i 0 ≤ (tuningRange i).2
  | .capture index => index ≤ 15
  | .restore index => index ≤ 15

/-- The frame in flight: the contexts it began with and its levels in range; no h before stage 4, none above H after; and past stage 1 the
tuning is the one the frame began with (R57, R124). -/
def Flight.InRange (f : Flight) (s : State) : Prop :=
  ∀ c, (f.ctx c).InRange ∧ (f.chanWork c).LevelsInRange ∧ ((f.chanWork c).hang : Int) ≤ (f.ctx c).tuning.hang ∧
    (f.phase = .apply → (f.chanWork c).hang = 0) ∧ (f.phase ≠ .apply → (s.chan c).tuning = (f.ctx c).tuning)

/-- Every stored quantity keeps the range given for it: in the contexts, the history, the pending report counts, the frame in flight, the
table and the mover (R11, R17, R66, R141, R160, R175). No transfer and no divergence event is on a channel in OFF. -/
def State.WithinRanges (s : State) : Prop :=
  (∀ c, (s.chan c).InRange) ∧
  s.history.InRange s.geo.farHold ∧
  (s.pendIdle ≤ 255 ∧ s.pendOverload ≤ 255 ∧ s.pendDropped ≤ 255 ∧ s.pendGap ≤ 255) ∧
  (∀ f, s.flight = some f → f.InRange s) ∧
  (∀ e ∈ s.table, e.action.InRange) ∧
  (∀ t, s.transfer = some t → (-96 ≤ t.erle ∧ t.erle ≤ 240) ∧ (-240 ≤ t.coupling ∧ t.coupling ≤ 48)) ∧
  (∀ t, s.transfer = some t → (s.chan t.chan).state ≠ .off) ∧
  (∀ f c k, s.flight = some f → f.phase = .zeroing c k → (s.chan c).state ≠ .off)

/-! ### Extents (R68, R95) -/

/-- The entries lie in base order inside the pool, do not overlap, and name different channels (R95). -/
def ExtentsDisjoint (alloc : List Extent) : Prop :=
  alloc.Pairwise (fun d e => d.base + d.size ≤ e.base) ∧ alloc.Pairwise (fun d e => d.chan ≠ e.chan) ∧
  ∀ e ∈ alloc, e.base + e.size ≤ Config.poolSlots ∧ 1 ≤ e.size ∧ e.chan < 16

/-- A channel in OFF holds no extent; a channel in any other state holds exactly one, of size P x R (R68). -/
def State.ExtentsMatch (s : State) : Prop :=
  ∀ c, ((s.chan c).state = .off → ∀ e ∈ s.alloc, e.chan ≠ c) ∧
    ((s.chan c).state ≠ .off → (s.extent c) ∈ s.alloc ∧ (s.extent c).size = (s.chan c).parts * s.geo.refs ∧
      4 ≤ (s.chan c).parts ∧ (s.chan c).parts ≤ 64)

/-- The allocation list is sound (R68, R95), for M at most 16 and an R of 1 to 4 while frames are processed (R181), with every filed
CONFIGURE_CHANNEL in range (R141), and no transfer and no divergence event on a channel in OFF. -/
def State.PoolSound (s : State) : Prop :=
  ExtentsDisjoint s.alloc ∧ s.ExtentsMatch ∧ s.geo.mics ≤ 16 ∧ s.geo.refs ≤ 4 ∧ (s.frameWorks = true → 1 ≤ s.geo.refs) ∧
  (∀ e ∈ s.table, e.action.InRange) ∧
  (∀ t, s.transfer = some t → (s.chan t.chan).state ≠ .off) ∧
  (∀ f c k, s.flight = some f → f.phase = .zeroing c k → (s.chan c).state ≠ .off)

/-! ### What the states of rest hold -/

/-- The history at power-on, after START and after a clearing: zero spectra, blocks of zeros, no power, no far end (R17). -/
def History.empty : History :=
  { rings := Vector.replicate 4 (List.replicate 64 .zero), last := Vector.replicate 4 (List.replicate 128 0),
    power := List.replicate 129 0, hold := 0, levels := Vector.replicate 4 (-480), lx := -480, farActive := false }

/-- The state right after the RESET state's clearing has begun, as R185 lists it: everything the part holds is cleared, and shared
memory is as it was. -/
def State.ClearedFrom (t s : State) : Prop :=
  t.engine = .reset ∧ t.flight = none ∧ t.intake = none ∧ t.stepDue = false ∧ t.transfer = none ∧ (∀ i, t.slot i = { parts := List.replicate 258 0, bad := 0 }) ∧ t.alloc = [] ∧
  (∀ c, (t.chan c).state = .off) ∧ t.queue = [] ∧ t.table = [] ∧ t.lock = false ∧ t.anchor = none ∧
  t.taken = 0 ∧ t.done = 0 ∧ t.idleTotal = 0 ∧ t.overloadTotal = 0 ∧ t.dropTotal = 0 ∧ t.gapTotal = 0 ∧
  t.pendIdle = 0 ∧ t.pendOverload = 0 ∧ t.pendDropped = 0 ∧ t.pendGap = 0 ∧ t.tickPending = false ∧
  t.history = History.empty ∧ t.notice = false ∧ t.faultCode = .none ∧ t.faultDetail = 0 ∧ t.ignored = false ∧
  t.stepResult = .none ∧ t.mem = s.mem

/-! ### The words the statements use -/

/-- No access the part makes fails. -/
def State.Quiet (s : State) : Prop :=
  s.bus = []

/-- The cells of `n` bytes at `a` and of `m` bytes at `b` are different. -/
def Apart (a n b m : Nat) : Prop :=
  ∀ i < n, ∀ j < m, cellOf (a + i) ≠ cellOf (b + j)

/-- Every byte outside the regions (an address and a length each) reads in `t` as in `s`. -/
def KeepsBytesBut (s t : State) (regions : List (Nat × Nat)) : Prop :=
  ∀ a, (∀ r ∈ regions, ∀ i < r.2, cellOf a ≠ cellOf (r.1 + i)) → readByte t.mem a = readByte s.mem a

/-- The values of the completion codes (R178). -/
def codeNumber : Code → Word
  | .ok => 0
  | .late => 1
  | .cancelled => 2
  | .badKind => 3
  | .badChannel => 4
  | .badState => 5
  | .range => 6
  | .noRoom => 7
  | .fragmented => 8
  | .growRefused => 9
  | .busy => 10
  | .notFound => 11
  | .locked => 12
  | .protected_ => 13
  | .badSlot => 14
  | .noProfile => 15
  | .mismatch => 16
  | .tooSmall => 17
  | .aborted => 18
  | .dataError => 19
  | .tableFull => 20

/-- The values of the channel states (R178). -/
def stateNumber : ChanState → Word
  | .off => 0
  | .acquire => 1
  | .track => 2
  | .held => 3
  | .restoring => 4
  | .suspended => 5

/-- The record at `address` carries a completion: result, code, sequence and DONE (R145). -/
def CompletedIn (t : State) (address : Word) (code : Code) (sequence result : Word) : Prop :=
  memWord t.mem (address.toNat + 0x30) = result ∧ memWord t.mem (address.toNat + 0x2C) = codeNumber code ∧
  memWord t.mem (address.toNat + 0x28) = sequence ∧ readByte t.mem (address.toNat + 4) = 3

/-- The bytes a completion writes: the completion sequence, code and result, and the owner (R145, R178). -/
def completionBytes (address : Word) : List (Nat × Nat) :=
  [(address.toNat + 0x28, 12), (address.toNat + 4, 1)]

/-- The half-word at an address, little-endian (R178). -/
def memHalf (m : List Host.Cell) (a : Nat) : BitVec 16 :=
  readByte m (a + 1) ++ readByte m a

/-- What a gap push of `k` blocks, 1 to 64 of them, makes of the history, and of none nothing (R20, R23): `k` zero spectra in front of each
ring below R, its last block zeros, and each power at (15/16)^k of what it was, within a relative 2^-24 a step (chapter 3). Levels, Lx,
hold and activity stay. -/
def GapPushed (h t : History) (refs k : Nat) : Prop :=
  if k = 0 then t = h
  else
    t = { h with rings := t.rings, last := t.last, power := t.power } ∧
    (∀ r : Fin 4, r.val < refs →
      t.rings[r] = (List.replicate k Spectrum.zero ++ h.rings[r]).take 64 ∧ t.last[r] = List.replicate 128 0) ∧
    (∀ r : Fin 4, refs ≤ r.val → t.rings[r] = h.rings[r] ∧ t.last[r] = h.last[r]) ∧
    t.power.length = h.power.length ∧
    ∀ b, 0 ≤ h.power.getD b 0 →
      h.power.getD b 0 * (15 / 16 * (1 - 1 / 2 ^ 24)) ^ k ≤ t.power.getD b 0 ∧
      t.power.getD b 0 ≤ h.power.getD b 0 * (15 / 16 * (1 + 1 / 2 ^ 24)) ^ k

/-- The transfer stands between two segments: none is begun (R156). -/
def Transfer.BetweenSegments (u : Transfer) : Prop :=
  u.read = [] ∧ u.written = 0 ∧ u.moveDue = false

/-- The mover works on transfer `u`, no access fails, and the next segment command makes `u`'s next segment whole: none is begun, the engine
does not ask for the port, and nothing else is taken within it (R105, R107). -/
def State.MovesSegment (s : State) (u : Transfer) : Prop :=
  (s.engine = .running ∨ s.engine = .stepWait) ∧ s.Quiet ∧ s.transfer = some u ∧ u.BetweenSegments ∧ s.engineAsks = false ∧ s.grants = []

/-- The mover works on transfer `u`, and the next segment command makes one access alone. -/
def State.MovesOnce (s : State) (u : Transfer) (rest : List Nat) : Prop :=
  (s.engine = .running ∨ s.engine = .stepWait) ∧ s.transfer = some u ∧ s.grants = 1 :: rest

/-- The ranges of the ten tuning fields, in the table's order (R67). -/
def tuningRanges : List (Int × Int) :=
  [(1, 32767), (1, 32767), (8, 200), (1, 1000), (1, 1000), (0, 48), (0, 250), (-160, 0), (1, 48), (1, 48)]

/-- Tuning field `i` of a SET_TUNING record: the signed half-word at offset 2 + 2i of its parameter area (R178). -/
def Record.tuningField (r : Record) (i : Nat) : Int :=
  (r.params.getD (3 + 2 * i) 0 ++ r.params.getD (2 + 2 * i) 0 : BitVec 16).toInt

/-- Tuning field `i` of a SET_TUNING record is present and fails its test: out of range, or a mu_trk above a present mu_acq (R141). The
pair's test stands at mu_trk's offset: notes/assumptions/15.md. -/
def Record.TuningFails (r : Record) (i : Nat) : Prop :=
  let mask := r.params.getD 1 0 ++ r.params.getD 0 0
  mask.getLsbD i = true ∧
    (r.tuningField i < (tuningRanges.getD i (0, 0)).1 ∨ (tuningRanges.getD i (0, 0)).2 < r.tuningField i ∨
      (i = 1 ∧ mask.getLsbD 0 = true ∧ r.tuningField 0 < r.tuningField 1))

/-- The record `r` is of the kind of `action`, with parameters that lie in their ranges and are those of `action` (R141, R178). -/
def Record.StandsFor (r : Record) : Action → Prop
  | .configure parts => r.kind = 1 ∧ parts = (r.params.getD 0 0).toNat ∧ 4 ≤ parts ∧ parts ≤ 64
  | .release => r.kind = 2
  | .reset => r.kind = 3
  | .freeze => r.kind = 4
  | .thaw => r.kind = 5
  | .setWindow w =>
    r.kind = 6 ∧ r.params.getD 0 0 = (match w.mode with | .all => 0 | .head => 1 | .tail => 2) ∧
    w.n = (r.params.getD 1 0).toNat ∧ w.n ≤ 64 ∧ r.params.getD 2 0 = if w.complement then 1 else 0
  | .setTuning mask values =>
    r.kind = 7 ∧ mask = r.params.getD 1 0 ++ r.params.getD 0 0 ∧ mask.toNat < 1024 ∧
    values = (List.range 10).map r.tuningField ∧ ∀ i < 10, ¬ r.TuningFails i
  | .capture index => r.kind = 8 ∧ index = (r.params.getD 0 0).toNat ∧ index ≤ 15
  | .restore index => r.kind = 9 ∧ index = (r.params.getD 0 0).toNat ∧ index ≤ 15

/-- No transfer is a restore whose end is ready to be taken. -/
def State.NoEndReady (s : State) : Prop :=
  ∀ u, s.transfer = some u → u.endReady = false

/-- Taking the end of restore `u` in `s` leaves `t`: the channel in TRACK with the header's S and C and h, strikes and dwell 0, at the tail
of the queue; the record complete at the done count as it stands, with the profile's P and fitted; the mover idle (R161, R166). -/
def EndTakenFrom (s t : State) (u : Transfer) : Prop :=
  t = { s with transfer := none, channels := t.channels, queue := s.queue.filter (fun d => decide (d ≠ u.chan)) ++ [u.chan],
               notice := s.notice || u.notify, mem := t.mem } ∧
  t.chan u.chan = { s.chan u.chan with state := .track, prior := none, erle := u.erle, coupling := u.coupling, hang := 0,
                                       strikes := 0, dwell := 0 } ∧
  (∀ c, c ≠ u.chan → t.chan c = s.chan c) ∧
  CompletedIn t u.cmd (if u.late then .late else .ok) s.done (BitVec.ofNat 16 u.fitted.toNat ++ BitVec.ofNat 16 u.parts) ∧
  KeepsBytesBut s t (completionBytes u.cmd)

/-- The mover holds restore `u`, whose copy and fill are made: its end is ready (R161). -/
def State.HoldsReadyEnd (s : State) (u : Transfer) : Prop :=
  s.transfer = some u ∧ u.direction = .restore ∧ u.copy + u.fill ≤ u.progress ∧ u.chan < 16 ∧ u.cmd.toNat % 64 = 0

/-- The command chain is empty: no anchor, and a first-command address of 0 (R134). -/
def State.ChainEmpty (s : State) : Prop :=
  s.anchor = none ∧ s.geo.firstCmd = 0 ∧ s.intake = none

/-- The fill count F as it stands in the control page (R167). -/
def State.fillCount (s : State) : Word :=
  memWord s.mem (s.pageField 0x38)

/-- The control page as it stands in shared memory (R167, R178). -/
def State.page (s : State) : Page :=
  { fields := (List.range 14).map (fun i => memWord s.mem (s.xbase.toNat + 4 * i)), done := memWord s.mem (s.xbase.toNat + 0x40) }

/-- The geometry fields of a page that passes checks 2 to 8 of R181. -/
def Page.GeometryPasses (p : Page) (s : State) : Prop :=
  (2 ≤ p.nat 1 ∧ p.nat 1 ≤ 32) ∧
  (1 ≤ p.nat 3 ∧ p.nat 3 ≤ 16 ∧ ∀ c < 16, p.nat 3 ≤ c → (s.chan c).state = .off) ∧
  (1 ≤ p.nat 4 ∧ p.nat 4 ≤ 4 ∧ (s.alloc ≠ [] → p.nat 4 = s.geo.refs)) ∧
  (64 + 512 * p.nat 4 + 1024 * p.nat 3 + 64 + 32 * p.nat 3 ≤ p.nat 2 ∧ p.nat 2 % 16 = 0) ∧
  p.nat 5 ≤ p.nat 1 - 1 ∧
  p.nat 11 ≤ 16 ∧
  p.nat 12 < p.nat 13

/-- The pointers of a page that passes checks 9 to 13 of R181. -/
def Page.PointersPass (p : Page) (s : State) : Prop :=
  p.inside s.xbase.toNat 128 = true ∧
  (p.nat 0 % 16 = 0 ∧ p.inside (p.nat 0) (p.nat 1 * p.nat 2) = true) ∧
  (0 < p.nat 11 → p.nat 10 % 16 = 0 ∧ p.inside (p.nat 10) (p.nat 11 * 16) = true) ∧
  (s.anchor = none → p.field 9 ≠ 0 → p.nat 9 % 64 = 0 ∧ p.inside (p.nat 9) 64 = true) ∧
  (∀ a, s.anchor = some a → p.inside a.toNat 64 = true) ∧
  (∀ e ∈ s.table, p.inside e.addr.toNat 64 = true) ∧
  (∀ t, s.transfer = some t → p.inside t.cmd.toNat 64 = true ∧ p.inside t.slotAddr.toNat (profileBytes t.capacity) = true)

/-- What a START that passes leaves, `enters` being the state it enters (R181): the page's fields copied, T_fe, the hold and T_res clamped
and a latency of 0 read as slot count - 1 (R26, R120, R167), and a segment of the mover begun again from its first slot (R165). -/
def StartedFrom (s t : State) (enters : EngineState) : Prop :=
  t = { s with engine := enters, ignored := false, taken := s.page.done, done := s.page.done,
               geo :=
                 { ringBase := s.page.field 0, slotCount := s.page.nat 1, stride := s.page.nat 2, mics := s.page.nat 3,
                   refs := s.page.nat 4, latency := if s.page.nat 5 = 0 then s.page.nat 1 - 1 else s.page.nat 5,
                   tFe := max (-400) (min (-40) (s.page.field 6).toInt), farHold := max 0 (min 64 (s.page.field 7).toInt),
                   tRes := max (-400) (min 0 (s.page.field 8).toInt), firstCmd := s.page.field 9, dirAddr := s.page.field 10,
                   dirCount := s.page.nat 11, winBase := s.page.field 12, winLimit := s.page.field 13 },
               history := .empty, tickPending := false, pendIdle := 0, pendOverload := 0, pendDropped := 0, pendGap := 0,
               stepResult := .none, transfer := s.transfer.map (fun u => { u with read := [], written := 0 }), mem := t.mem } ∧
  memWord t.mem (s.pageField 0x3C) = s.page.done ∧ memWord t.mem (s.pageField 0x44) = s.idleTotal ∧
  memWord t.mem (s.pageField 0x48) = s.overloadTotal ∧ memWord t.mem (s.pageField 0x4C) = s.dropTotal ∧
  memWord t.mem (s.pageField 0x50) = s.gapTotal ∧ KeepsBytesBut s t [(s.pageField 0x3C, 4), (s.pageField 0x44, 16)]

/-- The structures that check 13 of R181 holds against the window, in its order, each an address and a size: the anchor's record, the
table's, and a transfer's record and profile slot. -/
def State.heldStructures (s : State) : List (Word × Nat) :=
  s.anchor.toList.map (fun a => (a, 64)) ++ s.table.map (fun e => (e.addr, 64)) ++
    s.transfer.toList.flatMap (fun u => [(u.cmd, 64), (u.slotAddr, 64 + u.capacity * 1032)])

/-- START and START_STEPPED raise this fault and copy nothing (R181, R184). -/
def StartFaults (s : State) (code : FaultCode) (detail : BitVec 30) : Prop :=
  ∃ t, exec .start s = .next t ∧ exec .startStepped s = .next t ∧
    t = { s with engine := .faulted, faultCode := code, faultDetail := detail, notice := true, ignored := false, flight := none,
                 intake := none, stepDue := false }

/-- The frame in flight that taking the frame with count D begins, its header's second word being `w1` (R173). -/
def State.begun (s : State) (count w1 : Word) (byStep : Bool) : Flight :=
  { count := count, gap := min (byteOf w1 0).toNat 64, notify := decide (byteOf w1 1 ≠ 0), byStep := byStep, phase := .apply,
    start := s.channels, refClips := [], cost := 0, units := 0, work := Vector.replicate 16 .none, event := false }

/-- Taking the frame with count D in `s`, its header's sequence being D, leaves `t`: T at D + 1 and written, the frame in flight (R173). -/
def State.TakesFrame (s t : State) (byStep : Bool) : Prop :=
  t = { s with taken := s.done + 1, flight := some (s.begun s.done (memWord s.mem (s.geo.slotOf s.done + 4)) byStep), mem := t.mem } ∧
  memWord t.mem (s.pageField 0x3C) = s.done + 1 ∧ KeepsBytesBut s t [(s.pageField 0x3C, 4)]

/-- Taking the frame with count D in `s`, its header's sequence being another, leaves `t`: a gap push of one block with its counts, status
MISMATCH, T and D at D + 1 and written, the notice the header asks for, and NO_FRAME where a STEP made the check (R173, R182). -/
def State.FindsMismatch (s t : State) (byStep : Bool) : Prop :=
  let slot := s.geo.slotOf s.done
  t = { s with done := s.done + 1, taken := s.done + 1, gapTotal := s.gapTotal + 1, pendGap := min 255 (s.pendGap + 1),
               history := t.history, free := s.free + 1, notice := s.notice || decide (byteOf (memWord s.mem (slot + 4)) 1 ≠ 0),
               stepResult := if byStep then .noFrame else s.stepResult, mem := t.mem } ∧
  GapPushed s.history t.history s.geo.refs 1 ∧
  readByte t.mem (slot + 6) = 2 ∧ memWord t.mem (s.pageField 0x3C) = s.done + 1 ∧
  memWord t.mem (s.pageField 0x40) = s.done + 1 ∧ memWord t.mem (s.pageField 0x50) = s.gapTotal + 1 ∧
  KeepsBytesBut s t [(slot + 6, 1), (s.pageField 0x3C, 8), (s.pageField 0x50, 4)]

/-- Dropping the oldest `d` frames in `s` leaves `t`: T, D and the drop total advance by `d`, the history is gap-pushed by at most 64 blocks,
which the gap total and the pending count take up, and T, D and the two totals are written (R20 to R22, R172). -/
def State.DropsFrames (s t : State) (d : Nat) : Prop :=
  let n := s.done + BitVec.ofNat 32 d
  t = { s with done := n, taken := n, dropTotal := s.dropTotal + BitVec.ofNat 32 d,
               gapTotal := s.gapTotal + BitVec.ofNat 32 (min d 64), pendDropped := min 255 (s.pendDropped + d),
               pendGap := min 255 (s.pendGap + min d 64), history := t.history, free := s.free + min d 64, mem := t.mem } ∧
  GapPushed s.history t.history s.geo.refs (min d 64) ∧
  memWord t.mem (s.pageField 0x3C) = n ∧ memWord t.mem (s.pageField 0x40) = n ∧
  memWord t.mem (s.pageField 0x4C) = s.dropTotal + BitVec.ofNat 32 d ∧
  memWord t.mem (s.pageField 0x50) = s.gapTotal + BitVec.ofNat 32 (min d 64) ∧
  KeepsBytesBut s t [(s.pageField 0x3C, 8), (s.pageField 0x4C, 8)]

/-- An intake that has just begun (R137). -/
def freshIntake : Intake :=
  { done := none, taken := 0, inHand := none }

/-- The timing of a tick whose intake and frame wait where they begin. -/
def justBegun : TickTiming :=
  { plan := [], finish := false }

/-- The intake after a tick or a STEP brings one: the intake in progress goes on, or one begins (R137). -/
def State.broughtIntake (s : State) : Intake :=
  s.intake.getD freshIntake

/-- One unit of a party in `m` leaves `t`, as the block's own progress makes it: of the intake in progress, or of the stages of the frame in
flight, the intake waiting. A party with nothing left to do leaves `m` (notes/assumptions/3.md). -/
def State.Makes (m : State) (p : Party) (t : State) : Prop :=
  match p with
  | .intake => if m.intake = none then t = m else step m = .next t
  | .frame =>
    match m.flight with
    | none => t = m
    | some f =>
      if f.phase.stagesEnded = true then t = m
      else ∃ u, step { m with intake := none } = .next u ∧ t = if u.engine = .faulted then u else { u with intake := m.intake }

/-- The cycle check made in `m` leaves `t`: that of a tick which finds no cycle busy, the intake staying as it is (R170, R171). -/
def State.Checks (m t : State) : Prop :=
  ∃ u, exec (.blktick justBegun) m = .next u ∧ t = if u.engine = .faulted then u else { u with intake := m.intake }

/-- The next unit of the block's own progress is the frame's, at `phase`, and no access fails. -/
def State.AtPhase (s : State) (f : Flight) (phase : Phase) : Prop :=
  s.pending = [] ∧ s.frameWorks = true ∧ s.intake = none ∧ s.flight = some f ∧ f.phase = phase ∧ s.Quiet

/-- After `n` steps of the block's own progress, none of them from the done count on, the state is `t`, in which the done count of the
frame is next or a fault has ended it. -/
def State.ReachesCount (s : State) : Nat → State → Prop
  | 0, t => s = t ∧ ∀ f, s.flight = some f → f.phase = .count
  | n + 1, t => (∃ f, s.flight = some f ∧ f.phase ≠ .count) ∧ ∃ m : State, step s = .next m ∧ m.ReachesCount n t

/-- The next unit of the block's own progress takes up entry `e` at stage 1 of frame `f`, and no access fails (R32). -/
def State.ReachesEntry (s : State) (f : Flight) (e : Entry) : Prop :=
  s.AtPhase f .apply ∧ s.dueEntry f.count = some e ∧ e.addr.toNat % 64 = 0

/-- The next unit applies entry `e`, whose channel is below M (R32, R144). -/
def State.AppliesNext (s : State) (f : Flight) (e : Entry) : Prop :=
  s.ReachesEntry f e ∧ s.geo.mics ≤ 16 ∧ e.chan < s.geo.mics

/-- A run of `n` slots at `b` lies in the pool and meets no extent (R95). -/
def FreeRun (alloc : List Extent) (b n : Nat) : Prop :=
  b + n ≤ 2048 ∧ ∀ e ∈ alloc, b + n ≤ e.base ∨ e.base + e.size ≤ b

/-- Applying `e` writes zeros through the pool port (R98, R102): a reset of a configured channel, or an allocation that fits. -/
def State.WritesZeros (s : State) (e : Entry) : Prop :=
  e.chan < s.geo.mics ∧
    (e.action = .reset ∧ (s.chan e.chan).state ≠ .off ∨
      ∃ parts base, e.action = .configure parts ∧ (s.chan e.chan).state = .off ∧ firstFit s.alloc (parts * s.geo.refs) = some base)

/-- Stage 7 of channel `c` finds its eighth strike, in the state of the end of stage 1 (R85). -/
def State.EighthStrike (s : State) (f : Flight) (c : Nat) : Prop :=
  (f.ctx c).state ≠ .off ∧ (s.chan c).state = (f.ctx c).state ∧ (f.chanWork c).granted = true ∧
  (f.chanWork c).lm + 24 < (f.chanWork c).le ∧ 7 ≤ (f.ctx c).strikes

/-- S and C after the coupling and ERLE steps of stage 7 (R64, R81). -/
def State.measuresAfter (s : State) (f : Flight) (c : Nat) : Int × Int :=
  let x := f.ctx c
  let w := f.chanWork c
  (if w.eligible = true ∧ x.state.filters then x.erle + ⌊((clamp (w.lm - w.le) (-96) 240 - x.erle : Int) : ℚ) / 8⌋ else x.erle,
   if w.eligible = true
     then clamp (x.coupling + ⌊((w.lm - s.history.lx - x.coupling : Int) : ℚ) / 16⌋) (-240) 48 else x.coupling)

/-- What ABORT writes of the frame in flight: its slot's status and the done count (R176). -/
def State.abortRegions (s : State) : List (Nat × Nat) :=
  match s.flight with
  | none => []
  | some f => [(s.geo.slotOf f.count + 6, 1), (s.pageField 0x40, 4)]

/-- No transfer is in flight on channel `c`. -/
def State.NoTransferOn (s : State) (c : Nat) : Prop :=
  ∀ u, s.transfer = some u → u.chan ≠ c

/-- What the application of `e` at frame `seq` leaves beside its effect on channel, pool and queue: the entry is gone from the table and
its record completed, with the notice it asks for (R33, R145). -/
def AppliedAs (s t : State) (e : Entry) (seq : Word) (code : Code) (result : Word) : Prop :=
  t.table = s.table.erase e ∧ CompletedIn t e.addr (if e.late = true ∧ code = .ok then .late else code) seq result ∧ t.notice = (s.notice || e.notify) ∧
  KeepsBytesBut s t (completionBytes e.addr)

/-- The next unit of the block's own progress is the step of record `r`, taken as the intake's `n`th, with done count `d`, and no access
fails (R138). -/
def State.StepsRecord (s : State) (r : Record) (d : Word) (n : Nat) : Prop :=
  s.pending = [] ∧ (s.engine = .running ∨ s.engine = .stepWait) ∧ s.intake = some { done := some d, taken := n, inHand := some r } ∧ s.Quiet ∧
  r.addr.toNat % 64 = 0

/-- The intake after the step of its `n`th record: ended after the eighth (R137). -/
def intakeAfter (d : Word) (n : Nat) : Option Intake :=
  if 8 ≤ n then none else some { done := some d, taken := n, inHand := none }

end Sys2Proof.Machine
end

