-- ==== Sys2Proof/Certificates/Slice0/Obligations.lean ====
section
/-! DEFINITION. The statements for the provers. Titles, tiers, kinds and the rules they rest on stand in OBLIGATIONS.json. -/

open Sys2Proof Sys2Proof.Machine

/-! ### The step -/

/-- A step takes the first waiting command and runs its meaning on the rest. With none waiting and no work in flight the block idles
(the model's choice: notes/assumptions/3.md). -/
def Obligations.StepTakesFrontCommand : Prop :=
  (∀ (c : Instr) (rest : List Instr) (s : State), step { s with pending := c :: rest } = exec c { s with pending := rest }) ∧
  (∀ s : State, s.pending = [] → s.flight = none → s.intake = none → s.stepDue = false → step s = .next s)

/-! ### The RESET state (R185) -/

/-- R185, POWER_ON and SOFT_RESET: everything the part holds is cleared and shared memory is neither read nor written. Power-on sets XBASE
to 0; SOFT_RESET is taken in every state but RESET and keeps it. That the pool is clear as soon as RESET is entered is the model's choice:
notes/assumptions/29.md. -/
def Obligations.PowerOnAndSoftResetClear : Prop :=
  ∀ s : State,
    (∃ t, exec .powerOn s = .next t ∧ t.ClearedFrom s ∧ t.xbase = 0 ∧ t.pending = s.pending ∧ t.bus = s.bus) ∧
    (s.engine ≠ .reset →
      ∃ t, exec .softReset s = .next t ∧ t.ClearedFrom s ∧ t.xbase = s.xbase ∧ t.pending = s.pending ∧ t.bus = s.bus)

/-- R185, RESET_N and the end of the clearing: low clears as power-on does and holds the engine in RESET until the line is high; when the
clearing ends, RESET becomes HALTED and nothing else changes. That high changes the held level alone in every state, and that
RESET_CLEARING_END has no effect with the line low or outside RESET, is the model's reading: notes/assumptions/19.md. That the pool is clear
as soon as RESET is entered and the end of the clearing leaves the slots as they are, so that one upset within RESET stays upset, is the
model's choice: notes/assumptions/29.md. -/
def Obligations.ResetPinAndClearingEnd : Prop :=
  ∀ s : State,
    (∃ t, exec (.resetN .low) s = .next t ∧ t.ClearedFrom s ∧ t.xbase = 0 ∧ t.pending = s.pending ∧ t.bus = s.bus ∧
      exec .resetClearingEnd t = .next t) ∧
    exec (.resetN .high) s = .next { s with resetLow := false } ∧
    (s.engine = .reset → s.resetLow = false → exec .resetClearingEnd s = .next { s with engine := .halted }) ∧
    (s.resetLow = true ∨ s.engine ≠ .reset → exec .resetClearingEnd s = .next s)

/-! ### Registers and actions (R177, R179, R180, R184) -/

/-- R179, R184: a write to XBASE is taken in HALTED and ignored in every other state, setting last-action-ignored; a write to ESTAT, EFAULT
or EID has no effect. In FAULTED a read of EFAULT returns detail and code, clears both and enters HALTED; where no fault stands in any
other state, it returns 0 and changes nothing else. That a taken write to XBASE leaves last-action-ignored as it was is the model's
choice: notes/assumptions/20.md. -/
def Obligations.RegisterAccesses : Prop :=
  ∀ s : State,
    (∀ v, exec (.xbaseWrite v) s =
      .next (if s.engine = .halted then { s with xbase := v } else { s with ignored := true })) ∧
    (∀ r v, exec (.registerWriteNoEffect r v) s = .next s) ∧
    (s.engine = .faulted →
      exec .efaultRead s = .next { s with
        readData := s.faultDetail ++ (match s.faultCode with | .none => 0#2 | .busError => 1 | .window => 2 | .geometry => 3)
        faultCode := .none, faultDetail := 0, engine := .halted }) ∧
    (s.engine ≠ .faulted → s.faultCode = .none → s.faultDetail = 0 → exec .efaultRead s = .next { s with readData := 0 })

/-- R177, R179, R180: the fields of ESTAT, bit by bit; ACK_NOTICE is taken in every state, clears notice-pending so that NOTICE_N floats
high, and changes nothing else but last-action-ignored. That it clears that flag in RESET too is the model's choice, beside R180's
"changes nothing" there: notes/assumptions/20.md. -/
def Obligations.StatusShownAndNoticeAcknowledged : Prop :=
  ∀ s : State,
    (s.estat.extractLsb' 0 3 =
        (match s.engine with | .reset => 0#3 | .halted => 1 | .running => 2 | .stepWait => 3 | .draining => 4 | .faulted => 5) ∧
      s.estat.getLsbD 3 = s.flight.isSome ∧ s.estat.getLsbD 4 = s.tickPending ∧
      s.estat.extractLsb' 5 2 =
        (match s.transfer with | none => 0#2 | some u => match u.direction with | .capture => 1 | .restore => 2) ∧
      s.estat.getLsbD 7 = s.lock ∧ s.estat.getLsbD 8 = s.notice ∧ s.estat.getLsbD 9 = s.ignored ∧
      s.estat.extractLsb' 10 2 = (match s.stepResult with | .none => 0#2 | .processed => 1 | .noFrame => 2) ∧
      ∀ i, 12 ≤ i → s.estat.getLsbD i = false) ∧
    (∃ t, exec .ackNotice s = .next t ∧ t = { s with notice := false, ignored := false } ∧ t.noticeLine = .high)

/-- R180: an action written in a state that does not take it changes nothing but last-action-ignored, and so do a value outside 1..7 in
every state and, as a value, an action that the state does not take. -/
def Obligations.UntakenActionsAreIgnored : Prop :=
  ∀ s : State,
    (s.engine ≠ .halted →
      exec .start s = .next { s with ignored := true } ∧ exec .startStepped s = .next { s with ignored := true }) ∧
    (s.engine ≠ .stepWait ∨ s.flight.isSome = true → ∀ u, exec (.step u) s = .next { s with ignored := true }) ∧
    (s.engine ≠ .running → s.engine ≠ .stepWait → exec .halt s = .next { s with ignored := true }) ∧
    (s.engine ≠ .running → s.engine ≠ .stepWait → s.engine ≠ .draining → exec .abort s = .next { s with ignored := true }) ∧
    (s.engine = .reset → exec .softReset s = .next { s with ignored := true }) ∧
    (∀ v : Word, v.toNat < 1 ∨ 7 < v.toNat → exec (.ectlValueIgnored v) s = .next { s with ignored := true }) ∧
    (∀ v a, actionOf v = some a → s.takes a = false → exec (.ectlValueIgnored v) s = .next { s with ignored := true })

/-! ### START (R181) -/

/-- R26, R120, R165, R167, R181: a START that passes every check copies the geometry, with T_fe clamped to -400..-40, the hold to 0..64 and
T_res to -400..0 and a latency limit of 0 read as slot count - 1; sets T and D to the page's done count; clears the history, tick-pending,
the pending report counts and the step result; writes T and the four totals; has the mover begin its segment again; and enters RUNNING.
START_STEPPED enters STEP_WAIT. Everything else is kept. A restore's end that is ready is taken at once after that, at the done count just
set (R161). -/
def Obligations.StartEntersRunning : Prop :=
  ∀ s : State, s.engine = .halted → s.Quiet → s.xbase.toNat % 128 = 0 → s.page.GeometryPasses s → s.page.PointersPass s →
    (s.NoEndReady →
      ∃ t u, exec .start s = .next t ∧ exec .startStepped s = .next u ∧ StartedFrom s t .running ∧ StartedFrom s u .stepWait) ∧
    (∀ v, s.HoldsReadyEnd v →
      ∃ t t' u u', exec .start s = .next t' ∧ exec .startStepped s = .next u' ∧
        StartedFrom { s with transfer := none } t .running ∧ EndTakenFrom t t' v ∧
        StartedFrom { s with transfer := none } u .stepWait ∧ EndTakenFrom u u' v)

/-- R181, checks 2 to 8: the first that fails raises GEOMETRY with its field index, and nothing is copied. That the index stands in the
30-bit detail as a number is the model's reading: notes/assumptions/13.md. -/
def Obligations.StartGeometryFaults : Prop :=
  ∀ s : State, s.engine = .halted → s.Quiet → s.xbase.toNat % 128 = 0 →
    let p := s.page
    let slots := 2 ≤ p.nat 1 ∧ p.nat 1 ≤ 32
    let mics := 1 ≤ p.nat 3 ∧ p.nat 3 ≤ 16 ∧ ∀ c < 16, p.nat 3 ≤ c → (s.chan c).state = .off
    let refs := 1 ≤ p.nat 4 ∧ p.nat 4 ≤ 4 ∧ (s.alloc ≠ [] → p.nat 4 = s.geo.refs)
    let stride := 64 + 512 * p.nat 4 + 1024 * p.nat 3 + 64 + 32 * p.nat 3 ≤ p.nat 2 ∧ p.nat 2 % 16 = 0
    let latency := p.nat 5 ≤ p.nat 1 - 1
    let directory := p.nat 11 ≤ 16
    let window := p.nat 12 < p.nat 13
    (¬ slots → StartFaults s .geometry 1) ∧
    (slots → ¬ mics → StartFaults s .geometry 3) ∧
    (slots → mics → ¬ refs → StartFaults s .geometry 4) ∧
    (slots → mics → refs → ¬ stride → StartFaults s .geometry 2) ∧
    (slots → mics → refs → stride → ¬ latency → StartFaults s .geometry 5) ∧
    (slots → mics → refs → stride → latency → ¬ directory → StartFaults s .geometry 11) ∧
    (slots → mics → refs → stride → latency → directory → ¬ window → StartFaults s .geometry 13)

/-- R181, checks 1 and 9 to 13 and the page's read: WINDOW with the address for a misaligned page, a page, ring, directory or first
command outside the window or misaligned, and then for the first of the anchor's record, the table's records and a transfer's record and
profile slot that lies outside; BUS_ERROR with the address of the page for a read of it that fails, of a word at 0x00 to 0x34 or of the done count at 0x40. Which words are
read, that check 1 comes whatever the bus
does, and the page's read before every other check, is the model's reading: notes/assumptions/14.md. -/
def Obligations.StartPointerFaults : Prop :=
  ∀ s : State, s.engine = .halted →
    let p := s.page
    let page := p.inside s.xbase.toNat 128 = true
    let ring := p.nat 0 % 16 = 0 ∧ p.inside (p.nat 0) (p.nat 1 * p.nat 2) = true
    let directory := 0 < p.nat 11 → p.nat 10 % 16 = 0 ∧ p.inside (p.nat 10) (p.nat 11 * 16) = true
    let first := s.anchor = none → p.field 9 ≠ 0 → p.nat 9 % 64 = 0 ∧ p.inside (p.nat 9) 64 = true
    (s.xbase.toNat % 128 ≠ 0 → StartFaults s .window (s.xbase.extractLsb' 2 30)) ∧
    (s.xbase.toNat % 128 = 0 → ∀ k, k < 14 ∨ k = 16 → s.bus = [{ write := false, addr := s.xbase.toNat + 4 * k, passes := 0 }] →
      StartFaults s .busError (s.xbase.extractLsb' 2 30)) ∧
    (s.xbase.toNat % 128 = 0 → s.Quiet → p.GeometryPasses s →
      (¬ page → StartFaults s .window (s.xbase.extractLsb' 2 30)) ∧
      (page → ¬ ring → StartFaults s .window ((p.field 0).extractLsb' 2 30)) ∧
      (page → ring → ¬ directory → StartFaults s .window ((p.field 10).extractLsb' 2 30)) ∧
      (page → ring → directory → ¬ first → StartFaults s .window ((p.field 9).extractLsb' 2 30)) ∧
      (page → ring → directory → first → ∀ front back a n, s.heldStructures = front ++ (a, n) :: back →
        (∀ x ∈ front, p.inside x.1.toNat x.2 = true) → p.inside a.toNat n = false →
        StartFaults s .window (a.extractLsb' 2 30)))

/-! ### HALT and ABORT (R164, R176, R183) -/

/-- R138, R176, R180, R183: HALT clears tick-pending and enters HALTED, or DRAINING if a frame is busy; nothing else changes but
last-action-ignored and a STEP's due check. ABORT with no frame busy and no transfer in flight enters HALTED and clears tick-pending; with
a frame it also writes status ABORTED, sets D to T and writes it, and sets notice-pending if a divergence event was committed. Within an
intake, either first lets the record in hand complete its step, as the block's own progress makes it, takes no further record, and then
acts as with no intake; a fault of that step comes first, and the action is then ignored (the order of the two: notes/assumptions/24.md). -/
def Obligations.HaltAndAbortEndTheFrame : Prop :=
  (∀ s : State, (s.engine = .running ∨ s.engine = .stepWait) → s.intake = none →
    exec .halt s =
      .next { s with ignored := false, tickPending := false, stepDue := false,
                     engine := if s.flight.isSome then .draining else .halted }) ∧
  (∀ s : State, (s.engine = .running ∨ s.engine = .stepWait ∨ s.engine = .draining) → s.Quiet → s.intake = none →
    s.transfer = none → s.xbase.toNat % 128 = 0 →
    (s.flight = none →
      exec .abort s = .next { s with ignored := false, tickPending := false, stepDue := false, engine := .halted }) ∧
    (∀ f, s.flight = some f → Apart (s.geo.slotOf f.count + 6) 1 (s.pageField 0x40) 4 →
      ∃ t, exec .abort s = .next t ∧
        t = { s with ignored := false, tickPending := false, stepDue := false, engine := .halted, flight := none, done := s.taken,
                     notice := s.notice || f.event, mem := t.mem } ∧
        readByte t.mem (s.geo.slotOf f.count + 6) = 3 ∧ memWord t.mem (s.pageField 0x40) = s.taken ∧
        KeepsBytesBut s t [(s.geo.slotOf f.count + 6, 1), (s.pageField 0x40, 4)])) ∧
  (∀ (s : State) (i : Intake), (s.engine = .running ∨ s.engine = .stepWait) → s.intake = some i →
    (i.inHand = none →
      exec .halt s = exec .halt { s with intake := none } ∧ exec .abort s = exec .abort { s with intake := none }) ∧
    (∀ r t, i.inHand = some r → execIdle s = .next t →
      (t.engine ≠ .faulted →
        exec .halt s = exec .halt { t with intake := none } ∧ exec .abort s = exec .abort { t with intake := none }) ∧
      (t.engine = .faulted → exec .halt s = .next { t with ignored := true } ∧ exec .abort s = .next { t with ignored := true })))

/-- R164, R166, R176, R183: ABORT with a transfer in flight ends the frame in flight, if there is one (status ABORTED, D set to T), and then
the transfer, whose record completes ABORTED with the progress reached at the done count as it then stands: a capture with header INVALID
and its flag clear, a restore by clearing its channel to ACQUIRE at the head of the queue with its extent zeroed. Nothing else changes. -/
def Obligations.AbortEndsTheTransfer : Prop :=
  ∀ (s : State) (u : Transfer), (s.engine = .running ∨ s.engine = .stepWait ∨ s.engine = .draining) → s.Quiet →
    s.intake = none → s.transfer = some u → u.chan < 16 → u.cmd.toNat % 64 = 0 → s.xbase.toNat % 128 = 0 →
    (∀ f, s.flight = some f → Apart (s.geo.slotOf f.count + 6) 1 (s.pageField 0x40) 4) →
    (∀ r ∈ s.abortRegions, Apart r.1 r.2 u.cmd.toNat 64) →
    let d := if s.flight.isSome then s.taken else s.done
    let event := match s.flight with
      | none => false
      | some f => f.event
    let ended := fun t : State =>
      exec .abort s = .next t ∧
      t = { s with ignored := false, tickPending := false, stepDue := false, engine := .halted, flight := none, transfer := none,
                   done := d, notice := s.notice || event || u.notify, channels := t.channels, pool := t.pool, queue := t.queue,
                   mem := t.mem } ∧
      CompletedIn t u.cmd .aborted d (BitVec.ofNat 32 u.progress) ∧ (∀ c, c ≠ u.chan → t.chan c = s.chan c) ∧
      (∀ f, s.flight = some f → readByte t.mem (s.geo.slotOf f.count + 6) = 3 ∧ memWord t.mem (s.pageField 0x40) = s.taken)
    (u.direction = .capture → Apart u.slotAddr.toNat 4 u.cmd.toNat 64 → u.slotAddr.toNat % 64 = 0 →
      (∀ r ∈ s.abortRegions, Apart r.1 r.2 u.slotAddr.toNat 4) →
      ∃ t, ended t ∧ t.chan u.chan = { s.chan u.chan with capture := false } ∧ memWord t.mem u.slotAddr.toNat = 3 ∧
        t.pool = s.pool ∧ t.queue = s.queue ∧
        KeepsBytesBut s t (s.abortRegions ++ (u.slotAddr.toNat, 4) :: completionBytes u.cmd)) ∧
    (u.direction = .restore →
      ∃ t, ended t ∧ t.chan u.chan = { s.chan u.chan with
          state := .acquire, prior := none, erle := 0, coupling := -80, hang := 0, dwell := 0, strikes := 0, divergences := [],
          parity := 0, atten := 0, capture := false } ∧
        t.queue = u.chan :: s.queue.filter (fun c => decide (c ≠ u.chan)) ∧
        (∀ i, t.slot i = if (s.extent u.chan).base ≤ i ∧ i < (s.extent u.chan).base + (s.extent u.chan).size then Slot.zero
          else s.slot i) ∧
        KeepsBytesBut s t (s.abortRegions ++ completionBytes u.cmd))

/-! ### Ticks and cycle checks (R170 to R173) -/

/-- R137, R170, R171: a tick outside RUNNING is ignored. In RUNNING with no frame busy and F at or before D the tick is idle: the idle total
and the pending idle count rise, and the total is written, whatever the order of its intake and its check. A tick that finds the cycle busy
sets tick-pending, or counts an overload if it is set already. Each brings its intake; one that comes while an intake is in progress leaves
that intake as it is. -/
def Obligations.TickIdleOrBusy : Prop :=
  ∀ s : State,
    (s.engine ≠ .running → ∀ timing, exec (.blktick timing) s = .next s) ∧
    (s.engine = .running → s.flight = none → s.Quiet → s.NoEndReady → s.xbase.toNat % 128 = 0 → signedDiff s.fillCount s.done ≤ 0 →
      let idles := fun (r t : State) =>
        t = { r with idleTotal := s.idleTotal + 1, pendIdle := min 255 (s.pendIdle + 1), mem := t.mem } ∧
        memWord t.mem (s.pageField 0x44) = s.idleTotal + 1 ∧ KeepsBytesBut s t [(s.pageField 0x44, 4)]
      (∃ t, exec (.blktick justBegun) s = .next t ∧ idles { s with intake := some s.broughtIntake } t) ∧
      (s.ChainEmpty → ∀ plan, ∃ t, exec (.blktick { plan := plan, finish := true }) s = .next t ∧ idles s t)) ∧
    (s.engine = .running → s.flight.isSome = true → s.tickPending = false →
      exec (.blktick justBegun) s = .next { s with tickPending := true, intake := some s.broughtIntake }) ∧
    (s.engine = .running → s.flight.isSome = true → s.tickPending = true → s.Quiet → s.xbase.toNat % 128 = 0 →
      ∃ t, exec (.blktick justBegun) s = .next t ∧
        t = { s with overloadTotal := s.overloadTotal + 1, pendOverload := min 255 (s.pendOverload + 1),
                     intake := some s.broughtIntake, mem := t.mem } ∧
        memWord t.mem (s.pageField 0x48) = s.overloadTotal + 1 ∧ KeepsBytesBut s t [(s.pageField 0x48, 4)])

/-- R20, R22, R34, R137, R138, R171, R173: with 0 < F - D at most L, the tick sets T to D + 1 and writes it. A header whose sequence is D puts
the frame in flight at stage 1, its gap field capped at 64. Another sequence is a mismatch: a gap push of one block with its counts, status
MISMATCH, D + 1, the notice the header asks for, and no frame busy. An intake in progress stays as it is. Every tick in RUNNING makes the
units of its plan in their order, each as the block's own progress makes it: with no frame busy those of its intake, then the check (at the
plan's first unit of the frame, or at its end), and after that one unit more of either party for each further unit of the plan; a tick that
finishes goes on with the intake and then with the stages, up to 32 and 16384 units. Plans and bounds are the model's choice:
notes/assumptions/3.md. -/
def Obligations.TickTakesTheFrame : Prop :=
  (∀ s : State, s.engine = .running → s.flight = none → s.Quiet → s.NoEndReady → s.xbase.toNat % 128 = 0 →
    0 < signedDiff s.fillCount s.done → signedDiff s.fillCount s.done ≤ s.geo.latency →
    let slot := s.geo.slotOf s.done
    (Apart slot 8 (s.pageField 0x3C) 4 → memWord s.mem slot = s.done →
      ∃ t, exec (.blktick justBegun) s = .next t ∧ { s with intake := some s.broughtIntake }.TakesFrame t false) ∧
    (Apart slot 8 s.xbase.toNat 128 → memWord s.mem slot ≠ s.done →
      ∃ t, exec (.blktick justBegun) s = .next t ∧ { s with intake := some s.broughtIntake }.FindsMismatch t false)) ∧
  ∀ s : State, s.pending = [] → s.engine = .running →
    let planned := fun plan => exec (.blktick { plan := plan, finish := false }) s
    (s.flight = none → ∃ m : Nat → State, m 0 = { s with intake := some s.broughtIntake } ∧
      ∀ k, (m k).Makes .intake (m (k + 1)) ∧
        ∃ t, (m k).Checks t ∧ planned (List.replicate k .intake) = .next t ∧ planned (List.replicate k .intake ++ [.frame]) = .next t) ∧
    (∀ plan, s.flight.isSome = true ∨ .frame ∈ plan → ∀ m, planned plan = .next m → ∀ p,
      ∃ t, m.Makes p t ∧ planned (plan ++ [p]) = .next t) ∧
    (∀ plan, exec (.blktick { plan := plan, finish := true }) s =
      planned (plan ++ List.replicate 32 .intake ++
        List.replicate (if s.flight.isSome = true ∨ .frame ∈ plan then 16384 else 16385) .frame))

/-- R20 to R22, R137, R171 to R173: with F - D above L the oldest F - D - L frames are dropped: T, D and the drop total advance by that number,
the history is gap-pushed by at most 64 blocks, which the gap total and the pending count take up. The same check then takes the next frame,
which is in flight, or a mismatch with its own gap push and counts. An intake in progress stays as it is. (How a tick with another plan goes
on, TickTakesTheFrame says.) -/
def Obligations.TickDropsTheBacklog : Prop :=
  ∀ s : State, s.engine = .running → s.flight = none → s.Quiet → s.NoEndReady → s.xbase.toNat % 128 = 0 →
    (s.geo.latency : Int) < signedDiff s.fillCount s.done →
    let d := (signedDiff s.fillCount s.done - s.geo.latency).toNat
    let n := s.done + BitVec.ofNat 32 d
    Apart (s.geo.slotOf n) 8 s.xbase.toNat 128 →
    ∃ m t, exec (.blktick justBegun) s = .next t ∧ { s with intake := some s.broughtIntake }.DropsFrames m d ∧
      (memWord s.mem (s.geo.slotOf n) = n → m.TakesFrame t false) ∧ (memWord s.mem (s.geo.slotOf n) ≠ n → m.FindsMismatch t false)

/-- R138, R171 to R173, R182: a STEP clears the step result and begins an intake, its cycle check being due; as a unit of its own the check
follows the intake. With F at or before D the result is NO_FRAME and no count rises. A backlog above L is dropped and counted as in RUNNING;
then the frame with the count D is in flight and the step result stays NONE, or it is a mismatch with its gap push and counts, and the
result is NO_FRAME. A STEP whose units are not bounded before it, and whose chain is empty, does all of this within itself. Each unit more of
its bound is one unit more of the block's own progress, through the intake, the check and stage 8, and no bound is 16417 units (its units
are the model's: notes/assumptions/3.md). That a STEP written within an earlier one's intake leaves that intake as it is, and that one written
with an earlier one's check still due makes one check for both, are the model's choices: notes/assumptions/39.md. -/
def Obligations.StepMakesOneCheck : Prop :=
  ∀ s : State, s.engine = .stepWait → s.flight = none →
    exec (.step (some 0)) s =
      .next { s with ignored := false, stepResult := .none, stepDue := true, intake := some s.broughtIntake } ∧
    (s.pending = [] →
      (∀ n m, exec (.step (some n)) s = .next m →
        let goesOn := m.intake.isSome = true ∨
          (match m.flight with
          | some f => f.phase.stagesEnded = false
          | none => m.stepDue = true)
        (goesOn → exec (.step (some (n + 1))) s = step m) ∧ (¬ goesOn → exec (.step (some (n + 1))) s = .next m)) ∧
      exec (.step none) s = exec (.step (some 16417)) s) ∧
    (s.Quiet → s.NoEndReady → s.xbase.toNat % 128 = 0 →
      let b := signedDiff s.fillCount s.done
      let d := (b - s.geo.latency).toNat
      let n := s.done + BitVec.ofNat 32 d
      let taking := fun (r t : State) => ∃ m, (if (s.geo.latency : Int) < b then r.DropsFrames m d else m = r) ∧
        (memWord s.mem (s.geo.slotOf n) = n → m.TakesFrame t true) ∧ (memWord s.mem (s.geo.slotOf n) ≠ n → m.FindsMismatch t true)
      let clear := Apart (s.geo.slotOf n) 8 s.xbase.toNat 128 ∨
        b ≤ s.geo.latency ∧ memWord s.mem (s.geo.slotOf n) = n ∧ Apart (s.geo.slotOf n) 8 (s.pageField 0x3C) 4
      (s.ChainEmpty →
        (b ≤ 0 → ∀ u, (∀ k, u = some k → 2 ≤ k) →
          exec (.step u) s = .next { s with ignored := false, stepResult := .noFrame, stepDue := false }) ∧
        (0 < b → clear →
          (∃ t, exec (.step (some 2)) s = .next t ∧ taking { s with ignored := false, stepResult := .none, stepDue := false } t) ∧
          (memWord s.mem (s.geo.slotOf n) ≠ n → ∀ u, (∀ k, u = some k → 2 ≤ k) → exec (.step u) s = exec (.step (some 2)) s))) ∧
      (s.pending = [] → s.intake = none → s.stepDue = true →
        (b ≤ 0 → step s = .next { s with stepResult := .noFrame, stepDue := false }) ∧
        (0 < b → clear → ∃ t, step s = .next t ∧ taking { s with stepDue := false } t)))

/-! ### The end of a frame cycle (R170, R174, R182, R183) -/

/-- R161, R170, R174, R182, R183: the command first makes the units of the stages and of the write-back that are left before the done count,
each as the block's own progress makes it: that is the model's choice, notes/assumptions/3.md. Steps 4 and 5 of R174 then close the frame: D
becomes D + 1 and is written, notice-pending is set if the header or a divergence event asks, and a frame begun by STEP gives PROCESSED. A
drained frame leaves HALTED, and a restore's end that is ready waits; in RUNNING and STEP_WAIT it is taken now. With tick-pending set in
RUNNING the flag is cleared and one check follows, made as that of a tick that finds no cycle busy; with F at or before the new D it is idle.
Each unit more of the command's bound is one unit more of the stages of the frame the check has taken. -/
def Obligations.FrameCycleEnds : Prop :=
  (∀ (s t : State) (n : Nat), s.pending = [] → s.frameWorks = true → s.intake = none → n ≤ 16384 → s.ReachesCount n t → ∀ u,
    exec (.frameCycleEnd u) s = exec (.frameCycleEnd u) t) ∧
  ∀ (s : State) (f : Flight), s.frameWorks = true → s.flight = some f → f.phase = .count → s.Quiet → s.xbase.toNat % 128 = 0 →
    let closes := fun (r t : State) =>
      t = { r with done := s.done + 1, flight := none, notice := s.notice || (f.notify || f.event),
                   stepResult := if f.byStep then .processed else s.stepResult, mem := t.mem } ∧
      memWord t.mem (s.pageField 0x40) = s.done + 1 ∧ KeepsBytesBut s t [(s.pageField 0x40, 4)]
    (s.engine = .draining → ∀ u, ∃ t, exec (.frameCycleEnd u) s = .next { t with engine := .halted } ∧ closes s t) ∧
    (s.engine ≠ .draining → s.tickPending = false →
      (s.NoEndReady → ∀ u, ∃ t, exec (.frameCycleEnd u) s = .next t ∧ closes s t) ∧
      (∀ v, s.HoldsReadyEnd v → ∀ u, ∃ t t',
        exec (.frameCycleEnd u) s = .next t' ∧ closes { s with transfer := none } t ∧ EndTakenFrom t t' v)) ∧
    (s.pending = [] → (∀ n m, exec (.frameCycleEnd (some n)) s = .next m →
      ∃ t, m.Makes .frame t ∧ exec (.frameCycleEnd (some (n + 1))) s = .next t) ∧
      exec (.frameCycleEnd none) s = exec (.frameCycleEnd (some 16384)) s) ∧
    (s.engine = .running → s.tickPending = true →
      (∃ t x, closes s t ∧ exec (.blktick justBegun) { t with tickPending := false } = .next x ∧
        exec (.frameCycleEnd (some 0)) s = .next { x with intake := s.intake }) ∧
      (s.NoEndReady → signedDiff s.fillCount (s.done + 1) ≤ 0 → ∀ u,
        ∃ t, exec (.frameCycleEnd u) s = .next t ∧
          t = { s with done := s.done + 1, flight := none, notice := s.notice || (f.notify || f.event),
                       stepResult := if f.byStep then .processed else s.stepResult, tickPending := false,
                       idleTotal := s.idleTotal + 1, pendIdle := min 255 (s.pendIdle + 1), mem := t.mem } ∧
          memWord t.mem (s.pageField 0x40) = s.done + 1 ∧ memWord t.mem (s.pageField 0x44) = s.idleTotal + 1 ∧
          KeepsBytesBut s t [(s.pageField 0x40, 8)]))

/-- R3, R128 to R131, R169, R174, R175, R178: write-back step 1 writes the output block of a channel word by word, sign-extended; step 2 writes the
report part and the records of channels 0..M-1, field by field at their offsets, unused bytes zero, and the four pending report counts are
then 0. A channel that was in OFF at the end of stage 1 has state OFF, its Lm, Lout equal to it, Ly and Le -480, its clipped flag and zeros
elsewhere. Step 3 writes status DONE. Nothing else of shared memory changes. The regions of a slot stand at the places of R169. That the parity count is read as the record is written, and
that the bits of a flag byte that belong to no flag are zero, are the model's choices: notes/assumptions/30.md and 42.md. -/
def Obligations.FrameWrittenBack : Prop :=
  (∀ (g : Geometry) (n : Word) (i : Nat),
    g.slotOf n = g.ringBase.toNat + n.toNat % g.slotCount * g.stride ∧ g.refBlock n i = g.slotOf n + 64 + 512 * i ∧
    g.micBlock n i = g.slotOf n + 64 + 512 * g.refs + 512 * i ∧
    g.outBlock n i = g.slotOf n + 64 + 512 * g.refs + 512 * g.mics + 512 * i ∧
    g.reportPart n = g.slotOf n + 64 + 512 * g.refs + 512 * g.mics + 512 * g.mics) ∧
  ∀ (s : State) (f : Flight),
    (∀ c, s.AtPhase f (.output c) → (f.chanWork c).out.length = 128 → s.geo.outBlock f.count c + 512 ≤ 4294967296 →
      ∃ t, step s = .next t ∧
        t = { s with flight := some (f.at (if c + 1 < s.geo.mics then .output (c + 1) else .report)), mem := t.mem } ∧
        (∀ n < 128, memWord t.mem (s.geo.outBlock f.count c + 4 * n) = BitVec.ofInt 32 ((f.chanWork c).out.getD n 0)) ∧
        KeepsBytesBut s t [(s.geo.outBlock f.count c, 512)]) ∧
    (s.AtPhase f .report → s.geo.reportPart f.count + 64 + 32 * s.geo.mics ≤ 4294967296 →
      let p := s.geo.reportPart f.count
      ∃ t, step s = .next t ∧
        t = { s with flight := some (f.at .status), pendIdle := 0, pendOverload := 0, pendDropped := 0, pendGap := 0,
                     mem := t.mem } ∧
        (memWord t.mem p = f.count ∧ readByte t.mem (p + 4) = BitVec.ofNat 8 s.pendIdle ∧
          readByte t.mem (p + 5) = BitVec.ofNat 8 s.pendOverload ∧ readByte t.mem (p + 6) = BitVec.ofNat 8 s.pendDropped ∧
          readByte t.mem (p + 7) = BitVec.ofNat 8 s.pendGap ∧
          (∀ r : Fin 4, memHalf t.mem (p + 8 + 2 * r.val) =
            BitVec.ofInt 16 (if r.val < s.geo.refs then s.history.levels[r] else -480)) ∧
          (∀ r < 8, (readByte t.mem (p + 0x10)).getLsbD r = f.refClips.getD r false) ∧
          readByte t.mem (p + 0x11) = (if s.history.farActive then 1 else 0) ∧
          memHalf t.mem (p + 0x12) = BitVec.ofInt 16 s.history.lx ∧ memHalf t.mem (p + 0x14) = BitVec.ofNat 16 f.cost ∧
          memHalf t.mem (p + 0x16) = BitVec.ofNat 16 f.units ∧ ∀ i < 40, readByte t.mem (p + 0x18 + i) = 0) ∧
        (∀ c < s.geo.mics,
          let q := p + 64 + 32 * c
          let w := f.chanWork c
          let x := s.chan c
          ((f.ctx c).state = .off →
            readByte t.mem q = 0 ∧ readByte t.mem (q + 1) = (if w.clipped then 32 else 0) ∧
            readByte t.mem (q + 2) = 0 ∧ readByte t.mem (q + 3) = 0 ∧ memHalf t.mem (q + 4) = BitVec.ofInt 16 w.lm ∧
            memHalf t.mem (q + 6) = BitVec.ofInt 16 (-480) ∧ memHalf t.mem (q + 8) = BitVec.ofInt 16 (-480) ∧
            memHalf t.mem (q + 10) = BitVec.ofInt 16 w.lm ∧ ∀ i < 20, readByte t.mem (q + 12 + i) = 0) ∧
          ((f.ctx c).state ≠ .off →
            readByte t.mem q =
              (match x.state with | .off => 0 | .acquire => 1 | .track => 2 | .held => 3 | .restoring => 4 | .suspended => 5) ∧
            (∀ i < 8, (readByte t.mem (q + 1)).getLsbD i =
              [w.granted, w.eligible, w.nearEnd, w.deferred, w.parity, w.clipped].getD i false) ∧
            readByte t.mem (q + 2) = BitVec.ofNat 8 x.strikes ∧ readByte t.mem (q + 3) = 0 ∧
            (∀ i < 7, memHalf t.mem (q + 4 + 2 * i) =
              BitVec.ofInt 16 ([w.lm, w.ly, w.le, w.lout, x.erle, x.coupling, x.atten].getD i 0)) ∧
            memHalf t.mem (q + 0x12) = BitVec.ofNat 16 x.parity ∧ ∀ i < 12, readByte t.mem (q + 0x14 + i) = 0)) ∧
        KeepsBytesBut s t [(p, 64 + 32 * s.geo.mics)]) ∧
    (s.AtPhase f .status →
      ∃ t, step s = .next t ∧ t = { s with flight := some (f.at .count), mem := t.mem } ∧
        readByte t.mem (s.geo.slotOf f.count + 6) = 1 ∧ KeepsBytesBut s t [(s.geo.slotOf f.count + 6, 1)])

/-! ### The profile mover (R158 to R166) -/

/-- R156, R158, R166: a segment of a capture copies its slots, part by part, into the data area, writes the new progress into moved, and
changes nothing else. The last one then leaves VALID in the header, the capture flag clear, the mover idle and the record complete, OK or
LATE with the slots copied, at the done count as it stands. The engine does not ask for the port, and no segment is begun. -/
def Obligations.CaptureSegmentCopies : Prop :=
  ∀ (s : State) (u : Transfer), s.MovesSegment u → u.direction = .capture →
    let n := min 8 (u.copy - u.progress)
    let slotAt := fun j => s.slot ((s.extent u.chan).base + (u.progress + j))
    let data := u.slotAddr.toNat + 64 + u.progress * 1032
    let copied := fun t : State =>
      (∀ j < n, ∀ i < 258, memWord t.mem (data + j * 1032 + 4 * i) = (slotAt j).parts.getD i 0) ∧
      memWord t.mem (u.slotAddr.toNat + 0x10) = BitVec.ofNat 32 (u.progress + n)
    0 < n → u.slotAddr.toNat + 64 + u.copy * 1032 ≤ 4294967296 →
    (∀ j < n, (slotAt j).bad = 0#258 ∧ (slotAt j).parts.length = 258) →
    (u.progress + n < u.copy →
      ∃ t, exec .captureSegment s = .next t ∧
        t = { s with transfer := some { u with progress := u.progress + n }, mem := t.mem } ∧ copied t ∧
        KeepsBytesBut s t [(u.slotAddr.toNat + 0x10, 4), (data, n * 1032)]) ∧
    (u.progress + n = u.copy → u.fill = 0 → u.chan < 16 → u.cmd.toNat % 64 = 0 →
      Apart u.slotAddr.toNat (64 + u.copy * 1032) u.cmd.toNat 64 →
      ∃ t, exec .captureSegment s = .next t ∧
        t = { s with transfer := none, channels := t.channels, notice := s.notice || u.notify, mem := t.mem } ∧ copied t ∧
        t.chan u.chan = { s.chan u.chan with capture := false } ∧ (∀ c, c ≠ u.chan → t.chan c = s.chan c) ∧
        memWord t.mem u.slotAddr.toNat = 2 ∧
        CompletedIn t u.cmd (if u.late then .late else .ok) s.done (BitVec.ofNat 32 u.copy) ∧
        KeepsBytesBut s t
          ([(u.slotAddr.toNat, 4), (u.slotAddr.toNat + 0x10, 4), (data, n * 1032)] ++ completionBytes u.cmd))

/-- R92, R163: the first capture read of a segment that fails parity, at any of its slots, zeroes that slot, raises the channel's parity count
by 1, at most 65535, and ends the capture DATA_ERROR with the slot's index in the extent: header INVALID, flag clear, mover idle, and no
data of the segment written. A frame in flight notes it, so that its walk passes the channel over (R93, by notes/assumptions/28.md). -/
def Obligations.CaptureParityFailure : Prop :=
  ∀ (s : State) (u : Transfer) (j : Nat), s.MovesSegment u → u.direction = .capture → u.chan < 16 →
    let slotAt := fun j => s.slot ((s.extent u.chan).base + (u.progress + j))
    j < min 8 (u.copy - u.progress) → (∀ k < j, (slotAt k).bad = 0#258) → (slotAt j).bad ≠ 0#258 →
    u.cmd.toNat % 64 = 0 → u.slotAddr.toNat % 64 = 0 → Apart u.slotAddr.toNat 4 u.cmd.toNat 64 →
    ∃ t, exec .captureSegment s = .next t ∧
      t = { s with transfer := none, channels := t.channels, pool := t.pool, notice := s.notice || u.notify, mem := t.mem,
                   flight := s.flight.map (fun f => { f with failedCaptures := u.chan :: f.failedCaptures }) } ∧
      t.chan u.chan = { s.chan u.chan with capture := false, parity := min 65535 ((s.chan u.chan).parity + 1) } ∧
      (∀ c, c ≠ u.chan → t.chan c = s.chan c) ∧
      (∀ i, t.slot i = if i = (s.extent u.chan).base + (u.progress + j) then Slot.zero else s.slot i) ∧
      memWord t.mem u.slotAddr.toNat = 3 ∧ CompletedIn t u.cmd .dataError s.done (BitVec.ofNat 32 (u.progress + j)) ∧
      KeepsBytesBut s t ((u.slotAddr.toNat, 4) :: completionBytes u.cmd)

/-- R156, R160: a segment of a restore's copy writes the profile's parts into the extent at the same indices, the imaginary parts of bins 0
and 128 zero, every part in agreement with its parity; a segment of its fill writes zeros. Nothing else changes but the progress. The
engine does not ask for the port, and no segment is begun. -/
def Obligations.RestoreSegmentWrites : Prop :=
  ∀ (s : State) (u : Transfer), s.MovesSegment u → u.direction = .restore →
    let base := (s.extent u.chan).base
    let n := if u.progress < u.copy then min 8 (u.copy - u.progress) else min 8 (u.copy + u.fill - u.progress)
    ∃ t, exec .restoreSegment s = .next t ∧
      t = { s with transfer := some { u with progress := u.progress + n }, pool := t.pool } ∧
      (∀ i, i < base + u.progress ∨ base + u.progress + n ≤ i → t.slot i = s.slot i) ∧
      (∀ j < n,
        (t.slot (base + u.progress + j)).bad = 0#258 ∧
        ∀ i < 258, (t.slot (base + u.progress + j)).parts.getD i 0 =
          if u.copy ≤ u.progress ∨ i = 1 ∨ i = 257 then 0#32
          else memWord s.mem (u.slotAddr.toNat + 64 + (u.progress + j) * 1032 + 4 * i))

/-- R104 to R106, R156, R165: one access of the mover. A capture read and a restore write wait while the engine goes from one access of a
stage to the next; in stage 1 it does so where the next due entry writes zeros too. A capture reads its segment's slots, then writes each
to the data area, then the progress into moved; a write of moved that fails raises BUS_ERROR and is alone made again, and the progress
rises with it. A restore reads its segment's data, then writes each slot; the last write completes the segment. The accesses to shared
memory do not wait. That all reads come before the writes, each in rising order, and that the failed write of moved leaves its bytes as
they were, are the model's choices: notes/assumptions/10.md and 4.md. -/
def Obligations.MoverAccessesOneByOne : Prop :=
  (∀ (s : State) (f : Flight), s.flight = some f →
    (s.engineAsks = true ↔ f.asks = true ∧ (f.phase = .apply → ∃ e, s.dueEntry f.count = some e ∧ s.WritesZeros e))) ∧
  ∀ (s : State) (u : Transfer) (rest : List Nat), s.MovesOnce u rest →
    let n := if u.progress < u.copy then min 8 (u.copy - u.progress) else min 8 (u.copy + u.fill - u.progress)
    let base := (s.extent u.chan).base + u.progress
    let after := { u with progress := u.progress + n, read := [], written := 0, moveDue := false }
    0 < n →
    (u.direction = .capture →
      (u.moveDue = false → u.read.length < n →
        (s.engineAsks = true → exec .captureSegment s = .next { s with grants := rest }) ∧
        (s.engineAsks = false → (s.slot (base + u.read.length)).bad = 0#258 →
          exec .captureSegment s = .next { s with
            grants := rest, transfer := some { u with read := u.read ++ [(s.slot (base + u.read.length)).parts] } })) ∧
      (s.Quiet → u.moveDue = false → n ≤ u.read.length → u.written < n →
        u.slotAddr.toNat + 64 + u.copy * 1032 ≤ 4294967296 → (u.read.getD u.written []).length = 258 → u.progress + u.written < u.copy →
        ∃ t, exec .captureSegment s = .next t ∧
          t = { s with grants := rest, transfer := some { u with written := u.written + 1 }, mem := t.mem } ∧
          (∀ i < 258, memWord t.mem (u.slotAddr.toNat + 64 + (u.progress + u.written) * 1032 + 4 * i) =
            (u.read.getD u.written []).getD i 0) ∧
          KeepsBytesBut s t [(u.slotAddr.toNat + 64 + (u.progress + u.written) * 1032, 1032)]) ∧
      (u.moveDue = true ∨ n ≤ u.read.length ∧ n ≤ u.written → u.slotAddr.toNat % 64 = 0 →
        (s.Quiet →
          ∃ t, exec .captureSegment s = .next t ∧ t = { s with grants := rest, transfer := some after, mem := t.mem } ∧
            memWord t.mem (u.slotAddr.toNat + 0x10) = BitVec.ofNat 32 (u.progress + n) ∧
            KeepsBytesBut s t [(u.slotAddr.toNat + 0x10, 4)]) ∧
        (s.bus = [{ write := true, addr := u.slotAddr.toNat + 0x10, passes := 0 }] →
          exec .captureSegment s = .next { s with
            grants := rest, transfer := some { u with moveDue := true }, engine := .faulted, faultCode := .busError,
            faultDetail := (u.slotAddr + 0x10).extractLsb' 2 30, notice := true, flight := none, intake := none,
            stepDue := false }))) ∧
    (u.direction = .restore →
      (s.Quiet → u.progress < u.copy → u.read.length < n →
        exec .restoreSegment s = .next { s with
          grants := rest
          transfer := some { u with read := u.read ++ [(List.range 258).map (fun i =>
            memWord s.mem (u.slotAddr.toNat + 64 + (u.progress + u.read.length) * 1032 + 4 * i))] } }) ∧
      (u.copy ≤ u.progress ∨ n ≤ u.read.length →
        (s.engineAsks = true → exec .restoreSegment s = .next { s with grants := rest }) ∧
        (s.engineAsks = false →
          ∃ t, exec .restoreSegment s = .next t ∧
            t = { s with grants := rest, pool := t.pool,
                         transfer := some (if u.written + 1 < n then { u with written := u.written + 1 } else after) } ∧
            (∀ i, t.slot i = if i = base + u.written then
                { parts := if u.progress < u.copy then ((u.read.getD u.written []).set 1 0).set 257 0 else List.replicate 258 0,
                  bad := 0 }
              else s.slot i))))

/-- R71, R161, R166: a restore's end that is ready is taken with no frame in flight, or with one that stands between two stages, after stage 1
and before the walk: the channel enters TRACK with the header's S and C and h, strikes and dwell 0, at the tail of the queue; the record
completes with the profile's P and fitted; the mover is idle. In the middle of a stage, in stage 1, after the walk and outside RUNNING and
STEP_WAIT the end waits. A tick whose check comes first, and the check of a STEP, find it taken. That it waits in stage 1, which points
count as between two stages, and that a check takes it first, is the model's reading: notes/assumptions/17.md. -/
def Obligations.RestoreEndTaken : Prop :=
  ∀ (s : State) (u : Transfer), s.Quiet → s.HoldsReadyEnd u →
    let between := fun f : Flight => f.phase = .push ∨ f.phase = .estimate 0 ∨ f.phase = .decide ∨ f.phase = .walk
    (s.engine = .running ∨ s.engine = .stepWait →
      (s.flight = none ∨ (∃ f, s.flight = some f ∧ between f) → ∃ t, exec .restoreEnd s = .next t ∧ EndTakenFrom s t u) ∧
      (∀ f, s.flight = some f → ¬ between f → exec .restoreEnd s = .next s)) ∧
    (s.engine ≠ .running → s.engine ≠ .stepWait → exec .restoreEnd s = .next s) ∧
    (s.flight = none →
      (∀ timing : TickTiming, s.engine = .running → timing = justBegun ∨ (∃ rest, timing.plan = .frame :: rest) →
        ∃ t, EndTakenFrom s t u ∧ exec (.blktick timing) s = exec (.blktick timing) t) ∧
      (s.engine = .stepWait → s.pending = [] → s.intake = none → s.stepDue = true →
        ∃ t, EndTakenFrom s t u ∧ step s = step t))

/-! ### The storage (R91, R92) -/

/-- R91, R92: an upset changes one slot alone and makes its next read fail: zeros are delivered and the slot is zeroed within the read, so
that the read after it passes. That every upset fails the next read, one to the value that stands and a second of the same part included, is
the model's choice: notes/assumptions/16.md. -/
def Obligations.UpsetFailsTheNextRead : Prop :=
  ∀ (s : State) (slot part : Nat) (v : Word), slot < 2048 → part < 258 →
    ∃ t u, exec (.storageUpset slot part v) s = .next t ∧ t = { s with pool := t.pool } ∧
      (∀ i, i ≠ slot → t.slot i = s.slot i) ∧
      readSlot slot t = .ok (Slot.zero.parts, true) u ∧ u = { s with pool := u.pool } ∧
      (∀ i, u.slot i = if i = slot then Slot.zero else s.slot i) ∧
      readSlot slot u = .ok (Slot.zero.parts, false) u

/-! ### Actions applied at stage 1 (R32, R33, R73 to R80) -/

/-- R77, R78: FREEZE holds a channel in ACQUIRE or TRACK, which leaves the queue, with dwell 0 and its prior state recorded; THAW returns a
held channel to it, at the head in ACQUIRE and at the tail in TRACK. FREEZE in HELD and THAW in ACQUIRE or TRACK change nothing. All complete
OK with the state after application. In RESTORING and SUSPENDED either completes BAD_STATE with the state and changes nothing. -/
def Obligations.FreezeAndThawApplied : Prop :=
  ∀ (s : State) (f : Flight) (e : Entry), s.AppliesNext f e →
    let x := s.chan e.chan
    let unchanged := fun (code : Code) =>
      ∃ t, step s = .next t ∧
        t = { s with table := t.table, mem := t.mem, notice := t.notice, flight := some { f with asks := false } } ∧
        AppliedAs s t e f.count code (stateNumber x.state)
    (∀ p, e.action = .freeze → (x.state = .acquire ∧ p = .acquire) ∨ (x.state = .track ∧ p = .track) →
      ∃ t, step s = .next t ∧
        t = { s with table := t.table, channels := t.channels, mem := t.mem, notice := t.notice,
                     flight := some { f with asks := false }, queue := s.queue.filter (fun d => decide (d ≠ e.chan)) } ∧
        t.chan e.chan = { x with state := .held, prior := some p, dwell := 0 } ∧
        (∀ c, c ≠ e.chan → t.chan c = s.chan c) ∧ AppliedAs s t e f.count .ok 3) ∧
    (∀ p, e.action = .thaw → x.state = .held → x.prior = some p →
      let st := if p = .track then ChanState.track else ChanState.acquire
      ∃ t, step s = .next t ∧
        t = { s with table := t.table, channels := t.channels, mem := t.mem, notice := t.notice,
                     flight := some { f with asks := false },
                     queue := if p = .track then s.queue.filter (fun d => decide (d ≠ e.chan)) ++ [e.chan]
                       else e.chan :: s.queue.filter (fun d => decide (d ≠ e.chan)) } ∧
        t.chan e.chan = { x with state := st, prior := none } ∧
        (∀ c, c ≠ e.chan → t.chan c = s.chan c) ∧ AppliedAs s t e f.count .ok (stateNumber st)) ∧
    (e.action = .freeze ∧ x.state = .held ∨ e.action = .thaw ∧ (x.state = .acquire ∨ x.state = .track) → unchanged .ok) ∧
    (e.action = .freeze ∨ e.action = .thaw → x.state = .restoring ∨ x.state = .suspended → unchanged .badState)

/-- R67, R69, R73, R96 to R99: CONFIGURE_CHANNEL from OFF takes the lowest gap that fits, zeroes it and enters ACQUIRE with the values of R69
and the default tuning at the head of the queue; without such a gap it completes NO_ROOM with the free total or FRAGMENTED with the largest gap and changes nothing. -/
def Obligations.ConfigureFromOff : Prop :=
  ∀ (s : State) (f : Flight) (e : Entry) (parts : Nat), s.AppliesNext f e → e.action = .configure parts →
    (s.chan e.chan).state = .off →
    let size := parts * s.geo.refs
    (∀ base, firstFit s.alloc size = some base →
      ∃ t, step s = .next t ∧
        t = { s with table := t.table, channels := t.channels, mem := t.mem, notice := t.notice, pool := t.pool,
                     flight := some { f with asks := true, failedCaptures := f.failedCaptures.filter (fun d => decide (d ≠ e.chan)) }, alloc := insertExtent { chan := e.chan, base := base, size := size } s.alloc,
                     queue := e.chan :: s.queue.filter (fun d => decide (d ≠ e.chan)) } ∧
        t.chan e.chan =
          { state := .acquire, prior := none, parts := parts, window := { mode := .all, n := 0, complement := false },
            tuning :=
              { muAcq := 16384, muTrk := 4096, tConv := 80, dConv := 50, dRecheck := 100, mDt := 12, hang := 25, floor := -120,
                attack := 8, release := 2 },
            erle := 0, coupling := -80, hang := 0, dwell := 0, strikes := 0, divergences := [], parity := 0, atten := 0,
            capture := false } ∧
        (∀ c, c ≠ e.chan → t.chan c = s.chan c) ∧
        (∀ i, t.slot i = if base ≤ i ∧ i < base + size then Slot.zero else s.slot i) ∧
        AppliedAs s t e f.count .ok (BitVec.ofNat 16 size ++ BitVec.ofNat 16 base)) ∧
    (firstFit s.alloc size = none →
      ∃ t, step s = .next t ∧ t = { s with table := t.table, mem := t.mem, notice := t.notice, flight := some { f with asks := false } } ∧
        (freeTotal s.alloc < size → AppliedAs s t e f.count .noRoom (BitVec.ofNat 32 (freeTotal s.alloc))) ∧
        (size ≤ freeTotal s.alloc → AppliedAs s t e f.count .fragmented (BitVec.ofNat 32 (largestGap s.alloc))))

/-- R74, R100: CONFIGURE_CHANNEL of a configured channel completes OK with no change at equal P, GROW_REFUSED at a larger one, BAD_STATE at a
smaller one in RESTORING; at a smaller one in any other state, with no transfer on the channel, it shortens the extent in place and
clamps the window's n, and no slot is written. -/
def Obligations.ConfigureOfAConfiguredChannel : Prop :=
  ∀ (s : State) (f : Flight) (e : Entry) (parts : Nat), s.AppliesNext f e → e.action = .configure parts →
    (s.chan e.chan).state ≠ .off →
    let x := s.extent e.chan
    let own := (s.chan e.chan).parts
    let same := BitVec.ofNat 16 x.size ++ BitVec.ofNat 16 x.base
    (own ≤ parts ∨ (s.chan e.chan).state = .restoring →
      ∃ t, step s = .next t ∧ t = { s with table := t.table, mem := t.mem, notice := t.notice, flight := some { f with asks := false } } ∧
        AppliedAs s t e f.count (if parts = own then .ok else if own < parts then .growRefused else .badState) same) ∧
    (parts < own → (s.chan e.chan).state ≠ .restoring → s.NoTransferOn e.chan → x ∈ s.alloc →
      ∃ t, step s = .next t ∧
        t = { s with table := t.table, channels := t.channels, mem := t.mem, notice := t.notice, alloc := t.alloc,
                     flight := some { f with asks := false } } ∧
        t.chan e.chan = { s.chan e.chan with
          parts := parts, window := { (s.chan e.chan).window with n := min (s.chan e.chan).window.n parts } } ∧
        (∀ c, c ≠ e.chan → t.chan c = s.chan c) ∧
        t.extent e.chan = { x with size := parts * s.geo.refs } ∧ (∀ c, c ≠ e.chan → t.extent c = s.extent c) ∧
        AppliedAs s t e f.count .ok (BitVec.ofNat 16 (parts * s.geo.refs) ++ BitVec.ofNat 16 x.base))

/-- R69, R75, R76, R101, R102: of a configured channel with no transfer on it, RELEASE_CHANNEL puts it in OFF, frees its extent and takes it
out of the queue, no slot being written; RESET_CHANNEL zeroes every slot of its extent and gives it the cleared values in ACQUIRE at the
head of the queue, P, the window and the tuning kept. -/
def Obligations.ReleaseAndResetApplied : Prop :=
  ∀ (s : State) (f : Flight) (e : Entry), s.AppliesNext f e → (s.chan e.chan).state ≠ .off → s.NoTransferOn e.chan →
    let x := s.extent e.chan
    (e.action = .release →
      ∃ t, step s = .next t ∧
        t = { s with table := t.table, channels := t.channels, mem := t.mem, notice := t.notice,
                     flight := some { f with asks := false }, alloc := s.alloc.filter (fun x => decide (x.chan ≠ e.chan)),
                     queue := s.queue.filter (fun d => decide (d ≠ e.chan)) } ∧
        (t.chan e.chan).state = .off ∧ (∀ c, c ≠ e.chan → t.chan c = s.chan c) ∧
        AppliedAs s t e f.count .ok (BitVec.ofNat 16 x.size ++ BitVec.ofNat 16 x.base)) ∧
    (e.action = .reset →
      ∃ t, step s = .next t ∧
        t = { s with table := t.table, channels := t.channels, mem := t.mem, notice := t.notice, pool := t.pool,
                     flight := some { f with asks := true, failedCaptures := f.failedCaptures.filter (fun d => decide (d ≠ e.chan)) }, queue := e.chan :: s.queue.filter (fun d => decide (d ≠ e.chan)) } ∧
        t.chan e.chan = { s.chan e.chan with
          state := .acquire, prior := none, erle := 0, coupling := -80, hang := 0, dwell := 0, strikes := 0, divergences := [],
          parity := 0, atten := 0, capture := false } ∧
        (∀ c, c ≠ e.chan → t.chan c = s.chan c) ∧
        (∀ i, t.slot i = if x.base ≤ i ∧ i < x.base + x.size then Slot.zero else s.slot i) ∧
        AppliedAs s t e f.count .ok (BitVec.ofNat 32 x.size))

/-- R103, R162, R163, R166: a RELEASE_CHANNEL or RESET_CHANNEL of a channel with a capture or a restore in flight, and a shrink of one with a
capture, first ends the transfer ABORTED with the progress reached, at the done count as it stands: a capture's header INVALID and its
flag clear, the mover idle. Then the application acts and completes, as without a transfer. -/
def Obligations.TransferEndedByApplication : Prop :=
  ∀ (s : State) (f : Flight) (e : Entry) (u : Transfer), s.AppliesNext f e → s.transfer = some u → u.chan = e.chan →
    (s.chan e.chan).state ≠ .off → u.cmd.toNat % 64 = 0 → u.cmd ≠ e.addr →
    (u.direction = .capture →
      u.slotAddr.toNat % 64 = 0 ∧ Apart u.slotAddr.toNat 4 u.cmd.toNat 64 ∧ Apart u.slotAddr.toNat 4 e.addr.toNat 64) →
    let ctx := s.chan e.chan
    let x := s.extent e.chan
    let ended := fun (t : State) (result : Word) =>
      (u.direction = .capture → memWord t.mem u.slotAddr.toNat = 3) ∧
      CompletedIn t u.cmd .aborted s.done (BitVec.ofNat 32 u.progress) ∧ CompletedIn t e.addr (if e.late then .late else .ok) f.count result ∧
      t.table = s.table.erase e ∧ t.notice = (s.notice || u.notify || e.notify) ∧ (∀ c, c ≠ e.chan → t.chan c = s.chan c) ∧
      KeepsBytesBut s t ((if u.direction = .capture then [(u.slotAddr.toNat, 4)] else []) ++ completionBytes u.cmd ++
        completionBytes e.addr)
    (e.action = .release →
      ∃ t, step s = .next t ∧ ended t (BitVec.ofNat 16 x.size ++ BitVec.ofNat 16 x.base) ∧ (t.chan e.chan).state = .off ∧
        t = { s with transfer := none, table := t.table, channels := t.channels, mem := t.mem, notice := t.notice,
                     flight := some { f with asks := false }, alloc := s.alloc.filter (fun x => decide (x.chan ≠ e.chan)),
                     queue := s.queue.filter (fun d => decide (d ≠ e.chan)) }) ∧
    (e.action = .reset →
      ∃ t, step s = .next t ∧ ended t (BitVec.ofNat 32 x.size) ∧
        t.chan e.chan = { ctx with
          state := .acquire, prior := none, erle := 0, coupling := -80, hang := 0, dwell := 0, strikes := 0, divergences := [],
          parity := 0, atten := 0, capture := false } ∧
        (∀ i, t.slot i = if x.base ≤ i ∧ i < x.base + x.size then Slot.zero else s.slot i) ∧
        t = { s with transfer := none, table := t.table, channels := t.channels, mem := t.mem, notice := t.notice, pool := t.pool,
                     flight := some { f with asks := true, failedCaptures := f.failedCaptures.filter (fun d => decide (d ≠ e.chan)) }, queue := e.chan :: s.queue.filter (fun d => decide (d ≠ e.chan)) }) ∧
    (∀ parts, e.action = .configure parts → u.direction = .capture → parts < ctx.parts → ctx.state ≠ .restoring → x ∈ s.alloc →
      ∃ t, step s = .next t ∧ ended t (BitVec.ofNat 16 (parts * s.geo.refs) ++ BitVec.ofNat 16 x.base) ∧
        t.chan e.chan = { ctx with capture := false, parts := parts, window := { ctx.window with n := min ctx.window.n parts } } ∧
        t.extent e.chan = { x with size := parts * s.geo.refs } ∧ (∀ c, c ≠ e.chan → t.extent c = s.extent c) ∧
        t = { s with transfer := none, table := t.table, channels := t.channels, mem := t.mem, notice := t.notice,
                     flight := some { f with asks := false }, alloc := t.alloc })

/-- R46, R47, R60, R79, R151: SET_WINDOW of a configured channel replaces the window with n clamped to P, and its result is that n and the
adapting count of the new window. SET_TUNING gives field i the value values[i] where bit i of the mask is set and keeps it elsewhere, and
lowers h to a new H below it; it completes RANGE with 4 and changes nothing if the merged mu_trk is above the merged mu_acq. The adapting
set of a window is all partitions under ALL, the first n under HEAD, the last n under TAIL, or the others if complemented. -/
def Obligations.WindowAndTuningApplied : Prop :=
  (∀ (ctx : Channel) (p : Nat),
    p ∈ ctx.adaptingSet ↔ p < ctx.parts ∧
      (match ctx.window.mode with
        | .all => ctx.window.complement = false
        | .head => p < ctx.window.n ↔ ctx.window.complement = false
        | .tail => ctx.parts - ctx.window.n ≤ p ↔ ctx.window.complement = false)) ∧
  ∀ (s : State) (f : Flight) (e : Entry), s.AppliesNext f e → (s.chan e.chan).state ≠ .off →
    let ctx := s.chan e.chan
    (∀ w, e.action = .setWindow w →
      let n := min w.n ctx.parts
      let a := match w.mode with
        | .all => if w.complement then 0 else ctx.parts
        | .head => if w.complement then ctx.parts - n else n
        | .tail => if w.complement then ctx.parts - n else n
      ∃ t, step s = .next t ∧
        t = { s with table := t.table, channels := t.channels, mem := t.mem, notice := t.notice,
                       flight := some { f with asks := false } } ∧
        t.chan e.chan = { ctx with window := { w with n := n } } ∧ (∀ c, c ≠ e.chan → t.chan c = s.chan c) ∧
        AppliedAs s t e f.count .ok (BitVec.ofNat 16 a ++ BitVec.ofNat 16 n)) ∧
    (∀ mask values, e.action = .setTuning mask values →
      let o := ctx.tuning
      let field := fun (i : Nat) (old : Int) => if mask.getLsbD i then values.getD i 0 else old
      let new : Tuning :=
        { muAcq := field 0 o.muAcq, muTrk := field 1 o.muTrk, tConv := field 2 o.tConv, dConv := field 3 o.dConv,
          dRecheck := field 4 o.dRecheck, mDt := field 5 o.mDt, hang := field 6 o.hang, floor := field 7 o.floor,
          attack := field 8 o.attack, release := field 9 o.release }
      (new.muTrk ≤ new.muAcq →
        ∃ t, step s = .next t ∧
          t = { s with table := t.table, channels := t.channels, mem := t.mem, notice := t.notice,
                       flight := some { f with asks := false } } ∧
          t.chan e.chan = { ctx with tuning := new, hang := min ctx.hang new.hang.toNat } ∧
          (∀ c, c ≠ e.chan → t.chan c = s.chan c) ∧ AppliedAs s t e f.count .ok 0) ∧
      (new.muAcq < new.muTrk →
        ∃ t, step s = .next t ∧ t = { s with table := t.table, mem := t.mem, notice := t.notice, flight := some { f with asks := false } } ∧
          AppliedAs s t e f.count .range 4))

/-- R32, R36, R75 to R79, R108, R144, R150: a RELEASE_CHANNEL, RESET_CHANNEL, FREEZE, THAW, SET_WINDOW or SET_TUNING of a channel in OFF
completes BAD_STATE with 0 and changes nothing; an entry of any kind whose channel is M or above completes BAD_CHANNEL with the channel and
changes nothing. With no due entry left, stage 1 ends: the contexts are those of the frame from here on, and its filter cost is the sum of
P x R over the channels in ACQUIRE, TRACK and HELD. That a due whose signed difference from the frame count says so waits or is applied,
where R144 has it otherwise after a START that moved D by about 2^31, is the model's choice: notes/assumptions/41.md. The entry taken up is
the first in table order whose due is at or before the frame's count, and there is none where every due is after it. -/
def Obligations.StageOneRefusesAndEnds : Prop :=
  (∀ (s : State) (n : Word),
    (∀ e, s.dueEntry n = some e ↔ 0 ≤ (n - e.due).toInt ∧
      ∃ front back, s.table = front ++ e :: back ∧ ∀ x ∈ front, (n - x.due).toInt < 0) ∧
    (s.dueEntry n = none ↔ ∀ x ∈ s.table, (n - x.due).toInt < 0)) ∧
  (∀ (s : State) (f : Flight) (e : Entry), s.ReachesEntry f e →
    let refused := fun (code : Code) (result : Word) =>
      ∃ t, step s = .next t ∧
        t = { s with table := t.table, mem := t.mem, notice := t.notice, flight := some { f with asks := false } } ∧
        AppliedAs s t e f.count code result
    (e.chan < s.geo.mics → s.geo.mics ≤ 16 → (s.chan e.chan).state = .off →
      e.action = .release ∨ e.action = .reset ∨ e.action = .freeze ∨ e.action = .thaw ∨ (∃ w, e.action = .setWindow w) ∨
        (∃ mask values, e.action = .setTuning mask values) → refused .badState 0) ∧
    (s.geo.mics ≤ e.chan → refused .badChannel (BitVec.ofNat 32 e.chan))) ∧
  (∀ (s : State) (f : Flight), s.AtPhase f .apply → s.dueEntry f.count = none →
    step s = .next { s with flight := some { f with
      phase := .push, asks := false, start := s.channels,
      cost := ((List.range 16).map (fun c =>
        if (s.chan c).state = .acquire ∨ (s.chan c).state = .track ∨ (s.chan c).state = .held
          then (s.chan c).parts * s.geo.refs else 0)).sum } })

/-- R157, R158: a CAPTURE_PROFILE whose directory entry is valid, with the lock clear, the entry OPEN, room enough, the mover idle and the
channel in ACQUIRE, TRACK or HELD, writes the header, sets the capture flag and starts the transfer; its record is not completed. -/
def Obligations.CaptureStarts : Prop :=
  ∀ (s : State) (f : Flight) (e : Entry) (index : Nat), s.AppliesNext f e → e.action = .capture index →
    let entry := s.geo.dirAddr.toNat + 16 * index
    let slot := memWord s.mem entry
    let capacity := (memWord s.mem (entry + 4)).toNat
    let ctx := s.chan e.chan
    index < s.geo.dirCount → slot.toNat % 64 = 0 → s.inside slot.toNat (64 + capacity * 1032) = true → s.lock = false →
    memWord s.mem (entry + 8) = 0 → ctx.parts * s.geo.refs ≤ capacity → s.transfer = none → ctx.state.filters = true →
    ∃ t, step s = .next t ∧
      t = { s with table := s.table.erase e, channels := t.channels, mem := t.mem, flight := some { f with asks := false },
                   transfer := some
                     { direction := .capture, chan := e.chan, index := index, slotAddr := slot, capacity := capacity,
                       copy := ctx.parts * s.geo.refs, fill := 0, progress := 0, fitted := false, cmd := e.addr, late := e.late,
                       notify := e.notify, parts := ctx.parts, erle := ctx.erle, coupling := ctx.coupling } } ∧
      t.chan e.chan = { ctx with capture := true } ∧ (∀ c, c ≠ e.chan → t.chan c = s.chan c) ∧
      memWord t.mem slot.toNat = 1 ∧
      memWord t.mem (slot.toNat + 4) = BitVec.ofNat 16 s.geo.refs ++ BitVec.ofNat 16 ctx.parts ∧
      memWord t.mem (slot.toNat + 8) = BitVec.ofInt 16 ctx.coupling ++ BitVec.ofInt 16 ctx.erle ∧
      memWord t.mem (slot.toNat + 12) = f.count ∧ (∀ i < 12, memWord t.mem (slot.toNat + 16 + 4 * i) = 0) ∧
      KeepsBytesBut s t [(slot.toNat, 64)]

/-- R159, R160: a RESTORE_PROFILE of a usable profile of the same R, with the mover idle and the channel in ACQUIRE, TRACK or HELD, puts the
channel in RESTORING with no prior state and dwell 0, out of the queue, and starts the transfer with the header's S and C clamped; its
record is not completed. -/
def Obligations.RestoreStarts : Prop :=
  ∀ (s : State) (f : Flight) (e : Entry) (index : Nat), s.AppliesNext f e → e.action = .restore index →
    let entry := s.geo.dirAddr.toNat + 16 * index
    let slot := memWord s.mem entry
    let capacity := (memWord s.mem (entry + 4)).toNat
    let saved := halfOf (memWord s.mem (slot.toNat + 4)) 0
    let refs := halfOf (memWord s.mem (slot.toNat + 4)) 1
    let measures := memWord s.mem (slot.toNat + 8)
    let own := (s.chan e.chan).parts
    index < s.geo.dirCount → slot.toNat % 64 = 0 → s.inside slot.toNat (64 + capacity * 1032) = true → s.transfer = none →
    (s.chan e.chan).state.filters = true → memWord s.mem slot.toNat = 2 → 4 ≤ saved → saved ≤ 64 → saved * refs ≤ capacity →
    refs = s.geo.refs →
    ∃ t, step s = .next t ∧
      t = { s with table := s.table.erase e, channels := t.channels, flight := some { f with asks := false },
                   queue := s.queue.filter (fun d => decide (d ≠ e.chan)),
                   transfer := some
                     { direction := .restore, chan := e.chan, index := index, slotAddr := slot, capacity := capacity,
                       copy := min saved own * s.geo.refs, fill := (own - saved) * s.geo.refs, progress := 0,
                       fitted := decide (saved ≠ own), cmd := e.addr, late := e.late, notify := e.notify, parts := saved,
                       erle := clamp (signedHalfOf measures 0) (-96) 240,
                       coupling := clamp (signedHalfOf measures 1) (-240) 48 } } ∧
      t.chan e.chan = { s.chan e.chan with state := .restoring, prior := none, dwell := 0 } ∧
      (∀ c, c ≠ e.chan → t.chan c = s.chan c)

/-- R153, R157, R159: the refusals of a capture and of a restore, each by the first check that fails, with its code and result and no other
effect: BAD_SLOT, LOCKED, PROTECTED, TOO_SMALL (not of a channel in OFF), BUSY and BAD_STATE of a capture; BAD_SLOT, BUSY, BAD_STATE,
NO_PROFILE and MISMATCH of a restore. A restore of the channel itself in flight is not BUSY but BAD_STATE. -/
def Obligations.ProfileCommandRefused : Prop :=
  ∀ (s : State) (f : Flight) (e : Entry) (index : Nat), s.AppliesNext f e →
    let entry := s.geo.dirAddr.toNat + 16 * index
    let slot := memWord s.mem entry
    let capacity := (memWord s.mem (entry + 4)).toNat
    let valid := index < s.geo.dirCount ∧ slot.toNat % 64 = 0 ∧ s.inside slot.toNat (64 + capacity * 1032) = true
    let ctx := s.chan e.chan
    let size := ctx.parts * s.geo.refs
    let own := fun u : Transfer => u.direction = .restore ∧ u.chan = e.chan
    let free := ∀ u, s.transfer = some u → own u
    let fits := ctx.state = .off ∨ size ≤ capacity
    let validity := memWord s.mem slot.toNat
    let saved := halfOf (memWord s.mem (slot.toNat + 4)) 0
    let refs := halfOf (memWord s.mem (slot.toNat + 4)) 1
    let usable := validity = 2 ∧ 4 ≤ saved ∧ saved ≤ 64 ∧ saved * refs ≤ capacity
    let refused := fun (code : Code) (result : Word) =>
      ∃ t, step s = .next t ∧
        t = { s with table := t.table, mem := t.mem, notice := t.notice, flight := some { f with asks := false } } ∧
        AppliedAs s t e f.count code result
    (e.action = .capture index →
      (¬ valid → refused .badSlot (BitVec.ofNat 32 index)) ∧
      (valid → s.lock = true → refused .locked 0) ∧
      (valid → s.lock = false → memWord s.mem (entry + 8) ≠ 0 → refused .protected_ (BitVec.ofNat 32 index)) ∧
      (valid → s.lock = false → memWord s.mem (entry + 8) = 0 →
        (¬ fits → refused .tooSmall (BitVec.ofNat 32 size)) ∧
        (fits → ∀ u, s.transfer = some u → ¬ own u → refused .busy (BitVec.ofNat 32 u.chan)) ∧
        (fits → free → ctx.state.filters = false → refused .badState (stateNumber ctx.state)))) ∧
    (e.action = .restore index →
      (¬ valid → refused .badSlot (BitVec.ofNat 32 index)) ∧
      (valid → ∀ u, s.transfer = some u → ¬ own u → refused .busy (BitVec.ofNat 32 u.chan)) ∧
      (valid → free → ctx.state.filters = false → refused .badState (stateNumber ctx.state)) ∧
      (valid → free → ctx.state.filters = true →
        (¬ usable → refused .noProfile validity) ∧
        (usable → refs ≠ s.geo.refs → refused .mismatch (BitVec.ofNat 32 refs))))

/-! ### The command intake (R134 to R152) -/

/-- R134 to R136, R138, R184: the look of an intake, its first too, which alone reads the done count D for the
intake. Its candidate is the first command while there is no anchor and else the anchor's next. An address of 0, or a record that is not
POSTED, ends the intake. A nonzero candidate that is not a multiple of 64 or not inside the window raises WINDOW with its address: FAULTED,
notice-pending set, the work in flight stopped. A POSTED record is read, TAKEN is written into it, it becomes the anchor, and its step is
next. -/
def Obligations.LookTakesOrFaults : Prop :=
  ∀ (s : State) (read : Option Word) (n : Nat), s.pending = [] → (s.engine = .running ∨ s.engine = .stepWait) → s.Quiet →
    s.intake = some { done := read, taken := n, inHand := none } →
    let d := read.getD s.done
    let a := match s.anchor with
      | none => s.geo.firstCmd
      | some b => memWord s.mem b.toNat
    let sound := a.toNat % 64 = 0 ∧ s.inside a.toNat 64 = true
    (a = 0 ∨ (sound ∧ readByte s.mem (a.toNat + 4) ≠ 1) → step s = .next { s with intake := none }) ∧
    (a ≠ 0 → ¬ sound →
      step s = .next { s with engine := .faulted, faultCode := .window, faultDetail := a.extractLsb' 2 30, notice := true,
                              flight := none, intake := none, stepDue := false }) ∧
    (a ≠ 0 → sound → readByte s.mem (a.toNat + 4) = 1 →
      ∃ t r, step s = .next t ∧
        t = { s with anchor := some a, intake := some { done := some d, taken := n + 1, inHand := some r }, mem := t.mem } ∧
        r.addr = a ∧ r.next = memWord s.mem a.toNat ∧ r.kind = readByte s.mem (a.toNat + 5) ∧
        r.chan = readByte s.mem (a.toNat + 6) ∧ r.duePresent = (readByte s.mem (a.toNat + 7)).getLsbD 0 ∧
        r.notify = (readByte s.mem (a.toNat + 7)).getLsbD 1 ∧ r.due = memWord s.mem (a.toNat + 8) ∧
        (∀ i < 28, r.params.getD i 0 = readByte s.mem (a.toNat + 12 + i)) ∧
        readByte t.mem (a.toNat + 4) = 2 ∧ KeepsBytesBut s t [(a.toNat + 4, 1)])

/-- R139 to R143, R178: a record of a filed kind with parameters in range, for a channel below M, whose due is absent or not too far ahead, is
filed when the table has room, as the action its kind and parameters stand for: its due is its own, or D if it is absent or past, the
latter with the late flag; it stands after every entry whose due is at or before its own, and the entry behind it has a due after its own
(where dues about 2^31 apart leave no better place: notes/assumptions/32.md). -/
def Obligations.RecordFiledInOrder : Prop :=
  ∀ (s : State) (r : Record) (d : Word) (n : Nat) (action : Action), s.StepsRecord r d n → r.StandsFor action →
    r.chan.toNat < s.geo.mics → (r.duePresent = true → signedDiff r.due d < 1048576) → s.table.length < 8 →
    ∃ t e front back, step s = .next t ∧ t = { s with table := t.table, intake := intakeAfter d n } ∧
      e = { addr := r.addr, action := action, chan := r.chan.toNat,
            due := if r.duePresent = true ∧ 0 ≤ signedDiff r.due d then r.due else d,
            late := r.duePresent && decide (signedDiff r.due d < 0), notify := r.notify } ∧
      s.table = front ++ back ∧ t.table = front ++ e :: back ∧ (∀ x ∈ front, atOrBefore x.due e.due = true) ∧
      (∀ x, back.head? = some x → atOrBefore x.due e.due = false)

/-- R139, R141, R142, R178: the refusals of intake, each by the first check that fails, with its code and result and no entry filed: BAD_KIND
with the kind, BAD_CHANNEL with the channel, RANGE with a due too far ahead, RANGE with the offset of the first parameter out of range, and
TABLE_FULL with the due of the first entry. The place of the test of mu_trk against mu_acq is the model's: notes/assumptions/15.md. -/
def Obligations.RecordRefused : Prop :=
  ∀ (s : State) (r : Record) (d : Word) (n : Nat), s.StepsRecord r d n →
    let refused := fun (code : Code) (result : Word) =>
      ∃ t, step s = .next t ∧ t = { s with intake := intakeAfter d n, notice := s.notice || r.notify, mem := t.mem } ∧
        CompletedIn t r.addr code d result ∧ KeepsBytesBut s t (completionBytes r.addr)
    let kind := r.kind.toNat
    let byte := fun i => (r.params.getD i 0).toNat
    let far := r.duePresent = true ∧ 1048576 ≤ signedDiff r.due d
    (kind = 0 ∨ 12 ≤ kind → refused .badKind (BitVec.ofNat 32 kind)) ∧
    (1 ≤ kind → kind ≤ 9 →
      (s.geo.mics ≤ r.chan.toNat → refused .badChannel (BitVec.ofNat 32 r.chan.toNat)) ∧
      (r.chan.toNat < s.geo.mics → far → refused .range r.due) ∧
      (r.chan.toNat < s.geo.mics → ¬ far →
        (kind = 1 → byte 0 < 4 ∨ 64 < byte 0 → refused .range 0) ∧
        (kind = 6 → 3 ≤ byte 0 → refused .range 0) ∧
        (kind = 6 → byte 0 < 3 → 64 < byte 1 → refused .range 1) ∧
        (kind = 6 → byte 0 < 3 → byte 1 ≤ 64 → 2 ≤ byte 2 → refused .range 2) ∧
        (kind = 7 → 4 ≤ byte 1 → refused .range 0) ∧
        (kind = 7 → byte 1 < 4 → ∀ i < 10, r.TuningFails i → (∀ k < i, ¬ r.TuningFails k) →
          refused .range (BitVec.ofNat 32 (2 + 2 * i))) ∧
        (kind = 8 ∨ kind = 9 → 15 < byte 0 → refused .range 0) ∧
        (∀ action e back, r.StandsFor action → s.table = e :: back → 8 ≤ s.table.length → refused .tableFull e.due)))

/-- R148, R152: a CANCEL whose target is in the table completes the target CANCELLED, removes the first such entry and completes OK with its
due; else it completes NOT_FOUND and the table stays. A LOCK_PROFILES sets the lock and completes OK with what the lock was. -/
def Obligations.CancelAndLockComplete : Prop :=
  ∀ (s : State) (r : Record) (d : Word) (n : Nat), s.StepsRecord r d n →
    (∀ e, r.kind = 10 → s.table.find? (fun x => decide (x.addr = r.target)) = some e → e.addr.toNat % 64 = 0 → e.addr ≠ r.addr →
      ∃ t, step s = .next t ∧
        t = { s with table := s.table.erase e, intake := intakeAfter d n, notice := s.notice || e.notify || r.notify,
                     mem := t.mem } ∧
        CompletedIn t e.addr .cancelled d 0 ∧ CompletedIn t r.addr .ok d e.due ∧
        KeepsBytesBut s t (completionBytes e.addr ++ completionBytes r.addr)) ∧
    (r.kind = 10 → s.table.find? (fun x => decide (x.addr = r.target)) = none →
      ∃ t, step s = .next t ∧ t = { s with intake := intakeAfter d n, notice := s.notice || r.notify, mem := t.mem } ∧
        CompletedIn t r.addr .notFound d 0 ∧ KeepsBytesBut s t (completionBytes r.addr)) ∧
    (r.kind = 11 →
      ∃ t, step s = .next t ∧
        t = { s with lock := true, intake := intakeAfter d n, notice := s.notice || r.notify, mem := t.mem } ∧
        CompletedIn t r.addr .ok d (if s.lock then 1 else 0) ∧ KeepsBytesBut s t (completionBytes r.addr))

/-! ### Chapter 1 (R9, R13, R15) -/

/-- R9: the level of an energy of at most 2^53 is the largest k in -480..0 with E at or above E_ref x 10^(k/40), and -480 where there is
none; the level of a block of samples is that of the sum of their squares, which is at most 2^53, and is 0 only when every sample is
-8,388,608. -/
def Obligations.LevelIsTheFloor : Prop :=
  (∀ e : Nat, e ≤ 2 ^ 53 →
    -480 ≤ levelOfEnergy e ∧ levelOfEnergy e ≤ 0 ∧
    ∀ k : Int, -480 < k → k ≤ 0 → (k ≤ levelOfEnergy e ↔ (2 : ℝ) ^ 53 * (10 : ℝ) ^ ((k : ℝ) / 40) ≤ (e : ℝ))) ∧
  (∀ block : List Int, block.length = 128 → (∀ x ∈ block, -8388608 ≤ x ∧ x ≤ 8388607) →
    level block = levelOfEnergy (energy block) ∧ (energy block : Int) = (block.map (fun x => x * x)).sum ∧
    energy block ≤ 2 ^ 53 ∧ (level block = 0 ↔ ∀ x ∈ block, x = -8388608))

/-- R15: the gain of an attenuation in -160..0 is min(32767, round(32768 x 10^(A/80))), halves rounded up as for a positive value in R4;
it never decreases as A rises. -/
def Obligations.GainIsRounded : Prop :=
  (∀ a : Int, -160 ≤ a → a ≤ 0 →
    (gain a : Int) = min 32767 ⌊(32768 : ℝ) * (10 : ℝ) ^ ((a : ℝ) / 80) + 1 / 2⌋) ∧
  (∀ a b : Int, -160 ≤ a → a ≤ b → b ≤ 0 → gain a ≤ gain b)

/-- R13: the four properties of the smoothing step. -/
def Obligations.SmoothingStep : Prop :=
  ∀ v t d : Int, 0 < d →
    smooth v t d = v + ⌊((t : ℚ) - v) / d⌋ ∧
    (min v t ≤ smooth v t d ∧ smooth v t d ≤ max v t) ∧
    (t = v → smooth v t d = v) ∧
    (t < v → smooth v t d ≤ v - 1) ∧
    (t < v → ∃ n : Nat, (fun x => smooth x t d)^[n] v = t) ∧
    (v < t → t - v < d → smooth v t d = v)

/-! ### The frame's stages (chapters 2, 4, 5, 7, 8) -/

/-- R1, R2, R18 to R22, R25 to R27, R29: stage 2 is one update: the header's gap push, if there is one, with its counts, then the push of each
reference's last block and new block as one spectrum, the oldest one leaving; the new block becomes the last block, its level is
measured, and Lx, the hold and the far end are decided. A gap total that rose is then written. That the header's gap push with its counts is
part of the one update, and that the gap total is written after it, is the model's reading: notes/assumptions/11.md. -/
def Obligations.ProcessedPush : Prop :=
  ∀ (s : State) (f : Flight), s.AtPhase f .push → s.geo.refs ≤ 4 → s.xbase.toNat % 128 = 0 →
    let k := min f.gap 64
    let blockWord := fun r i => memWord s.mem (s.geo.refBlock f.count r + 4 * i)
    let sample := fun w : Word => max (-8388608) (min 8388607 w.toInt)
    let clamped := fun w : Word => decide (w.toInt < -8388608 ∨ 8388607 < w.toInt)
    let block := fun r => (List.range 128).map (fun i => sample (blockWord r i))
    ∃ t, ∃ mid : History, step s = .next t ∧
      t = { s with history := t.history, gapTotal := s.gapTotal + BitVec.ofNat 32 k,
                   pendGap := if k = 0 then s.pendGap else min 255 (s.pendGap + k), free := s.free + k + 1,
                   flight := some { f with refClips := (List.range s.geo.refs).map (fun r =>
                     (List.range 128).any (fun i => clamped (blockWord r i))), phase := .estimate 0 }, mem := t.mem } ∧
      (k = 0 → t.mem = s.mem) ∧
      (k ≠ 0 → memWord t.mem (s.pageField 0x50) = s.gapTotal + BitVec.ofNat 32 k ∧ KeepsBytesBut s t [(s.pageField 0x50, 4)]) ∧
      GapPushed s.history mid s.geo.refs k ∧
      (∀ r : Fin 4, r.val < s.geo.refs →
        t.history.rings[r] = (spectrumOf (mid.last[r] ++ block r) :: mid.rings[r]).take 64 ∧
        t.history.last[r] = block r ∧ t.history.levels[r] = level (block r) ∧ level (block r) ≤ t.history.lx) ∧
      (∀ r : Fin 4, s.geo.refs ≤ r.val →
        t.history.rings[r] = s.history.rings[r] ∧ t.history.last[r] = s.history.last[r] ∧
        t.history.levels[r] = s.history.levels[r]) ∧
      (0 < s.geo.refs → ∃ r < s.geo.refs, t.history.lx = max (-480) (level (block r))) ∧
      t.history.hold =
        (if s.geo.tFe ≤ t.history.lx then s.geo.farHold else if 0 < s.history.hold then s.history.hold - 1 else 0) ∧
      t.history.farActive = (decide (s.geo.tFe ≤ t.history.lx) || decide (0 < t.history.hold))

/-- R23: the reference power step of stage 2. After the steps of the header's gap push, each bin's power moves a sixteenth of the way to P_k,
the sum over the references of the squared magnitude of the exact transform's bin, within a relative 2^-24 of that step (chapter 3,
"Reference power") but for the width of the model's cosines, below 2^-30 here (notes/assumptions/8.md). It is never negative. -/
def Obligations.ReferencePowerStepped : Prop :=
  ∀ (s : State) (f : Flight), s.AtPhase f .push → s.geo.refs ≤ 4 → s.history.power.length = 129 →
    (∀ b < 129, 0 ≤ s.history.power.getD b 0) → (∀ r : Fin 4, SampleBlock 128 s.history.last[r]) →
    let k := min f.gap 64
    let sample := fun w : Word => max (-8388608) (min 8388607 w.toInt)
    let block := fun r => (List.range 128).map (fun i => sample (memWord s.mem (s.geo.refBlock f.count r + 4 * i)))
    let before := fun r => if k = 0 then (s.history.last[r]?).getD [] else List.replicate 128 0
    let bin := fun r b => ∑ i ∈ Finset.range 256,
      (((before r ++ block r).getD i 0 : ℤ) : ℂ) * Complex.exp (-(2 * Real.pi * (b * i) / 256) * Complex.I)
    let power := fun b => ∑ r ∈ Finset.range s.geo.refs, Complex.normSq (bin r b)
    ∃ t, ∃ mid : ℕ → ℚ, step s = .next t ∧ t.history.power.length = 129 ∧
      ∀ b < 129,
        s.history.power.getD b 0 * (15 / 16 * (1 - 1 / 2 ^ 24)) ^ k ≤ mid b ∧
        mid b ≤ s.history.power.getD b 0 * (15 / 16 * (1 + 1 / 2 ^ 24)) ^ k ∧
        0 ≤ t.history.power.getD b 0 ∧
        |((t.history.power.getD b 0 : ℚ) : ℝ) - ((mid b : ℝ) + (power b - mid b) / 16)| ≤
          ((mid b : ℝ) + (power b - mid b) / 16) / 2 ^ 24 + 1 / 2 ^ 30

/-- R1, R7, R36, R39, R48, R50, R92, R104, R129, R130, R163: stage 3 of a channel up to its estimate. Its microphone block is read; in OFF,
RESTORING and SUSPENDED that block is the error block and the channel is done. In ACQUIRE, TRACK and HELD each slot of the extent is then
read once, one read a unit. A read that fails parity delivers zeros, zeroes the slot, raises the parity count by 1, at most 65535, and sets
the parity flag, and it ends a capture of the channel DATA_ERROR: INVALID, flag clear, mover idle, record complete, and the frame notes it
for its walk (notes/assumptions/28.md). Channels and their slots are taken in rising order (9.md), the microphone block comes first (27.md),
and the capture ends at once in DRAINING too (26.md): the model's choices. -/
def Obligations.StageThreeReads : Prop :=
  ∀ (s : State) (f : Flight) (c : Nat), c < 16 →
    let n := (f.ctx c).parts * s.geo.refs
    let onward := if c + 1 < s.geo.mics then Phase.estimate (c + 1) else .decide
    (s.AtPhase f (.estimate c) →
      let wordAt := fun i => memWord s.mem (s.geo.micBlock f.count c + 4 * i)
      let mic := (List.range 128).map (fun i => max (-8388608) (min 8388607 (wordAt i).toInt))
      let clamped := fun i => decide ((wordAt i).toInt < -8388608 ∨ 8388607 < (wordAt i).toInt)
      ∃ g, step s = .next { s with flight := some g } ∧ (∀ i, i ≠ c → g.chanWork i = f.chanWork i) ∧
        g = (if (f.ctx c).state.filters = true then { f with phase := .filter c, reads := [], work := g.work }
          else { f with phase := onward, asks := false, work := g.work }) ∧
        (g.chanWork c).mic = mic ∧ (g.chanWork c).clipped = (List.range 128).any clamped ∧
        (g.chanWork c).err = mic ∧ (g.chanWork c).formed = false ∧ (g.chanWork c).parity = false ∧
        (g.chanWork c).lm = level mic ∧ (g.chanWork c).ly = -480 ∧
        (g.chanWork c).le = if (f.ctx c).state = .off then -480 else level mic) ∧
    (s.AtPhase f (.filter c) → f.reads.length < n →
      let j := f.reads.length
      let i := (s.extent c).base + j
      let asks := decide (j + 1 < n) || (decide (c + 1 < s.geo.mics) && (f.ctx (c + 1)).state.filters)
      ((s.slot i).bad = 0#258 →
        step s = .next { s with flight := some { f with reads := f.reads ++ [(s.slot i).parts], asks := asks } }) ∧
      ((s.slot i).bad ≠ 0#258 →
        let failed := fun (t : State) (g : Flight) (noted : List Nat) =>
          g = { f with reads := f.reads ++ [List.replicate 258 0#32], asks := asks, work := g.work, failedCaptures := noted } ∧
          g.chanWork c = { f.chanWork c with parity := true } ∧ (∀ i, i ≠ c → g.chanWork i = f.chanWork i) ∧
          (∀ k, t.slot k = if k = i then Slot.zero else s.slot k) ∧ (∀ d, d ≠ c → t.chan d = s.chan d)
        let count := min 65535 ((s.chan c).parity + 1)
        ((∀ u, s.transfer = some u → u.direction = .capture → u.chan = c → (s.chan c).capture = false) →
          ∃ t g, step s = .next t ∧ t = { s with pool := t.pool, channels := t.channels, flight := some g } ∧ failed t g f.failedCaptures ∧
            t.chan c = { s.chan c with parity := count }) ∧
        (∀ u, s.transfer = some u → u.direction = .capture → u.chan = c → (s.chan c).capture = true → u.cmd.toNat % 64 = 0 →
          u.slotAddr.toNat % 64 = 0 → Apart u.slotAddr.toNat 4 u.cmd.toNat 64 →
          ∃ t g, step s = .next t ∧ failed t g (c :: f.failedCaptures) ∧
            t = { s with pool := t.pool, channels := t.channels, transfer := none, notice := s.notice || u.notify, mem := t.mem,
                         flight := some g } ∧
            t.chan c = { s.chan c with capture := false, parity := count } ∧ memWord t.mem u.slotAddr.toNat = 3 ∧
            CompletedIn t u.cmd .dataError s.done (BitVec.ofNat 32 j) ∧
            KeepsBytesBut s t ((u.slotAddr.toNat, 4) :: completionBytes u.cmd))))

/-- R6, R7, R39 to R41: the estimate of stage 3, from the slots as read. Each of its 128 samples is sat24 of an integer that lies within 1
(the engine's 1/2 and R4's rounding) of the exact value: the real inverse transform, at position 128 + i, of the sum over the slots of
spectrum times coefficient, the bins mirrored; but for the width of the model's cosines, below 2^-30 here (notes/assumptions/8.md). It is all
zero if every slot or its spectrum is. The error is sat24(m - y); Ly and Le are their levels. Nothing else of the block changes. That
channel c + 1 is next is the model's choice: notes/assumptions/9.md. -/
def Obligations.EstimateWithinOne : Prop :=
  ∀ (s : State) (f : Flight) (c : Nat), s.AtPhase f (.filter c) → c < 16 →
    let n := (f.ctx c).parts * s.geo.refs
    f.reads.length = n → n ≤ 256 → s.history.Sampled →
    let part := fun (j i : ℕ) => (((f.reads.getD j []).getD i 0).toInt : ℂ) / 2 ^ 24
    let spectrum := fun (j k : ℕ) => match s.history.paired s.geo.refs j with
      | .zero => (0 : ℂ)
      | .of x => ∑ i ∈ Finset.range 256, ((x.getD i 0 : ℤ) : ℂ) * Complex.exp (-(2 * Real.pi * (k * i) / 256) * Complex.I)
    let bin := fun k : ℕ => ∑ j ∈ Finset.range n, spectrum j k * (part j (2 * k) + part j (2 * k + 1) * Complex.I)
    let exact := fun i : ℕ => (∑ k ∈ Finset.range 256,
      (if k ≤ 128 then bin k else (starRingEnd ℂ) (bin (256 - k))) *
        Complex.exp ((2 * Real.pi * (k * (128 + i)) / 256) * Complex.I) / 256).re
    let w := f.chanWork c
    ∃ g, ∃ y : List Int, step s = .next { s with free := s.free + 1, flight := some g } ∧
      g = { f with phase := if c + 1 < s.geo.mics then .estimate (c + 1) else .decide, reads := [], work := g.work } ∧
      (∀ i, i ≠ c → g.chanWork i = f.chanWork i) ∧ y.length = 128 ∧
      (∀ i < 128, ∃ v : ℤ, y.getD i 0 = sat24 v ∧ |(v : ℝ) - exact i| < 1 + 1 / 2 ^ 30) ∧
      ((∀ j < n, s.history.paired s.geo.refs j = .zero ∨ ∀ x ∈ f.reads.getD j [], x = 0) → ∀ x ∈ y, x = 0) ∧
      (g.chanWork c).mic = w.mic ∧ (g.chanWork c).clipped = w.clipped ∧
      (g.chanWork c).err = List.zipWith (fun m x => sat24 (m - x)) w.mic y ∧
      (g.chanWork c).formed = true ∧ (g.chanWork c).parity = w.parity ∧ (g.chanWork c).lm = level w.mic ∧
      (g.chanWork c).ly = level y ∧ (g.chanWork c).le = level (g.chanWork c).err

/-- R56 to R59: stage 4 decides every channel not in OFF at the end of stage 1 by the table of R59, and no other; nothing else of the frame or
of the block changes. -/
def Obligations.NearEndDecided : Prop :=
  ∀ (s : State) (f : Flight), s.AtPhase f .decide →
    ∃ t g, step s = .next t ∧ t = { s with flight := some g } ∧ g = { f with phase := .walk, work := g.work } ∧
      ∀ c < 16,
        ((f.ctx c).state = .off → g.chanWork c = f.chanWork c) ∧
        ((f.ctx c).state ≠ .off →
          let w := f.chanWork c
          let h := (f.ctx c).hang
          let detected := s.history.farActive = true ∧ s.history.lx + (f.ctx c).coupling + (f.ctx c).tuning.mDt < w.lm
          (detected → g.chanWork c = { w with hang := (f.ctx c).tuning.hang.toNat, eligible := false, nearEnd := true }) ∧
          (¬ detected → h = 0 → g.chanWork c = { w with hang := 0, eligible := s.history.farActive, nearEnd := false }) ∧
          (¬ detected → h = 1 → g.chanWork c = { w with hang := 0, eligible := false, nearEnd := false }) ∧
          (¬ detected → 2 ≤ h → g.chanWork c = { w with hang := h - 1, eligible := false, nearEnd := true }))

/-- R113 to R115: whatever the queue, the candidates, the costs and the budget, the granted and then the deferred channels are the candidates
in queue order; the units granted are the sum of the costs and never exceed the budget; the first deferred costs more than what was left.
The walk and the rotation are one step of the frame: every channel granted stands at the tail in grant order, the others close up in their
order; grants, deferrals and units are those of the walk over the queue with 5120 - FC units. Stage 6 will update, once each, every
reference of each adapting partition of each channel granted (R42; their order: notes/assumptions/9.md). Nothing else changes. No channel is a
candidate whose capture flag is set or whose capture a parity failure of this frame has ended: R93 has the slot end the frame holding zeros,
where R117 leaves both orders (28.md). -/
def Obligations.WalkGrantsAndRotates : Prop :=
  (∀ (candidate : Nat → Bool) (cost : Nat → Nat) (queue : List Nat) (budget : Nat),
    let r := walkQueue candidate cost queue budget
    r.granted ++ r.deferred = queue.filter candidate ∧ r.units = (r.granted.map cost).sum ∧ r.units ≤ budget ∧
    (∀ c, r.deferred.head? = some c → budget < r.units + cost c)) ∧
  ∀ (s : State) (f : Flight), s.AtPhase f .walk →
    let candidate := fun c => (f.ctx c).state.adapts && (f.chanWork c).eligible && !(s.chan c).capture && !f.failedCaptures.contains c
    let r := walkQueue candidate (fun c => 2 * (f.ctx c).adaptingCount * s.geo.refs) s.queue (5120 - f.cost)
    ∃ t g, step s = .next t ∧
      t = { s with queue := s.queue.filter (fun c => !r.granted.contains c) ++ r.granted, flight := some g } ∧
      g = { f with phase := g.phase, units := r.units, work := g.work } ∧
      (∀ c < 16, g.chanWork c = { f.chanWork c with granted := r.granted.contains c, deferred := r.deferred.contains c }) ∧
      ∃ todo, g.phase = .adapt todo ∧ (s.queue.Nodup → todo.Nodup) ∧
        ∀ c j, (c, j) ∈ todo ↔ c ∈ r.granted ∧ j < (f.ctx c).parts * s.geo.refs ∧ j / s.geo.refs ∈ (f.ctx c).adaptingSet

/-- R38, R43 to R45, R49: stage 6 for one slot. With no parity failure the slot is written whole, in agreement with its parity, the imaginary
parts of bins 0 and 128 zero, every other slot kept; with a zero spectrum or an error block of zeros its parts are kept. A slot that
fails parity is taken as zeros, the channel's count rising by 1, at most 65535, and its parity flag set; nothing else of the frame's work
changes. -/
def Obligations.SlotAdapted : Prop :=
  ∀ (s : State) (f : Flight) (c j : Nat) (rest : List (Nat × Nat)), s.AtPhase f (.adapt ((c, j) :: rest)) → c < 16 →
    let i := (s.extent c).base + j
    let x := s.history.paired s.geo.refs j
    let err := (f.chanWork c).err
    let failed := (s.slot i).bad ≠ 0#258
    let old := if (s.slot i).bad = 0#258 then (s.slot i).parts else Slot.zero.parts
    ∃ t g, step s = .next t ∧ t = { s with pool := t.pool, channels := t.channels, free := s.free + 1, flight := some g } ∧
      g = { f with phase := .adapt rest, asks := !rest.isEmpty, work := g.work } ∧ (∀ d, d ≠ c → g.chanWork d = f.chanWork d) ∧
      g.chanWork c = { f.chanWork c with parity := (f.chanWork c).parity || decide failed } ∧
      (∀ k, k ≠ i → t.slot k = s.slot k) ∧ (t.slot i).bad = 0#258 ∧
      (x = .zero ∨ (∀ e ∈ err, e = 0) → (t.slot i).parts = old) ∧
      (x ≠ .zero → (∃ e ∈ err, e ≠ 0) →
        (t.slot i).parts.length = 258 ∧ (t.slot i).parts.getD 1 0 = 0 ∧ (t.slot i).parts.getD 257 0 = 0) ∧
      (∀ d, d ≠ c → t.chan d = s.chan d) ∧
      (¬ failed → t.chan c = s.chan c) ∧ (failed → t.chan c = { s.chan c with parity := min 65535 ((s.chan c).parity + 1) })

/-- R38, R42 to R44: the update of a slot in stage 6. Each stored part is the 32-bit saturation of an integer that lies within 3/2 (the
engine's unit and R38's rounding) of the old part plus 2^24 times that part of the constrained gradient's bin: the transform of the first
128 values of the real inverse transform of mu conj(X_k) E_k / (Pw_k + delta), E being the transform of 128 zeros and the error block; but
for the width of the model's cosines, below 2^-30 here (notes/assumptions/8.md). The imaginary parts of bins 0 and 128 are zero. -/
def Obligations.UpdateFollowsTheGradient : Prop :=
  ∀ (s : State) (f : Flight) (c j : Nat) (rest : List (Nat × Nat)), s.AtPhase f (.adapt ((c, j) :: rest)) → c < 16 →
    let i := (s.extent c).base + j
    let x := f.ctx c
    let err := (f.chanWork c).err
    ∀ window, s.history.paired s.geo.refs j = .of window → SampleBlock 256 window → SampleBlock 128 err → (∃ e ∈ err, e ≠ 0) →
    (∀ b < 129, 0 ≤ s.history.power.getD b 0) → x.tuning.InRange → (x.state = .acquire ∨ x.state = .track) →
    let old := fun p : ℕ => if (s.slot i).bad = 0#258 then (s.slot i).parts.getD p 0 else 0
    let mu : ℝ := (if x.state = .acquire then x.tuning.muAcq else x.tuning.muTrk) / 32768
    let transform := fun (v : ℕ → ℂ) (k : ℕ) => ∑ m ∈ Finset.range 256, v m * Complex.exp (-(2 * Real.pi * (k * m) / 256) * Complex.I)
    let spectrum := transform (fun m => ((window.getD m 0 : ℤ) : ℂ))
    let errors := transform (fun m => if m < 128 then 0 else ((err.getD (m - 128) 0 : ℤ) : ℂ))
    let gradient := fun k : ℕ => mu * (starRingEnd ℂ) (spectrum k) * errors k /
      (((s.history.power.getD k 0 : ℚ) : ℝ) + 2 ^ 54 / 10 ^ 9 : ℝ)
    let time := fun m : ℕ => if m < 128 then ∑ k ∈ Finset.range 256,
      (if k ≤ 128 then gradient k else (starRingEnd ℂ) (gradient (256 - k))) *
        Complex.exp ((2 * Real.pi * (k * m) / 256) * Complex.I) / 256 else 0
    let step24 := fun k : ℕ => 2 ^ 24 * transform time k
    let near := fun (part : Word) (before : Word) (exact : ℝ) =>
      ∃ v : ℤ, part.toInt = max (-2147483648) (min 2147483647 v) ∧ |(v : ℝ) - (before.toInt + exact)| ≤ 3 / 2 + 1 / 2 ^ 30
    ∃ t, step s = .next t ∧
      ∀ k ≤ 128, near ((t.slot i).parts.getD (2 * k) 0) (old (2 * k)) (step24 k).re ∧
        if k = 0 ∨ k = 128 then (t.slot i).parts.getD (2 * k + 1) 0 = 0
        else near ((t.slot i).parts.getD (2 * k + 1) 0) (old (2 * k + 1)) (step24 k).im

/-- R64, R81 to R85, R89: stage 7 of a channel whose state still is that of the end of stage 1. On an eligible block C steps toward Lm - Lx by
16ths and S, where the channel filters, toward the clamped Lm - Le by 8ths; then the dwell test moves ACQUIRE to TRACK or TRACK to
ACQUIRE; a granted block with Le above Lm + 24 is a strike and another granted block clears the strikes; h is that of stage 4. An eighth
strike begins the divergence event's zeroing and commits nothing yet. The queue stays. An OFF channel is not touched. A channel whose state is
another, its restore's end having been taken before the walk, keeps what that end has set (R161; notes/assumptions/25.md). That channel c + 1
is next, and that the eighth strike appends no count before the commit, are the model's choices: notes/assumptions/9.md and 35.md. -/
def Obligations.StageSevenCommits : Prop :=
  ∀ (s : State) (f : Flight) (c : Nat), s.AtPhase f (.commit c) → c < 16 →
    let x := f.ctx c
    let w := f.chanWork c
    let onward := f.at (if c + 1 < s.geo.mics then .commit (c + 1) else .suppress 0)
    (x.state = .off ∨ (s.chan c).state ≠ x.state → step s = .next { s with flight := some onward }) ∧
    (s.EighthStrike f c → step s = .next { s with flight := some (f.at (.zeroing c 0)) }) ∧
    (x.state ≠ .off → (s.chan c).state = x.state → ¬ s.EighthStrike f c →
      let erle := (s.measuresAfter f c).1
      let coupling := (s.measuresAfter f c).2
      let tested := w.eligible = true ∧ (x.state = .acquire ∨ x.state = .track)
      let qualifies := if x.state = .acquire then x.tuning.tConv ≤ erle else erle < x.tuning.tConv - 24
      let dwell := if tested then (if qualifies then x.dwell + 1 else 0) else x.dwell
      let moves := tested ∧ (if x.state = .acquire then x.tuning.dConv else x.tuning.dRecheck) ≤ (dwell : Int)
      ∃ t, step s = .next t ∧ t = { s with channels := t.channels, flight := some onward } ∧ (∀ i, i ≠ c → t.chan i = s.chan i) ∧
        t.chan c = { s.chan c with
          state := if moves then (if x.state = .acquire then .track else .acquire) else x.state
          erle := erle, coupling := coupling, hang := w.hang, dwell := if moves then 0 else dwell
          strikes := if w.granted = true then (if w.lm + 24 < w.le then x.strikes + 1 else 0) else x.strikes
          divergences := x.divergences })

/-- R64, R86, R87, R89, R90, R105: a divergence event zeroes the extent slot by slot, one slot a unit, the engine asking for the port while
a slot of it is left or the next channel's event zeroes too. Its commit then sets S, strikes and dwell 0, C by the coupling step of the same
stage and h by stage 4, and appends the count to the history of at most 3; the channel is SUSPENDED and out of the queue if it then holds 3
whose oldest lies 0 to 250 frames back, else in ACQUIRE at the head; the frame will set notice-pending. The rest is kept.
The rising order of the slots and of the channels is the model's choice: notes/assumptions/9.md. So is that the zeroing leaves the divergence
history alone and the commit alone appends the count, against R90's last sentence: notes/assumptions/35.md. -/
def Obligations.DivergenceCommitted : Prop :=
  ∀ (s : State) (f : Flight) (c k : Nat) (more : Bool), s.AtPhase f (.zeroing c k) →
    let x := s.extent c
    (more = true ↔ c + 1 < s.geo.mics ∧ s.EighthStrike f (c + 1)) →
    (k < x.size →
      ∃ t, step s = .next t ∧
        t = { s with pool := t.pool,
                     flight := some { f with phase := .zeroing c (k + 1), asks := decide (k + 1 < x.size) || more } } ∧
        ∀ i, t.slot i = if i = x.base + k then Slot.zero else s.slot i) ∧
    (x.size ≤ k → c < 16 →
      let old := (f.ctx c).divergences
      old.length ≤ 3 →
      let new := if old.length = 3 then old.tail ++ [f.count] else old ++ [f.count]
      let suspended := ∃ a b, new = [a, b, f.count] ∧ 0 ≤ signedDiff f.count a ∧ signedDiff f.count a ≤ 250
      let onward := if c + 1 < s.geo.mics then Phase.commit (c + 1) else .suppress 0
      ∃ t st, step s = .next t ∧
        t = { s with channels := t.channels, queue := t.queue,
                     flight := some { f with phase := onward, event := true, asks := more } } ∧
        (∀ i, i ≠ c → t.chan i = s.chan i) ∧
        t.chan c = { s.chan c with state := st, erle := 0, coupling := (s.measuresAfter f c).2, hang := (f.chanWork c).hang,
                                   dwell := 0, strikes := 0, divergences := new } ∧
        (suspended → st = .suspended ∧ t.queue = s.queue.filter (fun d => decide (d ≠ c))) ∧
        (¬ suspended → st = .acquire ∧ t.queue = c :: s.queue.filter (fun d => decide (d ≠ c))))

/-- R121 to R126: stage 8 of a channel: an OFF channel copies its microphone block; another ramps A by at most attack down or release up
toward the target, which is 0 with near-end present or the far end inactive and else max(F, min(0, T_res - Lr)), and scales its error
block by the gain. That the S and C of Lr are those stage 7 has left, as R121 says, and not those of the end of stage 1, as R62 has it of C,
is the model's choice: notes/assumptions/40.md. So is the rising order of the channels: 9.md. -/
def Obligations.SuppressorRamps : Prop :=
  ∀ (s : State) (f : Flight) (c : Nat), s.AtPhase f (.suppress c) → c < 16 →
    ∃ t g, step s = .next t ∧ t = { s with channels := t.channels, flight := some g } ∧
      g = { f with phase := if c + 1 < s.geo.mics then .suppress (c + 1) else .output 0, work := g.work } ∧
      (∀ i, i ≠ c → t.chan i = s.chan i ∧ g.chanWork i = f.chanWork i) ∧
      g.chanWork c = { f.chanWork c with out := (g.chanWork c).out, lout := (g.chanWork c).lout } ∧
      ((f.ctx c).state = .off →
        t.chan c = s.chan c ∧ (g.chanWork c).out = (f.chanWork c).mic ∧ (g.chanWork c).lout = level (f.chanWork c).mic) ∧
      ((f.ctx c).state ≠ .off →
        let w := f.chanWork c
        let a := (s.chan c).atten
        let tuning := (f.ctx c).tuning
        let lr := if w.formed = true ∧ (s.chan c).state ≠ .suspended then w.ly - (s.chan c).erle
          else s.history.lx + (s.chan c).coupling
        let target := if w.nearEnd = true ∨ s.history.farActive = false then 0 else max tuning.floor (min 0 (s.geo.tRes - lr))
        let next := (t.chan c).atten
        t.chan c = { s.chan c with atten := next } ∧
        (target < a → next = max target (a - tuning.attack)) ∧ (a < target → next = min target (a + tuning.release)) ∧
        (target = a → next = a) ∧
        (g.chanWork c).out = w.err.map (fun e => sat24 (roundQuotient (e * gain next) 32768)) ∧
        (g.chanWork c).lout = level (g.chanWork c).out)

/-! ### Allocation (R95 to R97, R108) -/

/-- R95 to R97: in a sound list, the free total is 2048 less the sizes and the largest gap is the longest run of free slots; first fit
names the lowest base of a gap that is long enough, and the list with the new extent is sound; it names none exactly when every run of
free slots of that length meets an extent or the end of the pool. -/
def Obligations.FirstFitPlacesDisjoint : Prop :=
  ∀ (alloc : List Extent) (c size : Nat), ExtentsDisjoint alloc → (∀ e ∈ alloc, e.chan ≠ c) → c < 16 → 1 ≤ size →
    (freeTotal alloc + (alloc.map Extent.size).sum = 2048) ∧
    ((∃ b, FreeRun alloc b (largestGap alloc)) ∧ ∀ b n, FreeRun alloc b n → n ≤ largestGap alloc) ∧
    (∀ base, firstFit alloc size = some base →
      FreeRun alloc base size ∧ (∀ b < base, ¬ FreeRun alloc b size) ∧
      ExtentsDisjoint (insertExtent { chan := c, base := base, size := size } alloc)) ∧
    (firstFit alloc size = none ↔ ∀ b, ¬ FreeRun alloc b size)

/-! ### Invariants -/

/-- The state right after power-on is cleared as R185 lists it and has every invariant. -/
def Obligations.ResetStateSound : Prop :=
  State.reset.ClearedFrom State.reset ∧ State.reset.xbase = 0 ∧ State.reset.pending = [] ∧ State.reset.MemoryCanonical ∧
  State.reset.CountsAgree ∧ State.reset.FaultsAgree ∧ State.reset.TableBounded ∧ State.reset.ChannelsNamed ∧
  State.reset.QueueExact ∧ State.reset.CapturesAgree ∧ State.reset.WithinRanges ∧ State.reset.PoolSound

/-- Every step keeps shared memory in its canonical form. -/
def Obligations.MemoryStaysCanonical : Prop :=
  ∀ s t : State, s.MemoryCanonical → step s = .next t → t.MemoryCanonical

/-- R169: every step keeps T at D + 1 while a frame cycle is busy and at D otherwise, but for a frame that a fault has abandoned. -/
def Obligations.CountsStayInStep : Prop :=
  ∀ s t : State, s.CountsAgree → step s = .next t → t.CountsAgree

/-- R143, R184: every step keeps the table at 8 entries or fewer, and a fault code standing in FAULTED alone. -/
def Obligations.TableAndFaultsStaySound : Prop :=
  ∀ s t : State, s.TableBounded → s.FaultsAgree → step s = .next t → t.TableBounded ∧ t.FaultsAgree

/-- R110: every step keeps the schedule queue holding each channel in ACQUIRE or TRACK exactly once and no other. -/
def Obligations.QueueStaysExact : Prop :=
  ∀ s t : State, s.ChannelsNamed → s.QueueExact → step s = .next t → t.ChannelsNamed ∧ t.QueueExact

/-- R66, R156: every step keeps a channel's capture flag set exactly while the mover captures it. -/
def Obligations.CapturesStayMarked : Prop :=
  ∀ s t : State, s.CapturesAgree → step s = .next t → t.CapturesAgree

/-- R9, R11, R17, R60, R66, R67, R175: every step keeps every channel quantity (h at most H, P in 4..64), level, tuning field, the far-end
hold, the pending report counts and the mover's S and C in the range given for it, and the reference history in the form of R17: 64 spectra
in each ring, each of 256 samples, 128 clamped samples in each last block, and 129 powers that are never negative. -/
def Obligations.RangesKept : Prop :=
  ∀ s t : State, s.WithinRanges → step s = .next t → t.WithinRanges

/-- R68, R95: every step keeps the extents disjoint, inside the pool, one for each channel not in OFF, of P x R slots. -/
def Obligations.PoolStaysSound : Prop :=
  ∀ s t : State, s.PoolSound → step s = .next t → t.PoolSound
end

