-- ==== Sys2Proof/Laws/Cosines.lean ====
section
/-! SUPPORT. The cosine table of Cyclotomic.lean agrees with the doubling formula cos 2x = 2 cos^2 x - 1 within the widths of its
enclosures, falls strictly, and is exact at its ends. -/

namespace Sys2Proof.Machine

/-- Entry `j` of the table. -/
def cosEntry (j : Nat) : Nat :=
  cosTable.getD j 0

theorem cosTable_ends : cosTable.length = 65 ∧ cosEntry 0 = 2 ^ 128 ∧ cosEntry 64 = 0 := by
  decide +kernel

theorem cosTable_falls : ∀ j < 64, cosEntry (j + 1) < cosEntry j := by
  decide +kernel

/-- Each entry's enclosure meets that of the doubled angle. -/
theorem cosTable_doubling : ∀ j < 33,
    2 * cosEntry j ^ 2 ≤ (cosEntry (2 * j) + 1) * 2 ^ 128 + 2 ^ 256 ∧
      cosEntry (2 * j) * 2 ^ 128 + 2 ^ 256 ≤ 2 * (cosEntry j + 1) ^ 2 := by
  decide +kernel

end Sys2Proof.Machine
end

