-- ==== Sys2Proof/Laws/Sparse.lean ====
section
/-! SUPPORT. The laws of sparse maps: a get after a put, and the canonical form kept by every put. -/

namespace Sys2Proof.Machine

variable {α : Type} [DecidableEq α]

omit [DecidableEq α] in
/-- A get from a map without an entry for the key. -/
theorem sparseGet_of_absent (d : α) (m : List (Nat × α)) (k : Nat) (h : ∀ e ∈ m, e.1 ≠ k) : sparseGet d m k = d := by
  induction m with
  | nil => rfl
  | cons e m ih =>
    obtain ⟨j, v⟩ := e
    have hj : j ≠ k := h (j, v) (by simp)
    simp only [sparseGet, hj, if_false]
    exact ih (fun e he => h e (by simp [he]))

omit [DecidableEq α] in
theorem sparseGet_filter_same (d : α) (m : List (Nat × α)) (k : Nat) :
    sparseGet d (m.filter (fun e => e.1 ≠ k)) k = d :=
  sparseGet_of_absent d _ k (by simp)

omit [DecidableEq α] in
theorem sparseGet_filter_other (d : α) (m : List (Nat × α)) {j k : Nat} (h : j ≠ k) :
    sparseGet d (m.filter (fun e => e.1 ≠ k)) j = sparseGet d m j := by
  induction m with
  | nil => rfl
  | cons e m ih =>
    obtain ⟨i, v⟩ := e
    by_cases hi : i = k
    · subst hi
      have hne : ¬ i = j := fun e => h e.symm
      simp only [List.filter_cons, sparseGet, hne, if_false]
      simpa using ih
    · have hkeep : decide (i ≠ k) = true := by simpa using hi
      simp only [List.filter_cons, hkeep, if_true, sparseGet]
      split
      · rfl
      · exact ih

omit [DecidableEq α] in
theorem sparseGet_insert_same (d v : α) (m : List (Nat × α)) (k : Nat) : sparseGet d (sparseInsert k v m) k = v := by
  induction m with
  | nil => simp [sparseInsert, sparseGet]
  | cons e m ih =>
    obtain ⟨j, w⟩ := e
    simp only [sparseInsert]
    split
    · simp [sparseGet]
    · split
      · simp [sparseGet]
      · rename_i hjk
        simp only [sparseGet, hjk, if_false]
        exact ih

omit [DecidableEq α] in
theorem sparseGet_insert_other (d v : α) (m : List (Nat × α)) {j k : Nat} (h : j ≠ k) :
    sparseGet d (sparseInsert k v m) j = sparseGet d m j := by
  have hk : ¬ k = j := fun e => h e.symm
  induction m with
  | nil => simp [sparseInsert, sparseGet, hk]
  | cons e m ih =>
    obtain ⟨i, w⟩ := e
    simp only [sparseInsert]
    split
    · simp [sparseGet, hk]
    · split
      · rename_i hik
        subst hik
        simp [sparseGet, hk]
      · simp only [sparseGet]
        split
        · rfl
        · exact ih

/-- A get of the key that was put gives the value put. -/
@[simp] theorem sparseGet_put_same (d : α) (m : List (Nat × α)) (k : Nat) (v : α) : sparseGet d (sparsePut d m k v) k = v := by
  simp only [sparsePut]
  split
  · rename_i hv
    rw [sparseGet_filter_same]
    exact hv.symm
  · exact sparseGet_insert_same d v m k

/-- A get of another key gives what it gave. -/
theorem sparseGet_put_other (d : α) (m : List (Nat × α)) {j k : Nat} (v : α) (h : j ≠ k) :
    sparseGet d (sparsePut d m k v) j = sparseGet d m j := by
  simp only [sparsePut]
  split
  · exact sparseGet_filter_other d m h
  · exact sparseGet_insert_other d v m h

omit [DecidableEq α] in
theorem mem_sparseInsert {k : Nat} {v : α} {m : List (Nat × α)} {e : Nat × α} (h : e ∈ sparseInsert k v m) :
    e = (k, v) ∨ e ∈ m := by
  induction m with
  | nil => simpa [sparseInsert] using h
  | cons x m ih =>
    obtain ⟨j, w⟩ := x
    simp only [sparseInsert] at h
    split at h
    · simpa using h
    · split at h
      · rcases List.mem_cons.mp h with h | h
        · exact .inl h
        · exact .inr (by simp [h])
      · rcases List.mem_cons.mp h with h | h
        · exact .inr (by simp [h])
        · rcases ih h with h | h
          · exact .inl h
          · exact .inr (by simp [h])

omit [DecidableEq α] in
theorem sparseInsert_pairwise (k : Nat) (v : α) (m : List (Nat × α)) (h : m.Pairwise (fun x y => x.1 < y.1)) :
    (sparseInsert k v m).Pairwise (fun x y => x.1 < y.1) := by
  induction m with
  | nil => simp [sparseInsert]
  | cons e m ih =>
    obtain ⟨j, w⟩ := e
    have htail := (List.pairwise_cons.mp h).2
    have hhead := (List.pairwise_cons.mp h).1
    simp only [sparseInsert]
    split
    · rename_i hkj
      refine List.pairwise_cons.mpr ⟨fun e he => ?_, h⟩
      rcases List.mem_cons.mp he with rfl | he
      · exact hkj
      · exact lt_trans hkj (hhead e he)
    · split
      · rename_i hjk
        subst hjk
        exact List.pairwise_cons.mpr ⟨hhead, htail⟩
      · rename_i hkj hjk
        refine List.pairwise_cons.mpr ⟨fun e he => ?_, ih htail⟩
        rcases mem_sparseInsert he with rfl | he
        · simp only
          omega
        · exact hhead e he

/-- The canonical form, read out. -/
theorem sparseWf_iff (d : α) (bound : Nat) (m : List (Nat × α)) :
    sparseWf d bound m = true ↔ m.Pairwise (fun x y => x.1 < y.1) ∧ ∀ e ∈ m, e.1 < bound ∧ e.2 ≠ d := by
  simp [sparseWf]

/-- Every put of a key below the bound keeps the canonical form. -/
theorem sparsePut_wf (d : α) (bound : Nat) (m : List (Nat × α)) (k : Nat) (v : α) (hk : k < bound)
    (h : sparseWf d bound m = true) : sparseWf d bound (sparsePut d m k v) = true := by
  rw [sparseWf_iff] at h ⊢
  simp only [sparsePut]
  split
  · exact ⟨h.1.filter _, fun e he => h.2 e (List.mem_filter.mp he).1⟩
  · rename_i hv
    refine ⟨sparseInsert_pairwise k v m h.1, fun e he => ?_⟩
    rcases mem_sparseInsert he with rfl | he
    · exact ⟨hk, hv⟩
    · exact h.2 e he

end Sys2Proof.Machine
end

