-- ==== Sys2Proof/Laws/Memory.lean ====
section
/-! SUPPORT. Shared memory: a read after a write, and the canonical form kept by every memory operation. -/

namespace Sys2Proof.Machine

theorem cellOf_lt (a : Nat) : cellOf a < 4294967296 :=
  Nat.mod_lt _ (by decide)

@[simp] theorem readByte_writeByte_same (m : List Host.Cell) (a : Nat) (v : Byte) : readByte (writeByte m a v) a = v :=
  sparseGet_put_same _ _ _ _

theorem readByte_writeByte_other (m : List Host.Cell) {a b : Nat} (v : Byte) (h : cellOf b ≠ cellOf a) :
    readByte (writeByte m a v) b = readByte m b :=
  sparseGet_put_other _ _ _ h

/-- Bytes outside the cells written read as before. -/
theorem readByte_writeBytes_other (m : List Host.Cell) (a : Nat) (vs : List Byte) (b : Nat)
    (h : ∀ i < vs.length, cellOf b ≠ cellOf (a + i)) : readByte (writeBytes m a vs) b = readByte m b := by
  induction vs generalizing m a with
  | nil => rfl
  | cons v vs ih =>
    simp only [writeBytes]
    rw [ih]
    · exact readByte_writeByte_other m v (by simpa using h 0 (by simp))
    · intro i hi
      have := h (i + 1) (by simpa using hi)
      rwa [show a + (i + 1) = a + 1 + i by omega] at this

/-- Each byte written reads back, if the run does not pass the end of the address space. -/
theorem readByte_writeBytes_get (m : List Host.Cell) (a : Nat) (vs : List Byte) (hfit : a + vs.length ≤ 4294967296)
    (i : Nat) (hi : i < vs.length) : readByte (writeBytes m a vs) (a + i) = vs[i] := by
  induction vs generalizing m a i with
  | nil => simp at hi
  | cons v vs ih =>
    simp only [List.length_cons] at hfit hi
    cases i with
    | zero =>
      simp only [writeBytes, Nat.add_zero, List.getElem_cons_zero]
      rw [readByte_writeBytes_other]
      · exact readByte_writeByte_same m a v
      · intro j hj
        simp only [cellOf]
        rw [Nat.mod_eq_of_lt (by omega), Nat.mod_eq_of_lt (by omega)]
        omega
    | succ i =>
      have := ih (writeByte m a v) (a + 1) (by omega) i (by omega)
      simpa [writeBytes, Nat.add_assoc, Nat.add_comm 1 i] using this

/-- A word read where it was written. -/
theorem memWord_writeWord (m : List Host.Cell) (a : Nat) (w : Word) (hfit : a + 4 ≤ 4294967296) :
    memWord (writeBytes m a (wordBytes w)) a = w := by
  have g := readByte_writeBytes_get m a (wordBytes w) (by simpa [wordBytes] using hfit)
  have g0 := g 0 (by simp [wordBytes])
  have g1 := g 1 (by simp [wordBytes])
  have g2 := g 2 (by simp [wordBytes])
  have g3 := g 3 (by simp [wordBytes])
  simp only [Nat.add_zero] at g0
  simp only [memWord, g0, g1, g2, g3]
  simp only [wordBytes, List.getElem_cons_zero, List.getElem_cons_succ]
  apply BitVec.eq_of_getLsbD_eq
  intro i hi
  simp only [BitVec.getLsbD_append, BitVec.getLsbD_extractLsb']
  split_ifs <;> (rw [decide_eq_true (by omega), Bool.true_and]; congr 1; omega)

/-- A word none of whose cells is written reads as before. -/
theorem memWord_writeBytes_other (m : List Host.Cell) (a : Nat) (vs : List Byte) (b : Nat)
    (h : ∀ i < vs.length, ∀ j < 4, cellOf (b + j) ≠ cellOf (a + i)) :
    memWord (writeBytes m a vs) b = memWord m b := by
  have h0 := readByte_writeBytes_other m a vs b (fun i hi => by simpa using h i hi 0 (by omega))
  have h1 := readByte_writeBytes_other m a vs (b + 1) (fun i hi => h i hi 1 (by omega))
  have h2 := readByte_writeBytes_other m a vs (b + 2) (fun i hi => h i hi 2 (by omega))
  have h3 := readByte_writeBytes_other m a vs (b + 3) (fun i hi => h i hi 3 (by omega))
  simp only [memWord, h0, h1, h2, h3]

/-- A byte write keeps the canonical form. -/
theorem writeByte_wf (m : List Host.Cell) (a : Nat) (v : Byte) (h : memoryWf m = true) : memoryWf (writeByte m a v) = true :=
  sparsePut_wf _ _ _ _ _ (cellOf_lt a) h

/-- Writing consecutive bytes keeps the canonical form. -/
theorem writeBytes_wf (m : List Host.Cell) (a : Nat) (vs : List Byte) (h : memoryWf m = true) :
    memoryWf (writeBytes m a vs) = true := by
  induction vs generalizing m a with
  | nil => exact h
  | cons v vs ih => exact ih _ _ (writeByte_wf m a v h)

/-- The empty memory of reset has the canonical form. -/
theorem memoryWf_nil : memoryWf [] = true := by
  simp [memoryWf, sparseWf]

end Sys2Proof.Machine
end

