-- ==== Sys2Proof/Laws/State.lean ====
section
/-! SUPPORT. One lemma for each field of State and each named update of it, so that no later proof unfolds a record update. -/

namespace Sys2Proof.Machine

variable (s : State)

/-! ### State.setEngine -/

@[simp] theorem State.setEngine_pending (v : EngineState) : (s.setEngine v).pending = s.pending := rfl
@[simp] theorem State.setEngine_xbase (v : EngineState) : (s.setEngine v).xbase = s.xbase := rfl
@[simp] theorem State.setEngine_readData (v : EngineState) : (s.setEngine v).readData = s.readData := rfl
@[simp] theorem State.setEngine_engine (v : EngineState) : (s.setEngine v).engine = v := rfl
@[simp] theorem State.setEngine_stepResult (v : EngineState) : (s.setEngine v).stepResult = s.stepResult := rfl
@[simp] theorem State.setEngine_faultCode (v : EngineState) : (s.setEngine v).faultCode = s.faultCode := rfl
@[simp] theorem State.setEngine_faultDetail (v : EngineState) : (s.setEngine v).faultDetail = s.faultDetail := rfl
@[simp] theorem State.setEngine_ignored (v : EngineState) : (s.setEngine v).ignored = s.ignored := rfl
@[simp] theorem State.setEngine_resetLow (v : EngineState) : (s.setEngine v).resetLow = s.resetLow := rfl
@[simp] theorem State.setEngine_taken (v : EngineState) : (s.setEngine v).taken = s.taken := rfl
@[simp] theorem State.setEngine_done (v : EngineState) : (s.setEngine v).done = s.done := rfl
@[simp] theorem State.setEngine_tickPending (v : EngineState) : (s.setEngine v).tickPending = s.tickPending := rfl
@[simp] theorem State.setEngine_idleTotal (v : EngineState) : (s.setEngine v).idleTotal = s.idleTotal := rfl
@[simp] theorem State.setEngine_overloadTotal (v : EngineState) : (s.setEngine v).overloadTotal = s.overloadTotal := rfl
@[simp] theorem State.setEngine_dropTotal (v : EngineState) : (s.setEngine v).dropTotal = s.dropTotal := rfl
@[simp] theorem State.setEngine_gapTotal (v : EngineState) : (s.setEngine v).gapTotal = s.gapTotal := rfl
@[simp] theorem State.setEngine_pendIdle (v : EngineState) : (s.setEngine v).pendIdle = s.pendIdle := rfl
@[simp] theorem State.setEngine_pendOverload (v : EngineState) : (s.setEngine v).pendOverload = s.pendOverload := rfl
@[simp] theorem State.setEngine_pendDropped (v : EngineState) : (s.setEngine v).pendDropped = s.pendDropped := rfl
@[simp] theorem State.setEngine_pendGap (v : EngineState) : (s.setEngine v).pendGap = s.pendGap := rfl
@[simp] theorem State.setEngine_notice (v : EngineState) : (s.setEngine v).notice = s.notice := rfl
@[simp] theorem State.setEngine_geo (v : EngineState) : (s.setEngine v).geo = s.geo := rfl
@[simp] theorem State.setEngine_anchor (v : EngineState) : (s.setEngine v).anchor = s.anchor := rfl
@[simp] theorem State.setEngine_intake (v : EngineState) : (s.setEngine v).intake = s.intake := rfl
@[simp] theorem State.setEngine_stepDue (v : EngineState) : (s.setEngine v).stepDue = s.stepDue := rfl
@[simp] theorem State.setEngine_table (v : EngineState) : (s.setEngine v).table = s.table := rfl
@[simp] theorem State.setEngine_history (v : EngineState) : (s.setEngine v).history = s.history := rfl
@[simp] theorem State.setEngine_flight (v : EngineState) : (s.setEngine v).flight = s.flight := rfl
@[simp] theorem State.setEngine_channels (v : EngineState) : (s.setEngine v).channels = s.channels := rfl
@[simp] theorem State.setEngine_pool (v : EngineState) : (s.setEngine v).pool = s.pool := rfl
@[simp] theorem State.setEngine_alloc (v : EngineState) : (s.setEngine v).alloc = s.alloc := rfl
@[simp] theorem State.setEngine_queue (v : EngineState) : (s.setEngine v).queue = s.queue := rfl
@[simp] theorem State.setEngine_transfer (v : EngineState) : (s.setEngine v).transfer = s.transfer := rfl
@[simp] theorem State.setEngine_lock (v : EngineState) : (s.setEngine v).lock = s.lock := rfl
@[simp] theorem State.setEngine_mem (v : EngineState) : (s.setEngine v).mem = s.mem := rfl
@[simp] theorem State.setEngine_bus (v : EngineState) : (s.setEngine v).bus = s.bus := rfl
@[simp] theorem State.setEngine_grants (v : EngineState) : (s.setEngine v).grants = s.grants := rfl
@[simp] theorem State.setEngine_free (v : EngineState) : (s.setEngine v).free = s.free := rfl

/-! ### State.setStepResult -/

@[simp] theorem State.setStepResult_pending (v : StepResult) : (s.setStepResult v).pending = s.pending := rfl
@[simp] theorem State.setStepResult_xbase (v : StepResult) : (s.setStepResult v).xbase = s.xbase := rfl
@[simp] theorem State.setStepResult_readData (v : StepResult) : (s.setStepResult v).readData = s.readData := rfl
@[simp] theorem State.setStepResult_engine (v : StepResult) : (s.setStepResult v).engine = s.engine := rfl
@[simp] theorem State.setStepResult_stepResult (v : StepResult) : (s.setStepResult v).stepResult = v := rfl
@[simp] theorem State.setStepResult_faultCode (v : StepResult) : (s.setStepResult v).faultCode = s.faultCode := rfl
@[simp] theorem State.setStepResult_faultDetail (v : StepResult) : (s.setStepResult v).faultDetail = s.faultDetail := rfl
@[simp] theorem State.setStepResult_ignored (v : StepResult) : (s.setStepResult v).ignored = s.ignored := rfl
@[simp] theorem State.setStepResult_resetLow (v : StepResult) : (s.setStepResult v).resetLow = s.resetLow := rfl
@[simp] theorem State.setStepResult_taken (v : StepResult) : (s.setStepResult v).taken = s.taken := rfl
@[simp] theorem State.setStepResult_done (v : StepResult) : (s.setStepResult v).done = s.done := rfl
@[simp] theorem State.setStepResult_tickPending (v : StepResult) : (s.setStepResult v).tickPending = s.tickPending := rfl
@[simp] theorem State.setStepResult_idleTotal (v : StepResult) : (s.setStepResult v).idleTotal = s.idleTotal := rfl
@[simp] theorem State.setStepResult_overloadTotal (v : StepResult) : (s.setStepResult v).overloadTotal = s.overloadTotal := rfl
@[simp] theorem State.setStepResult_dropTotal (v : StepResult) : (s.setStepResult v).dropTotal = s.dropTotal := rfl
@[simp] theorem State.setStepResult_gapTotal (v : StepResult) : (s.setStepResult v).gapTotal = s.gapTotal := rfl
@[simp] theorem State.setStepResult_pendIdle (v : StepResult) : (s.setStepResult v).pendIdle = s.pendIdle := rfl
@[simp] theorem State.setStepResult_pendOverload (v : StepResult) : (s.setStepResult v).pendOverload = s.pendOverload := rfl
@[simp] theorem State.setStepResult_pendDropped (v : StepResult) : (s.setStepResult v).pendDropped = s.pendDropped := rfl
@[simp] theorem State.setStepResult_pendGap (v : StepResult) : (s.setStepResult v).pendGap = s.pendGap := rfl
@[simp] theorem State.setStepResult_notice (v : StepResult) : (s.setStepResult v).notice = s.notice := rfl
@[simp] theorem State.setStepResult_geo (v : StepResult) : (s.setStepResult v).geo = s.geo := rfl
@[simp] theorem State.setStepResult_anchor (v : StepResult) : (s.setStepResult v).anchor = s.anchor := rfl
@[simp] theorem State.setStepResult_intake (v : StepResult) : (s.setStepResult v).intake = s.intake := rfl
@[simp] theorem State.setStepResult_stepDue (v : StepResult) : (s.setStepResult v).stepDue = s.stepDue := rfl
@[simp] theorem State.setStepResult_table (v : StepResult) : (s.setStepResult v).table = s.table := rfl
@[simp] theorem State.setStepResult_history (v : StepResult) : (s.setStepResult v).history = s.history := rfl
@[simp] theorem State.setStepResult_flight (v : StepResult) : (s.setStepResult v).flight = s.flight := rfl
@[simp] theorem State.setStepResult_channels (v : StepResult) : (s.setStepResult v).channels = s.channels := rfl
@[simp] theorem State.setStepResult_pool (v : StepResult) : (s.setStepResult v).pool = s.pool := rfl
@[simp] theorem State.setStepResult_alloc (v : StepResult) : (s.setStepResult v).alloc = s.alloc := rfl
@[simp] theorem State.setStepResult_queue (v : StepResult) : (s.setStepResult v).queue = s.queue := rfl
@[simp] theorem State.setStepResult_transfer (v : StepResult) : (s.setStepResult v).transfer = s.transfer := rfl
@[simp] theorem State.setStepResult_lock (v : StepResult) : (s.setStepResult v).lock = s.lock := rfl
@[simp] theorem State.setStepResult_mem (v : StepResult) : (s.setStepResult v).mem = s.mem := rfl
@[simp] theorem State.setStepResult_bus (v : StepResult) : (s.setStepResult v).bus = s.bus := rfl
@[simp] theorem State.setStepResult_grants (v : StepResult) : (s.setStepResult v).grants = s.grants := rfl
@[simp] theorem State.setStepResult_free (v : StepResult) : (s.setStepResult v).free = s.free := rfl

/-! ### State.setTickPending -/

@[simp] theorem State.setTickPending_pending (v : Bool) : (s.setTickPending v).pending = s.pending := rfl
@[simp] theorem State.setTickPending_xbase (v : Bool) : (s.setTickPending v).xbase = s.xbase := rfl
@[simp] theorem State.setTickPending_readData (v : Bool) : (s.setTickPending v).readData = s.readData := rfl
@[simp] theorem State.setTickPending_engine (v : Bool) : (s.setTickPending v).engine = s.engine := rfl
@[simp] theorem State.setTickPending_stepResult (v : Bool) : (s.setTickPending v).stepResult = s.stepResult := rfl
@[simp] theorem State.setTickPending_faultCode (v : Bool) : (s.setTickPending v).faultCode = s.faultCode := rfl
@[simp] theorem State.setTickPending_faultDetail (v : Bool) : (s.setTickPending v).faultDetail = s.faultDetail := rfl
@[simp] theorem State.setTickPending_ignored (v : Bool) : (s.setTickPending v).ignored = s.ignored := rfl
@[simp] theorem State.setTickPending_resetLow (v : Bool) : (s.setTickPending v).resetLow = s.resetLow := rfl
@[simp] theorem State.setTickPending_taken (v : Bool) : (s.setTickPending v).taken = s.taken := rfl
@[simp] theorem State.setTickPending_done (v : Bool) : (s.setTickPending v).done = s.done := rfl
@[simp] theorem State.setTickPending_tickPending (v : Bool) : (s.setTickPending v).tickPending = v := rfl
@[simp] theorem State.setTickPending_idleTotal (v : Bool) : (s.setTickPending v).idleTotal = s.idleTotal := rfl
@[simp] theorem State.setTickPending_overloadTotal (v : Bool) : (s.setTickPending v).overloadTotal = s.overloadTotal := rfl
@[simp] theorem State.setTickPending_dropTotal (v : Bool) : (s.setTickPending v).dropTotal = s.dropTotal := rfl
@[simp] theorem State.setTickPending_gapTotal (v : Bool) : (s.setTickPending v).gapTotal = s.gapTotal := rfl
@[simp] theorem State.setTickPending_pendIdle (v : Bool) : (s.setTickPending v).pendIdle = s.pendIdle := rfl
@[simp] theorem State.setTickPending_pendOverload (v : Bool) : (s.setTickPending v).pendOverload = s.pendOverload := rfl
@[simp] theorem State.setTickPending_pendDropped (v : Bool) : (s.setTickPending v).pendDropped = s.pendDropped := rfl
@[simp] theorem State.setTickPending_pendGap (v : Bool) : (s.setTickPending v).pendGap = s.pendGap := rfl
@[simp] theorem State.setTickPending_notice (v : Bool) : (s.setTickPending v).notice = s.notice := rfl
@[simp] theorem State.setTickPending_geo (v : Bool) : (s.setTickPending v).geo = s.geo := rfl
@[simp] theorem State.setTickPending_anchor (v : Bool) : (s.setTickPending v).anchor = s.anchor := rfl
@[simp] theorem State.setTickPending_intake (v : Bool) : (s.setTickPending v).intake = s.intake := rfl
@[simp] theorem State.setTickPending_stepDue (v : Bool) : (s.setTickPending v).stepDue = s.stepDue := rfl
@[simp] theorem State.setTickPending_table (v : Bool) : (s.setTickPending v).table = s.table := rfl
@[simp] theorem State.setTickPending_history (v : Bool) : (s.setTickPending v).history = s.history := rfl
@[simp] theorem State.setTickPending_flight (v : Bool) : (s.setTickPending v).flight = s.flight := rfl
@[simp] theorem State.setTickPending_channels (v : Bool) : (s.setTickPending v).channels = s.channels := rfl
@[simp] theorem State.setTickPending_pool (v : Bool) : (s.setTickPending v).pool = s.pool := rfl
@[simp] theorem State.setTickPending_alloc (v : Bool) : (s.setTickPending v).alloc = s.alloc := rfl
@[simp] theorem State.setTickPending_queue (v : Bool) : (s.setTickPending v).queue = s.queue := rfl
@[simp] theorem State.setTickPending_transfer (v : Bool) : (s.setTickPending v).transfer = s.transfer := rfl
@[simp] theorem State.setTickPending_lock (v : Bool) : (s.setTickPending v).lock = s.lock := rfl
@[simp] theorem State.setTickPending_mem (v : Bool) : (s.setTickPending v).mem = s.mem := rfl
@[simp] theorem State.setTickPending_bus (v : Bool) : (s.setTickPending v).bus = s.bus := rfl
@[simp] theorem State.setTickPending_grants (v : Bool) : (s.setTickPending v).grants = s.grants := rfl
@[simp] theorem State.setTickPending_free (v : Bool) : (s.setTickPending v).free = s.free := rfl

/-! ### State.setStepDue -/

@[simp] theorem State.setStepDue_pending (v : Bool) : (s.setStepDue v).pending = s.pending := rfl
@[simp] theorem State.setStepDue_xbase (v : Bool) : (s.setStepDue v).xbase = s.xbase := rfl
@[simp] theorem State.setStepDue_readData (v : Bool) : (s.setStepDue v).readData = s.readData := rfl
@[simp] theorem State.setStepDue_engine (v : Bool) : (s.setStepDue v).engine = s.engine := rfl
@[simp] theorem State.setStepDue_stepResult (v : Bool) : (s.setStepDue v).stepResult = s.stepResult := rfl
@[simp] theorem State.setStepDue_faultCode (v : Bool) : (s.setStepDue v).faultCode = s.faultCode := rfl
@[simp] theorem State.setStepDue_faultDetail (v : Bool) : (s.setStepDue v).faultDetail = s.faultDetail := rfl
@[simp] theorem State.setStepDue_ignored (v : Bool) : (s.setStepDue v).ignored = s.ignored := rfl
@[simp] theorem State.setStepDue_resetLow (v : Bool) : (s.setStepDue v).resetLow = s.resetLow := rfl
@[simp] theorem State.setStepDue_taken (v : Bool) : (s.setStepDue v).taken = s.taken := rfl
@[simp] theorem State.setStepDue_done (v : Bool) : (s.setStepDue v).done = s.done := rfl
@[simp] theorem State.setStepDue_tickPending (v : Bool) : (s.setStepDue v).tickPending = s.tickPending := rfl
@[simp] theorem State.setStepDue_idleTotal (v : Bool) : (s.setStepDue v).idleTotal = s.idleTotal := rfl
@[simp] theorem State.setStepDue_overloadTotal (v : Bool) : (s.setStepDue v).overloadTotal = s.overloadTotal := rfl
@[simp] theorem State.setStepDue_dropTotal (v : Bool) : (s.setStepDue v).dropTotal = s.dropTotal := rfl
@[simp] theorem State.setStepDue_gapTotal (v : Bool) : (s.setStepDue v).gapTotal = s.gapTotal := rfl
@[simp] theorem State.setStepDue_pendIdle (v : Bool) : (s.setStepDue v).pendIdle = s.pendIdle := rfl
@[simp] theorem State.setStepDue_pendOverload (v : Bool) : (s.setStepDue v).pendOverload = s.pendOverload := rfl
@[simp] theorem State.setStepDue_pendDropped (v : Bool) : (s.setStepDue v).pendDropped = s.pendDropped := rfl
@[simp] theorem State.setStepDue_pendGap (v : Bool) : (s.setStepDue v).pendGap = s.pendGap := rfl
@[simp] theorem State.setStepDue_notice (v : Bool) : (s.setStepDue v).notice = s.notice := rfl
@[simp] theorem State.setStepDue_geo (v : Bool) : (s.setStepDue v).geo = s.geo := rfl
@[simp] theorem State.setStepDue_anchor (v : Bool) : (s.setStepDue v).anchor = s.anchor := rfl
@[simp] theorem State.setStepDue_intake (v : Bool) : (s.setStepDue v).intake = s.intake := rfl
@[simp] theorem State.setStepDue_stepDue (v : Bool) : (s.setStepDue v).stepDue = v := rfl
@[simp] theorem State.setStepDue_table (v : Bool) : (s.setStepDue v).table = s.table := rfl
@[simp] theorem State.setStepDue_history (v : Bool) : (s.setStepDue v).history = s.history := rfl
@[simp] theorem State.setStepDue_flight (v : Bool) : (s.setStepDue v).flight = s.flight := rfl
@[simp] theorem State.setStepDue_channels (v : Bool) : (s.setStepDue v).channels = s.channels := rfl
@[simp] theorem State.setStepDue_pool (v : Bool) : (s.setStepDue v).pool = s.pool := rfl
@[simp] theorem State.setStepDue_alloc (v : Bool) : (s.setStepDue v).alloc = s.alloc := rfl
@[simp] theorem State.setStepDue_queue (v : Bool) : (s.setStepDue v).queue = s.queue := rfl
@[simp] theorem State.setStepDue_transfer (v : Bool) : (s.setStepDue v).transfer = s.transfer := rfl
@[simp] theorem State.setStepDue_lock (v : Bool) : (s.setStepDue v).lock = s.lock := rfl
@[simp] theorem State.setStepDue_mem (v : Bool) : (s.setStepDue v).mem = s.mem := rfl
@[simp] theorem State.setStepDue_bus (v : Bool) : (s.setStepDue v).bus = s.bus := rfl
@[simp] theorem State.setStepDue_grants (v : Bool) : (s.setStepDue v).grants = s.grants := rfl
@[simp] theorem State.setStepDue_free (v : Bool) : (s.setStepDue v).free = s.free := rfl

/-! ### State.setNotice -/

@[simp] theorem State.setNotice_pending (v : Bool) : (s.setNotice v).pending = s.pending := rfl
@[simp] theorem State.setNotice_xbase (v : Bool) : (s.setNotice v).xbase = s.xbase := rfl
@[simp] theorem State.setNotice_readData (v : Bool) : (s.setNotice v).readData = s.readData := rfl
@[simp] theorem State.setNotice_engine (v : Bool) : (s.setNotice v).engine = s.engine := rfl
@[simp] theorem State.setNotice_stepResult (v : Bool) : (s.setNotice v).stepResult = s.stepResult := rfl
@[simp] theorem State.setNotice_faultCode (v : Bool) : (s.setNotice v).faultCode = s.faultCode := rfl
@[simp] theorem State.setNotice_faultDetail (v : Bool) : (s.setNotice v).faultDetail = s.faultDetail := rfl
@[simp] theorem State.setNotice_ignored (v : Bool) : (s.setNotice v).ignored = s.ignored := rfl
@[simp] theorem State.setNotice_resetLow (v : Bool) : (s.setNotice v).resetLow = s.resetLow := rfl
@[simp] theorem State.setNotice_taken (v : Bool) : (s.setNotice v).taken = s.taken := rfl
@[simp] theorem State.setNotice_done (v : Bool) : (s.setNotice v).done = s.done := rfl
@[simp] theorem State.setNotice_tickPending (v : Bool) : (s.setNotice v).tickPending = s.tickPending := rfl
@[simp] theorem State.setNotice_idleTotal (v : Bool) : (s.setNotice v).idleTotal = s.idleTotal := rfl
@[simp] theorem State.setNotice_overloadTotal (v : Bool) : (s.setNotice v).overloadTotal = s.overloadTotal := rfl
@[simp] theorem State.setNotice_dropTotal (v : Bool) : (s.setNotice v).dropTotal = s.dropTotal := rfl
@[simp] theorem State.setNotice_gapTotal (v : Bool) : (s.setNotice v).gapTotal = s.gapTotal := rfl
@[simp] theorem State.setNotice_pendIdle (v : Bool) : (s.setNotice v).pendIdle = s.pendIdle := rfl
@[simp] theorem State.setNotice_pendOverload (v : Bool) : (s.setNotice v).pendOverload = s.pendOverload := rfl
@[simp] theorem State.setNotice_pendDropped (v : Bool) : (s.setNotice v).pendDropped = s.pendDropped := rfl
@[simp] theorem State.setNotice_pendGap (v : Bool) : (s.setNotice v).pendGap = s.pendGap := rfl
@[simp] theorem State.setNotice_notice (v : Bool) : (s.setNotice v).notice = v := rfl
@[simp] theorem State.setNotice_geo (v : Bool) : (s.setNotice v).geo = s.geo := rfl
@[simp] theorem State.setNotice_anchor (v : Bool) : (s.setNotice v).anchor = s.anchor := rfl
@[simp] theorem State.setNotice_intake (v : Bool) : (s.setNotice v).intake = s.intake := rfl
@[simp] theorem State.setNotice_stepDue (v : Bool) : (s.setNotice v).stepDue = s.stepDue := rfl
@[simp] theorem State.setNotice_table (v : Bool) : (s.setNotice v).table = s.table := rfl
@[simp] theorem State.setNotice_history (v : Bool) : (s.setNotice v).history = s.history := rfl
@[simp] theorem State.setNotice_flight (v : Bool) : (s.setNotice v).flight = s.flight := rfl
@[simp] theorem State.setNotice_channels (v : Bool) : (s.setNotice v).channels = s.channels := rfl
@[simp] theorem State.setNotice_pool (v : Bool) : (s.setNotice v).pool = s.pool := rfl
@[simp] theorem State.setNotice_alloc (v : Bool) : (s.setNotice v).alloc = s.alloc := rfl
@[simp] theorem State.setNotice_queue (v : Bool) : (s.setNotice v).queue = s.queue := rfl
@[simp] theorem State.setNotice_transfer (v : Bool) : (s.setNotice v).transfer = s.transfer := rfl
@[simp] theorem State.setNotice_lock (v : Bool) : (s.setNotice v).lock = s.lock := rfl
@[simp] theorem State.setNotice_mem (v : Bool) : (s.setNotice v).mem = s.mem := rfl
@[simp] theorem State.setNotice_bus (v : Bool) : (s.setNotice v).bus = s.bus := rfl
@[simp] theorem State.setNotice_grants (v : Bool) : (s.setNotice v).grants = s.grants := rfl
@[simp] theorem State.setNotice_free (v : Bool) : (s.setNotice v).free = s.free := rfl

/-! ### State.setTaken -/

@[simp] theorem State.setTaken_pending (v : Word) : (s.setTaken v).pending = s.pending := rfl
@[simp] theorem State.setTaken_xbase (v : Word) : (s.setTaken v).xbase = s.xbase := rfl
@[simp] theorem State.setTaken_readData (v : Word) : (s.setTaken v).readData = s.readData := rfl
@[simp] theorem State.setTaken_engine (v : Word) : (s.setTaken v).engine = s.engine := rfl
@[simp] theorem State.setTaken_stepResult (v : Word) : (s.setTaken v).stepResult = s.stepResult := rfl
@[simp] theorem State.setTaken_faultCode (v : Word) : (s.setTaken v).faultCode = s.faultCode := rfl
@[simp] theorem State.setTaken_faultDetail (v : Word) : (s.setTaken v).faultDetail = s.faultDetail := rfl
@[simp] theorem State.setTaken_ignored (v : Word) : (s.setTaken v).ignored = s.ignored := rfl
@[simp] theorem State.setTaken_resetLow (v : Word) : (s.setTaken v).resetLow = s.resetLow := rfl
@[simp] theorem State.setTaken_taken (v : Word) : (s.setTaken v).taken = v := rfl
@[simp] theorem State.setTaken_done (v : Word) : (s.setTaken v).done = s.done := rfl
@[simp] theorem State.setTaken_tickPending (v : Word) : (s.setTaken v).tickPending = s.tickPending := rfl
@[simp] theorem State.setTaken_idleTotal (v : Word) : (s.setTaken v).idleTotal = s.idleTotal := rfl
@[simp] theorem State.setTaken_overloadTotal (v : Word) : (s.setTaken v).overloadTotal = s.overloadTotal := rfl
@[simp] theorem State.setTaken_dropTotal (v : Word) : (s.setTaken v).dropTotal = s.dropTotal := rfl
@[simp] theorem State.setTaken_gapTotal (v : Word) : (s.setTaken v).gapTotal = s.gapTotal := rfl
@[simp] theorem State.setTaken_pendIdle (v : Word) : (s.setTaken v).pendIdle = s.pendIdle := rfl
@[simp] theorem State.setTaken_pendOverload (v : Word) : (s.setTaken v).pendOverload = s.pendOverload := rfl
@[simp] theorem State.setTaken_pendDropped (v : Word) : (s.setTaken v).pendDropped = s.pendDropped := rfl
@[simp] theorem State.setTaken_pendGap (v : Word) : (s.setTaken v).pendGap = s.pendGap := rfl
@[simp] theorem State.setTaken_notice (v : Word) : (s.setTaken v).notice = s.notice := rfl
@[simp] theorem State.setTaken_geo (v : Word) : (s.setTaken v).geo = s.geo := rfl
@[simp] theorem State.setTaken_anchor (v : Word) : (s.setTaken v).anchor = s.anchor := rfl
@[simp] theorem State.setTaken_intake (v : Word) : (s.setTaken v).intake = s.intake := rfl
@[simp] theorem State.setTaken_stepDue (v : Word) : (s.setTaken v).stepDue = s.stepDue := rfl
@[simp] theorem State.setTaken_table (v : Word) : (s.setTaken v).table = s.table := rfl
@[simp] theorem State.setTaken_history (v : Word) : (s.setTaken v).history = s.history := rfl
@[simp] theorem State.setTaken_flight (v : Word) : (s.setTaken v).flight = s.flight := rfl
@[simp] theorem State.setTaken_channels (v : Word) : (s.setTaken v).channels = s.channels := rfl
@[simp] theorem State.setTaken_pool (v : Word) : (s.setTaken v).pool = s.pool := rfl
@[simp] theorem State.setTaken_alloc (v : Word) : (s.setTaken v).alloc = s.alloc := rfl
@[simp] theorem State.setTaken_queue (v : Word) : (s.setTaken v).queue = s.queue := rfl
@[simp] theorem State.setTaken_transfer (v : Word) : (s.setTaken v).transfer = s.transfer := rfl
@[simp] theorem State.setTaken_lock (v : Word) : (s.setTaken v).lock = s.lock := rfl
@[simp] theorem State.setTaken_mem (v : Word) : (s.setTaken v).mem = s.mem := rfl
@[simp] theorem State.setTaken_bus (v : Word) : (s.setTaken v).bus = s.bus := rfl
@[simp] theorem State.setTaken_grants (v : Word) : (s.setTaken v).grants = s.grants := rfl
@[simp] theorem State.setTaken_free (v : Word) : (s.setTaken v).free = s.free := rfl

/-! ### State.setDone -/

@[simp] theorem State.setDone_pending (v : Word) : (s.setDone v).pending = s.pending := rfl
@[simp] theorem State.setDone_xbase (v : Word) : (s.setDone v).xbase = s.xbase := rfl
@[simp] theorem State.setDone_readData (v : Word) : (s.setDone v).readData = s.readData := rfl
@[simp] theorem State.setDone_engine (v : Word) : (s.setDone v).engine = s.engine := rfl
@[simp] theorem State.setDone_stepResult (v : Word) : (s.setDone v).stepResult = s.stepResult := rfl
@[simp] theorem State.setDone_faultCode (v : Word) : (s.setDone v).faultCode = s.faultCode := rfl
@[simp] theorem State.setDone_faultDetail (v : Word) : (s.setDone v).faultDetail = s.faultDetail := rfl
@[simp] theorem State.setDone_ignored (v : Word) : (s.setDone v).ignored = s.ignored := rfl
@[simp] theorem State.setDone_resetLow (v : Word) : (s.setDone v).resetLow = s.resetLow := rfl
@[simp] theorem State.setDone_taken (v : Word) : (s.setDone v).taken = s.taken := rfl
@[simp] theorem State.setDone_done (v : Word) : (s.setDone v).done = v := rfl
@[simp] theorem State.setDone_tickPending (v : Word) : (s.setDone v).tickPending = s.tickPending := rfl
@[simp] theorem State.setDone_idleTotal (v : Word) : (s.setDone v).idleTotal = s.idleTotal := rfl
@[simp] theorem State.setDone_overloadTotal (v : Word) : (s.setDone v).overloadTotal = s.overloadTotal := rfl
@[simp] theorem State.setDone_dropTotal (v : Word) : (s.setDone v).dropTotal = s.dropTotal := rfl
@[simp] theorem State.setDone_gapTotal (v : Word) : (s.setDone v).gapTotal = s.gapTotal := rfl
@[simp] theorem State.setDone_pendIdle (v : Word) : (s.setDone v).pendIdle = s.pendIdle := rfl
@[simp] theorem State.setDone_pendOverload (v : Word) : (s.setDone v).pendOverload = s.pendOverload := rfl
@[simp] theorem State.setDone_pendDropped (v : Word) : (s.setDone v).pendDropped = s.pendDropped := rfl
@[simp] theorem State.setDone_pendGap (v : Word) : (s.setDone v).pendGap = s.pendGap := rfl
@[simp] theorem State.setDone_notice (v : Word) : (s.setDone v).notice = s.notice := rfl
@[simp] theorem State.setDone_geo (v : Word) : (s.setDone v).geo = s.geo := rfl
@[simp] theorem State.setDone_anchor (v : Word) : (s.setDone v).anchor = s.anchor := rfl
@[simp] theorem State.setDone_intake (v : Word) : (s.setDone v).intake = s.intake := rfl
@[simp] theorem State.setDone_stepDue (v : Word) : (s.setDone v).stepDue = s.stepDue := rfl
@[simp] theorem State.setDone_table (v : Word) : (s.setDone v).table = s.table := rfl
@[simp] theorem State.setDone_history (v : Word) : (s.setDone v).history = s.history := rfl
@[simp] theorem State.setDone_flight (v : Word) : (s.setDone v).flight = s.flight := rfl
@[simp] theorem State.setDone_channels (v : Word) : (s.setDone v).channels = s.channels := rfl
@[simp] theorem State.setDone_pool (v : Word) : (s.setDone v).pool = s.pool := rfl
@[simp] theorem State.setDone_alloc (v : Word) : (s.setDone v).alloc = s.alloc := rfl
@[simp] theorem State.setDone_queue (v : Word) : (s.setDone v).queue = s.queue := rfl
@[simp] theorem State.setDone_transfer (v : Word) : (s.setDone v).transfer = s.transfer := rfl
@[simp] theorem State.setDone_lock (v : Word) : (s.setDone v).lock = s.lock := rfl
@[simp] theorem State.setDone_mem (v : Word) : (s.setDone v).mem = s.mem := rfl
@[simp] theorem State.setDone_bus (v : Word) : (s.setDone v).bus = s.bus := rfl
@[simp] theorem State.setDone_grants (v : Word) : (s.setDone v).grants = s.grants := rfl
@[simp] theorem State.setDone_free (v : Word) : (s.setDone v).free = s.free := rfl

/-! ### State.setFlight -/

@[simp] theorem State.setFlight_pending (v : Option Flight) : (s.setFlight v).pending = s.pending := rfl
@[simp] theorem State.setFlight_xbase (v : Option Flight) : (s.setFlight v).xbase = s.xbase := rfl
@[simp] theorem State.setFlight_readData (v : Option Flight) : (s.setFlight v).readData = s.readData := rfl
@[simp] theorem State.setFlight_engine (v : Option Flight) : (s.setFlight v).engine = s.engine := rfl
@[simp] theorem State.setFlight_stepResult (v : Option Flight) : (s.setFlight v).stepResult = s.stepResult := rfl
@[simp] theorem State.setFlight_faultCode (v : Option Flight) : (s.setFlight v).faultCode = s.faultCode := rfl
@[simp] theorem State.setFlight_faultDetail (v : Option Flight) : (s.setFlight v).faultDetail = s.faultDetail := rfl
@[simp] theorem State.setFlight_ignored (v : Option Flight) : (s.setFlight v).ignored = s.ignored := rfl
@[simp] theorem State.setFlight_resetLow (v : Option Flight) : (s.setFlight v).resetLow = s.resetLow := rfl
@[simp] theorem State.setFlight_taken (v : Option Flight) : (s.setFlight v).taken = s.taken := rfl
@[simp] theorem State.setFlight_done (v : Option Flight) : (s.setFlight v).done = s.done := rfl
@[simp] theorem State.setFlight_tickPending (v : Option Flight) : (s.setFlight v).tickPending = s.tickPending := rfl
@[simp] theorem State.setFlight_idleTotal (v : Option Flight) : (s.setFlight v).idleTotal = s.idleTotal := rfl
@[simp] theorem State.setFlight_overloadTotal (v : Option Flight) : (s.setFlight v).overloadTotal = s.overloadTotal := rfl
@[simp] theorem State.setFlight_dropTotal (v : Option Flight) : (s.setFlight v).dropTotal = s.dropTotal := rfl
@[simp] theorem State.setFlight_gapTotal (v : Option Flight) : (s.setFlight v).gapTotal = s.gapTotal := rfl
@[simp] theorem State.setFlight_pendIdle (v : Option Flight) : (s.setFlight v).pendIdle = s.pendIdle := rfl
@[simp] theorem State.setFlight_pendOverload (v : Option Flight) : (s.setFlight v).pendOverload = s.pendOverload := rfl
@[simp] theorem State.setFlight_pendDropped (v : Option Flight) : (s.setFlight v).pendDropped = s.pendDropped := rfl
@[simp] theorem State.setFlight_pendGap (v : Option Flight) : (s.setFlight v).pendGap = s.pendGap := rfl
@[simp] theorem State.setFlight_notice (v : Option Flight) : (s.setFlight v).notice = s.notice := rfl
@[simp] theorem State.setFlight_geo (v : Option Flight) : (s.setFlight v).geo = s.geo := rfl
@[simp] theorem State.setFlight_anchor (v : Option Flight) : (s.setFlight v).anchor = s.anchor := rfl
@[simp] theorem State.setFlight_intake (v : Option Flight) : (s.setFlight v).intake = s.intake := rfl
@[simp] theorem State.setFlight_stepDue (v : Option Flight) : (s.setFlight v).stepDue = s.stepDue := rfl
@[simp] theorem State.setFlight_table (v : Option Flight) : (s.setFlight v).table = s.table := rfl
@[simp] theorem State.setFlight_history (v : Option Flight) : (s.setFlight v).history = s.history := rfl
@[simp] theorem State.setFlight_flight (v : Option Flight) : (s.setFlight v).flight = v := rfl
@[simp] theorem State.setFlight_channels (v : Option Flight) : (s.setFlight v).channels = s.channels := rfl
@[simp] theorem State.setFlight_pool (v : Option Flight) : (s.setFlight v).pool = s.pool := rfl
@[simp] theorem State.setFlight_alloc (v : Option Flight) : (s.setFlight v).alloc = s.alloc := rfl
@[simp] theorem State.setFlight_queue (v : Option Flight) : (s.setFlight v).queue = s.queue := rfl
@[simp] theorem State.setFlight_transfer (v : Option Flight) : (s.setFlight v).transfer = s.transfer := rfl
@[simp] theorem State.setFlight_lock (v : Option Flight) : (s.setFlight v).lock = s.lock := rfl
@[simp] theorem State.setFlight_mem (v : Option Flight) : (s.setFlight v).mem = s.mem := rfl
@[simp] theorem State.setFlight_bus (v : Option Flight) : (s.setFlight v).bus = s.bus := rfl
@[simp] theorem State.setFlight_grants (v : Option Flight) : (s.setFlight v).grants = s.grants := rfl
@[simp] theorem State.setFlight_free (v : Option Flight) : (s.setFlight v).free = s.free := rfl

/-! ### State.setTransfer -/

@[simp] theorem State.setTransfer_pending (v : Option Transfer) : (s.setTransfer v).pending = s.pending := rfl
@[simp] theorem State.setTransfer_xbase (v : Option Transfer) : (s.setTransfer v).xbase = s.xbase := rfl
@[simp] theorem State.setTransfer_readData (v : Option Transfer) : (s.setTransfer v).readData = s.readData := rfl
@[simp] theorem State.setTransfer_engine (v : Option Transfer) : (s.setTransfer v).engine = s.engine := rfl
@[simp] theorem State.setTransfer_stepResult (v : Option Transfer) : (s.setTransfer v).stepResult = s.stepResult := rfl
@[simp] theorem State.setTransfer_faultCode (v : Option Transfer) : (s.setTransfer v).faultCode = s.faultCode := rfl
@[simp] theorem State.setTransfer_faultDetail (v : Option Transfer) : (s.setTransfer v).faultDetail = s.faultDetail := rfl
@[simp] theorem State.setTransfer_ignored (v : Option Transfer) : (s.setTransfer v).ignored = s.ignored := rfl
@[simp] theorem State.setTransfer_resetLow (v : Option Transfer) : (s.setTransfer v).resetLow = s.resetLow := rfl
@[simp] theorem State.setTransfer_taken (v : Option Transfer) : (s.setTransfer v).taken = s.taken := rfl
@[simp] theorem State.setTransfer_done (v : Option Transfer) : (s.setTransfer v).done = s.done := rfl
@[simp] theorem State.setTransfer_tickPending (v : Option Transfer) : (s.setTransfer v).tickPending = s.tickPending := rfl
@[simp] theorem State.setTransfer_idleTotal (v : Option Transfer) : (s.setTransfer v).idleTotal = s.idleTotal := rfl
@[simp] theorem State.setTransfer_overloadTotal (v : Option Transfer) : (s.setTransfer v).overloadTotal = s.overloadTotal := rfl
@[simp] theorem State.setTransfer_dropTotal (v : Option Transfer) : (s.setTransfer v).dropTotal = s.dropTotal := rfl
@[simp] theorem State.setTransfer_gapTotal (v : Option Transfer) : (s.setTransfer v).gapTotal = s.gapTotal := rfl
@[simp] theorem State.setTransfer_pendIdle (v : Option Transfer) : (s.setTransfer v).pendIdle = s.pendIdle := rfl
@[simp] theorem State.setTransfer_pendOverload (v : Option Transfer) : (s.setTransfer v).pendOverload = s.pendOverload := rfl
@[simp] theorem State.setTransfer_pendDropped (v : Option Transfer) : (s.setTransfer v).pendDropped = s.pendDropped := rfl
@[simp] theorem State.setTransfer_pendGap (v : Option Transfer) : (s.setTransfer v).pendGap = s.pendGap := rfl
@[simp] theorem State.setTransfer_notice (v : Option Transfer) : (s.setTransfer v).notice = s.notice := rfl
@[simp] theorem State.setTransfer_geo (v : Option Transfer) : (s.setTransfer v).geo = s.geo := rfl
@[simp] theorem State.setTransfer_anchor (v : Option Transfer) : (s.setTransfer v).anchor = s.anchor := rfl
@[simp] theorem State.setTransfer_intake (v : Option Transfer) : (s.setTransfer v).intake = s.intake := rfl
@[simp] theorem State.setTransfer_stepDue (v : Option Transfer) : (s.setTransfer v).stepDue = s.stepDue := rfl
@[simp] theorem State.setTransfer_table (v : Option Transfer) : (s.setTransfer v).table = s.table := rfl
@[simp] theorem State.setTransfer_history (v : Option Transfer) : (s.setTransfer v).history = s.history := rfl
@[simp] theorem State.setTransfer_flight (v : Option Transfer) : (s.setTransfer v).flight = s.flight := rfl
@[simp] theorem State.setTransfer_channels (v : Option Transfer) : (s.setTransfer v).channels = s.channels := rfl
@[simp] theorem State.setTransfer_pool (v : Option Transfer) : (s.setTransfer v).pool = s.pool := rfl
@[simp] theorem State.setTransfer_alloc (v : Option Transfer) : (s.setTransfer v).alloc = s.alloc := rfl
@[simp] theorem State.setTransfer_queue (v : Option Transfer) : (s.setTransfer v).queue = s.queue := rfl
@[simp] theorem State.setTransfer_transfer (v : Option Transfer) : (s.setTransfer v).transfer = v := rfl
@[simp] theorem State.setTransfer_lock (v : Option Transfer) : (s.setTransfer v).lock = s.lock := rfl
@[simp] theorem State.setTransfer_mem (v : Option Transfer) : (s.setTransfer v).mem = s.mem := rfl
@[simp] theorem State.setTransfer_bus (v : Option Transfer) : (s.setTransfer v).bus = s.bus := rfl
@[simp] theorem State.setTransfer_grants (v : Option Transfer) : (s.setTransfer v).grants = s.grants := rfl
@[simp] theorem State.setTransfer_free (v : Option Transfer) : (s.setTransfer v).free = s.free := rfl

/-! ### State.setIntake -/

@[simp] theorem State.setIntake_pending (v : Option Intake) : (s.setIntake v).pending = s.pending := rfl
@[simp] theorem State.setIntake_xbase (v : Option Intake) : (s.setIntake v).xbase = s.xbase := rfl
@[simp] theorem State.setIntake_readData (v : Option Intake) : (s.setIntake v).readData = s.readData := rfl
@[simp] theorem State.setIntake_engine (v : Option Intake) : (s.setIntake v).engine = s.engine := rfl
@[simp] theorem State.setIntake_stepResult (v : Option Intake) : (s.setIntake v).stepResult = s.stepResult := rfl
@[simp] theorem State.setIntake_faultCode (v : Option Intake) : (s.setIntake v).faultCode = s.faultCode := rfl
@[simp] theorem State.setIntake_faultDetail (v : Option Intake) : (s.setIntake v).faultDetail = s.faultDetail := rfl
@[simp] theorem State.setIntake_ignored (v : Option Intake) : (s.setIntake v).ignored = s.ignored := rfl
@[simp] theorem State.setIntake_resetLow (v : Option Intake) : (s.setIntake v).resetLow = s.resetLow := rfl
@[simp] theorem State.setIntake_taken (v : Option Intake) : (s.setIntake v).taken = s.taken := rfl
@[simp] theorem State.setIntake_done (v : Option Intake) : (s.setIntake v).done = s.done := rfl
@[simp] theorem State.setIntake_tickPending (v : Option Intake) : (s.setIntake v).tickPending = s.tickPending := rfl
@[simp] theorem State.setIntake_idleTotal (v : Option Intake) : (s.setIntake v).idleTotal = s.idleTotal := rfl
@[simp] theorem State.setIntake_overloadTotal (v : Option Intake) : (s.setIntake v).overloadTotal = s.overloadTotal := rfl
@[simp] theorem State.setIntake_dropTotal (v : Option Intake) : (s.setIntake v).dropTotal = s.dropTotal := rfl
@[simp] theorem State.setIntake_gapTotal (v : Option Intake) : (s.setIntake v).gapTotal = s.gapTotal := rfl
@[simp] theorem State.setIntake_pendIdle (v : Option Intake) : (s.setIntake v).pendIdle = s.pendIdle := rfl
@[simp] theorem State.setIntake_pendOverload (v : Option Intake) : (s.setIntake v).pendOverload = s.pendOverload := rfl
@[simp] theorem State.setIntake_pendDropped (v : Option Intake) : (s.setIntake v).pendDropped = s.pendDropped := rfl
@[simp] theorem State.setIntake_pendGap (v : Option Intake) : (s.setIntake v).pendGap = s.pendGap := rfl
@[simp] theorem State.setIntake_notice (v : Option Intake) : (s.setIntake v).notice = s.notice := rfl
@[simp] theorem State.setIntake_geo (v : Option Intake) : (s.setIntake v).geo = s.geo := rfl
@[simp] theorem State.setIntake_anchor (v : Option Intake) : (s.setIntake v).anchor = s.anchor := rfl
@[simp] theorem State.setIntake_intake (v : Option Intake) : (s.setIntake v).intake = v := rfl
@[simp] theorem State.setIntake_stepDue (v : Option Intake) : (s.setIntake v).stepDue = s.stepDue := rfl
@[simp] theorem State.setIntake_table (v : Option Intake) : (s.setIntake v).table = s.table := rfl
@[simp] theorem State.setIntake_history (v : Option Intake) : (s.setIntake v).history = s.history := rfl
@[simp] theorem State.setIntake_flight (v : Option Intake) : (s.setIntake v).flight = s.flight := rfl
@[simp] theorem State.setIntake_channels (v : Option Intake) : (s.setIntake v).channels = s.channels := rfl
@[simp] theorem State.setIntake_pool (v : Option Intake) : (s.setIntake v).pool = s.pool := rfl
@[simp] theorem State.setIntake_alloc (v : Option Intake) : (s.setIntake v).alloc = s.alloc := rfl
@[simp] theorem State.setIntake_queue (v : Option Intake) : (s.setIntake v).queue = s.queue := rfl
@[simp] theorem State.setIntake_transfer (v : Option Intake) : (s.setIntake v).transfer = s.transfer := rfl
@[simp] theorem State.setIntake_lock (v : Option Intake) : (s.setIntake v).lock = s.lock := rfl
@[simp] theorem State.setIntake_mem (v : Option Intake) : (s.setIntake v).mem = s.mem := rfl
@[simp] theorem State.setIntake_bus (v : Option Intake) : (s.setIntake v).bus = s.bus := rfl
@[simp] theorem State.setIntake_grants (v : Option Intake) : (s.setIntake v).grants = s.grants := rfl
@[simp] theorem State.setIntake_free (v : Option Intake) : (s.setIntake v).free = s.free := rfl

/-! ### State.setTable -/

@[simp] theorem State.setTable_pending (v : List Entry) : (s.setTable v).pending = s.pending := rfl
@[simp] theorem State.setTable_xbase (v : List Entry) : (s.setTable v).xbase = s.xbase := rfl
@[simp] theorem State.setTable_readData (v : List Entry) : (s.setTable v).readData = s.readData := rfl
@[simp] theorem State.setTable_engine (v : List Entry) : (s.setTable v).engine = s.engine := rfl
@[simp] theorem State.setTable_stepResult (v : List Entry) : (s.setTable v).stepResult = s.stepResult := rfl
@[simp] theorem State.setTable_faultCode (v : List Entry) : (s.setTable v).faultCode = s.faultCode := rfl
@[simp] theorem State.setTable_faultDetail (v : List Entry) : (s.setTable v).faultDetail = s.faultDetail := rfl
@[simp] theorem State.setTable_ignored (v : List Entry) : (s.setTable v).ignored = s.ignored := rfl
@[simp] theorem State.setTable_resetLow (v : List Entry) : (s.setTable v).resetLow = s.resetLow := rfl
@[simp] theorem State.setTable_taken (v : List Entry) : (s.setTable v).taken = s.taken := rfl
@[simp] theorem State.setTable_done (v : List Entry) : (s.setTable v).done = s.done := rfl
@[simp] theorem State.setTable_tickPending (v : List Entry) : (s.setTable v).tickPending = s.tickPending := rfl
@[simp] theorem State.setTable_idleTotal (v : List Entry) : (s.setTable v).idleTotal = s.idleTotal := rfl
@[simp] theorem State.setTable_overloadTotal (v : List Entry) : (s.setTable v).overloadTotal = s.overloadTotal := rfl
@[simp] theorem State.setTable_dropTotal (v : List Entry) : (s.setTable v).dropTotal = s.dropTotal := rfl
@[simp] theorem State.setTable_gapTotal (v : List Entry) : (s.setTable v).gapTotal = s.gapTotal := rfl
@[simp] theorem State.setTable_pendIdle (v : List Entry) : (s.setTable v).pendIdle = s.pendIdle := rfl
@[simp] theorem State.setTable_pendOverload (v : List Entry) : (s.setTable v).pendOverload = s.pendOverload := rfl
@[simp] theorem State.setTable_pendDropped (v : List Entry) : (s.setTable v).pendDropped = s.pendDropped := rfl
@[simp] theorem State.setTable_pendGap (v : List Entry) : (s.setTable v).pendGap = s.pendGap := rfl
@[simp] theorem State.setTable_notice (v : List Entry) : (s.setTable v).notice = s.notice := rfl
@[simp] theorem State.setTable_geo (v : List Entry) : (s.setTable v).geo = s.geo := rfl
@[simp] theorem State.setTable_anchor (v : List Entry) : (s.setTable v).anchor = s.anchor := rfl
@[simp] theorem State.setTable_intake (v : List Entry) : (s.setTable v).intake = s.intake := rfl
@[simp] theorem State.setTable_stepDue (v : List Entry) : (s.setTable v).stepDue = s.stepDue := rfl
@[simp] theorem State.setTable_table (v : List Entry) : (s.setTable v).table = v := rfl
@[simp] theorem State.setTable_history (v : List Entry) : (s.setTable v).history = s.history := rfl
@[simp] theorem State.setTable_flight (v : List Entry) : (s.setTable v).flight = s.flight := rfl
@[simp] theorem State.setTable_channels (v : List Entry) : (s.setTable v).channels = s.channels := rfl
@[simp] theorem State.setTable_pool (v : List Entry) : (s.setTable v).pool = s.pool := rfl
@[simp] theorem State.setTable_alloc (v : List Entry) : (s.setTable v).alloc = s.alloc := rfl
@[simp] theorem State.setTable_queue (v : List Entry) : (s.setTable v).queue = s.queue := rfl
@[simp] theorem State.setTable_transfer (v : List Entry) : (s.setTable v).transfer = s.transfer := rfl
@[simp] theorem State.setTable_lock (v : List Entry) : (s.setTable v).lock = s.lock := rfl
@[simp] theorem State.setTable_mem (v : List Entry) : (s.setTable v).mem = s.mem := rfl
@[simp] theorem State.setTable_bus (v : List Entry) : (s.setTable v).bus = s.bus := rfl
@[simp] theorem State.setTable_grants (v : List Entry) : (s.setTable v).grants = s.grants := rfl
@[simp] theorem State.setTable_free (v : List Entry) : (s.setTable v).free = s.free := rfl

/-! ### State.setQueue -/

@[simp] theorem State.setQueue_pending (v : List Nat) : (s.setQueue v).pending = s.pending := rfl
@[simp] theorem State.setQueue_xbase (v : List Nat) : (s.setQueue v).xbase = s.xbase := rfl
@[simp] theorem State.setQueue_readData (v : List Nat) : (s.setQueue v).readData = s.readData := rfl
@[simp] theorem State.setQueue_engine (v : List Nat) : (s.setQueue v).engine = s.engine := rfl
@[simp] theorem State.setQueue_stepResult (v : List Nat) : (s.setQueue v).stepResult = s.stepResult := rfl
@[simp] theorem State.setQueue_faultCode (v : List Nat) : (s.setQueue v).faultCode = s.faultCode := rfl
@[simp] theorem State.setQueue_faultDetail (v : List Nat) : (s.setQueue v).faultDetail = s.faultDetail := rfl
@[simp] theorem State.setQueue_ignored (v : List Nat) : (s.setQueue v).ignored = s.ignored := rfl
@[simp] theorem State.setQueue_resetLow (v : List Nat) : (s.setQueue v).resetLow = s.resetLow := rfl
@[simp] theorem State.setQueue_taken (v : List Nat) : (s.setQueue v).taken = s.taken := rfl
@[simp] theorem State.setQueue_done (v : List Nat) : (s.setQueue v).done = s.done := rfl
@[simp] theorem State.setQueue_tickPending (v : List Nat) : (s.setQueue v).tickPending = s.tickPending := rfl
@[simp] theorem State.setQueue_idleTotal (v : List Nat) : (s.setQueue v).idleTotal = s.idleTotal := rfl
@[simp] theorem State.setQueue_overloadTotal (v : List Nat) : (s.setQueue v).overloadTotal = s.overloadTotal := rfl
@[simp] theorem State.setQueue_dropTotal (v : List Nat) : (s.setQueue v).dropTotal = s.dropTotal := rfl
@[simp] theorem State.setQueue_gapTotal (v : List Nat) : (s.setQueue v).gapTotal = s.gapTotal := rfl
@[simp] theorem State.setQueue_pendIdle (v : List Nat) : (s.setQueue v).pendIdle = s.pendIdle := rfl
@[simp] theorem State.setQueue_pendOverload (v : List Nat) : (s.setQueue v).pendOverload = s.pendOverload := rfl
@[simp] theorem State.setQueue_pendDropped (v : List Nat) : (s.setQueue v).pendDropped = s.pendDropped := rfl
@[simp] theorem State.setQueue_pendGap (v : List Nat) : (s.setQueue v).pendGap = s.pendGap := rfl
@[simp] theorem State.setQueue_notice (v : List Nat) : (s.setQueue v).notice = s.notice := rfl
@[simp] theorem State.setQueue_geo (v : List Nat) : (s.setQueue v).geo = s.geo := rfl
@[simp] theorem State.setQueue_anchor (v : List Nat) : (s.setQueue v).anchor = s.anchor := rfl
@[simp] theorem State.setQueue_intake (v : List Nat) : (s.setQueue v).intake = s.intake := rfl
@[simp] theorem State.setQueue_stepDue (v : List Nat) : (s.setQueue v).stepDue = s.stepDue := rfl
@[simp] theorem State.setQueue_table (v : List Nat) : (s.setQueue v).table = s.table := rfl
@[simp] theorem State.setQueue_history (v : List Nat) : (s.setQueue v).history = s.history := rfl
@[simp] theorem State.setQueue_flight (v : List Nat) : (s.setQueue v).flight = s.flight := rfl
@[simp] theorem State.setQueue_channels (v : List Nat) : (s.setQueue v).channels = s.channels := rfl
@[simp] theorem State.setQueue_pool (v : List Nat) : (s.setQueue v).pool = s.pool := rfl
@[simp] theorem State.setQueue_alloc (v : List Nat) : (s.setQueue v).alloc = s.alloc := rfl
@[simp] theorem State.setQueue_queue (v : List Nat) : (s.setQueue v).queue = v := rfl
@[simp] theorem State.setQueue_transfer (v : List Nat) : (s.setQueue v).transfer = s.transfer := rfl
@[simp] theorem State.setQueue_lock (v : List Nat) : (s.setQueue v).lock = s.lock := rfl
@[simp] theorem State.setQueue_mem (v : List Nat) : (s.setQueue v).mem = s.mem := rfl
@[simp] theorem State.setQueue_bus (v : List Nat) : (s.setQueue v).bus = s.bus := rfl
@[simp] theorem State.setQueue_grants (v : List Nat) : (s.setQueue v).grants = s.grants := rfl
@[simp] theorem State.setQueue_free (v : List Nat) : (s.setQueue v).free = s.free := rfl

/-! ### State.setHistory -/

@[simp] theorem State.setHistory_pending (v : History) : (s.setHistory v).pending = s.pending := rfl
@[simp] theorem State.setHistory_xbase (v : History) : (s.setHistory v).xbase = s.xbase := rfl
@[simp] theorem State.setHistory_readData (v : History) : (s.setHistory v).readData = s.readData := rfl
@[simp] theorem State.setHistory_engine (v : History) : (s.setHistory v).engine = s.engine := rfl
@[simp] theorem State.setHistory_stepResult (v : History) : (s.setHistory v).stepResult = s.stepResult := rfl
@[simp] theorem State.setHistory_faultCode (v : History) : (s.setHistory v).faultCode = s.faultCode := rfl
@[simp] theorem State.setHistory_faultDetail (v : History) : (s.setHistory v).faultDetail = s.faultDetail := rfl
@[simp] theorem State.setHistory_ignored (v : History) : (s.setHistory v).ignored = s.ignored := rfl
@[simp] theorem State.setHistory_resetLow (v : History) : (s.setHistory v).resetLow = s.resetLow := rfl
@[simp] theorem State.setHistory_taken (v : History) : (s.setHistory v).taken = s.taken := rfl
@[simp] theorem State.setHistory_done (v : History) : (s.setHistory v).done = s.done := rfl
@[simp] theorem State.setHistory_tickPending (v : History) : (s.setHistory v).tickPending = s.tickPending := rfl
@[simp] theorem State.setHistory_idleTotal (v : History) : (s.setHistory v).idleTotal = s.idleTotal := rfl
@[simp] theorem State.setHistory_overloadTotal (v : History) : (s.setHistory v).overloadTotal = s.overloadTotal := rfl
@[simp] theorem State.setHistory_dropTotal (v : History) : (s.setHistory v).dropTotal = s.dropTotal := rfl
@[simp] theorem State.setHistory_gapTotal (v : History) : (s.setHistory v).gapTotal = s.gapTotal := rfl
@[simp] theorem State.setHistory_pendIdle (v : History) : (s.setHistory v).pendIdle = s.pendIdle := rfl
@[simp] theorem State.setHistory_pendOverload (v : History) : (s.setHistory v).pendOverload = s.pendOverload := rfl
@[simp] theorem State.setHistory_pendDropped (v : History) : (s.setHistory v).pendDropped = s.pendDropped := rfl
@[simp] theorem State.setHistory_pendGap (v : History) : (s.setHistory v).pendGap = s.pendGap := rfl
@[simp] theorem State.setHistory_notice (v : History) : (s.setHistory v).notice = s.notice := rfl
@[simp] theorem State.setHistory_geo (v : History) : (s.setHistory v).geo = s.geo := rfl
@[simp] theorem State.setHistory_anchor (v : History) : (s.setHistory v).anchor = s.anchor := rfl
@[simp] theorem State.setHistory_intake (v : History) : (s.setHistory v).intake = s.intake := rfl
@[simp] theorem State.setHistory_stepDue (v : History) : (s.setHistory v).stepDue = s.stepDue := rfl
@[simp] theorem State.setHistory_table (v : History) : (s.setHistory v).table = s.table := rfl
@[simp] theorem State.setHistory_history (v : History) : (s.setHistory v).history = v := rfl
@[simp] theorem State.setHistory_flight (v : History) : (s.setHistory v).flight = s.flight := rfl
@[simp] theorem State.setHistory_channels (v : History) : (s.setHistory v).channels = s.channels := rfl
@[simp] theorem State.setHistory_pool (v : History) : (s.setHistory v).pool = s.pool := rfl
@[simp] theorem State.setHistory_alloc (v : History) : (s.setHistory v).alloc = s.alloc := rfl
@[simp] theorem State.setHistory_queue (v : History) : (s.setHistory v).queue = s.queue := rfl
@[simp] theorem State.setHistory_transfer (v : History) : (s.setHistory v).transfer = s.transfer := rfl
@[simp] theorem State.setHistory_lock (v : History) : (s.setHistory v).lock = s.lock := rfl
@[simp] theorem State.setHistory_mem (v : History) : (s.setHistory v).mem = s.mem := rfl
@[simp] theorem State.setHistory_bus (v : History) : (s.setHistory v).bus = s.bus := rfl
@[simp] theorem State.setHistory_grants (v : History) : (s.setHistory v).grants = s.grants := rfl
@[simp] theorem State.setHistory_free (v : History) : (s.setHistory v).free = s.free := rfl

/-! ### State.setMem -/

@[simp] theorem State.setMem_pending (v : List Host.Cell) : (s.setMem v).pending = s.pending := rfl
@[simp] theorem State.setMem_xbase (v : List Host.Cell) : (s.setMem v).xbase = s.xbase := rfl
@[simp] theorem State.setMem_readData (v : List Host.Cell) : (s.setMem v).readData = s.readData := rfl
@[simp] theorem State.setMem_engine (v : List Host.Cell) : (s.setMem v).engine = s.engine := rfl
@[simp] theorem State.setMem_stepResult (v : List Host.Cell) : (s.setMem v).stepResult = s.stepResult := rfl
@[simp] theorem State.setMem_faultCode (v : List Host.Cell) : (s.setMem v).faultCode = s.faultCode := rfl
@[simp] theorem State.setMem_faultDetail (v : List Host.Cell) : (s.setMem v).faultDetail = s.faultDetail := rfl
@[simp] theorem State.setMem_ignored (v : List Host.Cell) : (s.setMem v).ignored = s.ignored := rfl
@[simp] theorem State.setMem_resetLow (v : List Host.Cell) : (s.setMem v).resetLow = s.resetLow := rfl
@[simp] theorem State.setMem_taken (v : List Host.Cell) : (s.setMem v).taken = s.taken := rfl
@[simp] theorem State.setMem_done (v : List Host.Cell) : (s.setMem v).done = s.done := rfl
@[simp] theorem State.setMem_tickPending (v : List Host.Cell) : (s.setMem v).tickPending = s.tickPending := rfl
@[simp] theorem State.setMem_idleTotal (v : List Host.Cell) : (s.setMem v).idleTotal = s.idleTotal := rfl
@[simp] theorem State.setMem_overloadTotal (v : List Host.Cell) : (s.setMem v).overloadTotal = s.overloadTotal := rfl
@[simp] theorem State.setMem_dropTotal (v : List Host.Cell) : (s.setMem v).dropTotal = s.dropTotal := rfl
@[simp] theorem State.setMem_gapTotal (v : List Host.Cell) : (s.setMem v).gapTotal = s.gapTotal := rfl
@[simp] theorem State.setMem_pendIdle (v : List Host.Cell) : (s.setMem v).pendIdle = s.pendIdle := rfl
@[simp] theorem State.setMem_pendOverload (v : List Host.Cell) : (s.setMem v).pendOverload = s.pendOverload := rfl
@[simp] theorem State.setMem_pendDropped (v : List Host.Cell) : (s.setMem v).pendDropped = s.pendDropped := rfl
@[simp] theorem State.setMem_pendGap (v : List Host.Cell) : (s.setMem v).pendGap = s.pendGap := rfl
@[simp] theorem State.setMem_notice (v : List Host.Cell) : (s.setMem v).notice = s.notice := rfl
@[simp] theorem State.setMem_geo (v : List Host.Cell) : (s.setMem v).geo = s.geo := rfl
@[simp] theorem State.setMem_anchor (v : List Host.Cell) : (s.setMem v).anchor = s.anchor := rfl
@[simp] theorem State.setMem_intake (v : List Host.Cell) : (s.setMem v).intake = s.intake := rfl
@[simp] theorem State.setMem_stepDue (v : List Host.Cell) : (s.setMem v).stepDue = s.stepDue := rfl
@[simp] theorem State.setMem_table (v : List Host.Cell) : (s.setMem v).table = s.table := rfl
@[simp] theorem State.setMem_history (v : List Host.Cell) : (s.setMem v).history = s.history := rfl
@[simp] theorem State.setMem_flight (v : List Host.Cell) : (s.setMem v).flight = s.flight := rfl
@[simp] theorem State.setMem_channels (v : List Host.Cell) : (s.setMem v).channels = s.channels := rfl
@[simp] theorem State.setMem_pool (v : List Host.Cell) : (s.setMem v).pool = s.pool := rfl
@[simp] theorem State.setMem_alloc (v : List Host.Cell) : (s.setMem v).alloc = s.alloc := rfl
@[simp] theorem State.setMem_queue (v : List Host.Cell) : (s.setMem v).queue = s.queue := rfl
@[simp] theorem State.setMem_transfer (v : List Host.Cell) : (s.setMem v).transfer = s.transfer := rfl
@[simp] theorem State.setMem_lock (v : List Host.Cell) : (s.setMem v).lock = s.lock := rfl
@[simp] theorem State.setMem_mem (v : List Host.Cell) : (s.setMem v).mem = v := rfl
@[simp] theorem State.setMem_bus (v : List Host.Cell) : (s.setMem v).bus = s.bus := rfl
@[simp] theorem State.setMem_grants (v : List Host.Cell) : (s.setMem v).grants = s.grants := rfl
@[simp] theorem State.setMem_free (v : List Host.Cell) : (s.setMem v).free = s.free := rfl

/-! ### State.setBus -/

@[simp] theorem State.setBus_pending (v : List BusError) : (s.setBus v).pending = s.pending := rfl
@[simp] theorem State.setBus_xbase (v : List BusError) : (s.setBus v).xbase = s.xbase := rfl
@[simp] theorem State.setBus_readData (v : List BusError) : (s.setBus v).readData = s.readData := rfl
@[simp] theorem State.setBus_engine (v : List BusError) : (s.setBus v).engine = s.engine := rfl
@[simp] theorem State.setBus_stepResult (v : List BusError) : (s.setBus v).stepResult = s.stepResult := rfl
@[simp] theorem State.setBus_faultCode (v : List BusError) : (s.setBus v).faultCode = s.faultCode := rfl
@[simp] theorem State.setBus_faultDetail (v : List BusError) : (s.setBus v).faultDetail = s.faultDetail := rfl
@[simp] theorem State.setBus_ignored (v : List BusError) : (s.setBus v).ignored = s.ignored := rfl
@[simp] theorem State.setBus_resetLow (v : List BusError) : (s.setBus v).resetLow = s.resetLow := rfl
@[simp] theorem State.setBus_taken (v : List BusError) : (s.setBus v).taken = s.taken := rfl
@[simp] theorem State.setBus_done (v : List BusError) : (s.setBus v).done = s.done := rfl
@[simp] theorem State.setBus_tickPending (v : List BusError) : (s.setBus v).tickPending = s.tickPending := rfl
@[simp] theorem State.setBus_idleTotal (v : List BusError) : (s.setBus v).idleTotal = s.idleTotal := rfl
@[simp] theorem State.setBus_overloadTotal (v : List BusError) : (s.setBus v).overloadTotal = s.overloadTotal := rfl
@[simp] theorem State.setBus_dropTotal (v : List BusError) : (s.setBus v).dropTotal = s.dropTotal := rfl
@[simp] theorem State.setBus_gapTotal (v : List BusError) : (s.setBus v).gapTotal = s.gapTotal := rfl
@[simp] theorem State.setBus_pendIdle (v : List BusError) : (s.setBus v).pendIdle = s.pendIdle := rfl
@[simp] theorem State.setBus_pendOverload (v : List BusError) : (s.setBus v).pendOverload = s.pendOverload := rfl
@[simp] theorem State.setBus_pendDropped (v : List BusError) : (s.setBus v).pendDropped = s.pendDropped := rfl
@[simp] theorem State.setBus_pendGap (v : List BusError) : (s.setBus v).pendGap = s.pendGap := rfl
@[simp] theorem State.setBus_notice (v : List BusError) : (s.setBus v).notice = s.notice := rfl
@[simp] theorem State.setBus_geo (v : List BusError) : (s.setBus v).geo = s.geo := rfl
@[simp] theorem State.setBus_anchor (v : List BusError) : (s.setBus v).anchor = s.anchor := rfl
@[simp] theorem State.setBus_intake (v : List BusError) : (s.setBus v).intake = s.intake := rfl
@[simp] theorem State.setBus_stepDue (v : List BusError) : (s.setBus v).stepDue = s.stepDue := rfl
@[simp] theorem State.setBus_table (v : List BusError) : (s.setBus v).table = s.table := rfl
@[simp] theorem State.setBus_history (v : List BusError) : (s.setBus v).history = s.history := rfl
@[simp] theorem State.setBus_flight (v : List BusError) : (s.setBus v).flight = s.flight := rfl
@[simp] theorem State.setBus_channels (v : List BusError) : (s.setBus v).channels = s.channels := rfl
@[simp] theorem State.setBus_pool (v : List BusError) : (s.setBus v).pool = s.pool := rfl
@[simp] theorem State.setBus_alloc (v : List BusError) : (s.setBus v).alloc = s.alloc := rfl
@[simp] theorem State.setBus_queue (v : List BusError) : (s.setBus v).queue = s.queue := rfl
@[simp] theorem State.setBus_transfer (v : List BusError) : (s.setBus v).transfer = s.transfer := rfl
@[simp] theorem State.setBus_lock (v : List BusError) : (s.setBus v).lock = s.lock := rfl
@[simp] theorem State.setBus_mem (v : List BusError) : (s.setBus v).mem = s.mem := rfl
@[simp] theorem State.setBus_bus (v : List BusError) : (s.setBus v).bus = v := rfl
@[simp] theorem State.setBus_grants (v : List BusError) : (s.setBus v).grants = s.grants := rfl
@[simp] theorem State.setBus_free (v : List BusError) : (s.setBus v).free = s.free := rfl

/-! ### State.setFree -/

@[simp] theorem State.setFree_pending (v : Nat) : (s.setFree v).pending = s.pending := rfl
@[simp] theorem State.setFree_xbase (v : Nat) : (s.setFree v).xbase = s.xbase := rfl
@[simp] theorem State.setFree_readData (v : Nat) : (s.setFree v).readData = s.readData := rfl
@[simp] theorem State.setFree_engine (v : Nat) : (s.setFree v).engine = s.engine := rfl
@[simp] theorem State.setFree_stepResult (v : Nat) : (s.setFree v).stepResult = s.stepResult := rfl
@[simp] theorem State.setFree_faultCode (v : Nat) : (s.setFree v).faultCode = s.faultCode := rfl
@[simp] theorem State.setFree_faultDetail (v : Nat) : (s.setFree v).faultDetail = s.faultDetail := rfl
@[simp] theorem State.setFree_ignored (v : Nat) : (s.setFree v).ignored = s.ignored := rfl
@[simp] theorem State.setFree_resetLow (v : Nat) : (s.setFree v).resetLow = s.resetLow := rfl
@[simp] theorem State.setFree_taken (v : Nat) : (s.setFree v).taken = s.taken := rfl
@[simp] theorem State.setFree_done (v : Nat) : (s.setFree v).done = s.done := rfl
@[simp] theorem State.setFree_tickPending (v : Nat) : (s.setFree v).tickPending = s.tickPending := rfl
@[simp] theorem State.setFree_idleTotal (v : Nat) : (s.setFree v).idleTotal = s.idleTotal := rfl
@[simp] theorem State.setFree_overloadTotal (v : Nat) : (s.setFree v).overloadTotal = s.overloadTotal := rfl
@[simp] theorem State.setFree_dropTotal (v : Nat) : (s.setFree v).dropTotal = s.dropTotal := rfl
@[simp] theorem State.setFree_gapTotal (v : Nat) : (s.setFree v).gapTotal = s.gapTotal := rfl
@[simp] theorem State.setFree_pendIdle (v : Nat) : (s.setFree v).pendIdle = s.pendIdle := rfl
@[simp] theorem State.setFree_pendOverload (v : Nat) : (s.setFree v).pendOverload = s.pendOverload := rfl
@[simp] theorem State.setFree_pendDropped (v : Nat) : (s.setFree v).pendDropped = s.pendDropped := rfl
@[simp] theorem State.setFree_pendGap (v : Nat) : (s.setFree v).pendGap = s.pendGap := rfl
@[simp] theorem State.setFree_notice (v : Nat) : (s.setFree v).notice = s.notice := rfl
@[simp] theorem State.setFree_geo (v : Nat) : (s.setFree v).geo = s.geo := rfl
@[simp] theorem State.setFree_anchor (v : Nat) : (s.setFree v).anchor = s.anchor := rfl
@[simp] theorem State.setFree_intake (v : Nat) : (s.setFree v).intake = s.intake := rfl
@[simp] theorem State.setFree_stepDue (v : Nat) : (s.setFree v).stepDue = s.stepDue := rfl
@[simp] theorem State.setFree_table (v : Nat) : (s.setFree v).table = s.table := rfl
@[simp] theorem State.setFree_history (v : Nat) : (s.setFree v).history = s.history := rfl
@[simp] theorem State.setFree_flight (v : Nat) : (s.setFree v).flight = s.flight := rfl
@[simp] theorem State.setFree_channels (v : Nat) : (s.setFree v).channels = s.channels := rfl
@[simp] theorem State.setFree_pool (v : Nat) : (s.setFree v).pool = s.pool := rfl
@[simp] theorem State.setFree_alloc (v : Nat) : (s.setFree v).alloc = s.alloc := rfl
@[simp] theorem State.setFree_queue (v : Nat) : (s.setFree v).queue = s.queue := rfl
@[simp] theorem State.setFree_transfer (v : Nat) : (s.setFree v).transfer = s.transfer := rfl
@[simp] theorem State.setFree_lock (v : Nat) : (s.setFree v).lock = s.lock := rfl
@[simp] theorem State.setFree_mem (v : Nat) : (s.setFree v).mem = s.mem := rfl
@[simp] theorem State.setFree_bus (v : Nat) : (s.setFree v).bus = s.bus := rfl
@[simp] theorem State.setFree_grants (v : Nat) : (s.setFree v).grants = s.grants := rfl
@[simp] theorem State.setFree_free (v : Nat) : (s.setFree v).free = v := rfl

/-! ### State.setGrants -/

@[simp] theorem State.setGrants_pending (v : List Nat) : (s.setGrants v).pending = s.pending := rfl
@[simp] theorem State.setGrants_xbase (v : List Nat) : (s.setGrants v).xbase = s.xbase := rfl
@[simp] theorem State.setGrants_readData (v : List Nat) : (s.setGrants v).readData = s.readData := rfl
@[simp] theorem State.setGrants_engine (v : List Nat) : (s.setGrants v).engine = s.engine := rfl
@[simp] theorem State.setGrants_stepResult (v : List Nat) : (s.setGrants v).stepResult = s.stepResult := rfl
@[simp] theorem State.setGrants_faultCode (v : List Nat) : (s.setGrants v).faultCode = s.faultCode := rfl
@[simp] theorem State.setGrants_faultDetail (v : List Nat) : (s.setGrants v).faultDetail = s.faultDetail := rfl
@[simp] theorem State.setGrants_ignored (v : List Nat) : (s.setGrants v).ignored = s.ignored := rfl
@[simp] theorem State.setGrants_resetLow (v : List Nat) : (s.setGrants v).resetLow = s.resetLow := rfl
@[simp] theorem State.setGrants_taken (v : List Nat) : (s.setGrants v).taken = s.taken := rfl
@[simp] theorem State.setGrants_done (v : List Nat) : (s.setGrants v).done = s.done := rfl
@[simp] theorem State.setGrants_tickPending (v : List Nat) : (s.setGrants v).tickPending = s.tickPending := rfl
@[simp] theorem State.setGrants_idleTotal (v : List Nat) : (s.setGrants v).idleTotal = s.idleTotal := rfl
@[simp] theorem State.setGrants_overloadTotal (v : List Nat) : (s.setGrants v).overloadTotal = s.overloadTotal := rfl
@[simp] theorem State.setGrants_dropTotal (v : List Nat) : (s.setGrants v).dropTotal = s.dropTotal := rfl
@[simp] theorem State.setGrants_gapTotal (v : List Nat) : (s.setGrants v).gapTotal = s.gapTotal := rfl
@[simp] theorem State.setGrants_pendIdle (v : List Nat) : (s.setGrants v).pendIdle = s.pendIdle := rfl
@[simp] theorem State.setGrants_pendOverload (v : List Nat) : (s.setGrants v).pendOverload = s.pendOverload := rfl
@[simp] theorem State.setGrants_pendDropped (v : List Nat) : (s.setGrants v).pendDropped = s.pendDropped := rfl
@[simp] theorem State.setGrants_pendGap (v : List Nat) : (s.setGrants v).pendGap = s.pendGap := rfl
@[simp] theorem State.setGrants_notice (v : List Nat) : (s.setGrants v).notice = s.notice := rfl
@[simp] theorem State.setGrants_geo (v : List Nat) : (s.setGrants v).geo = s.geo := rfl
@[simp] theorem State.setGrants_anchor (v : List Nat) : (s.setGrants v).anchor = s.anchor := rfl
@[simp] theorem State.setGrants_intake (v : List Nat) : (s.setGrants v).intake = s.intake := rfl
@[simp] theorem State.setGrants_stepDue (v : List Nat) : (s.setGrants v).stepDue = s.stepDue := rfl
@[simp] theorem State.setGrants_table (v : List Nat) : (s.setGrants v).table = s.table := rfl
@[simp] theorem State.setGrants_history (v : List Nat) : (s.setGrants v).history = s.history := rfl
@[simp] theorem State.setGrants_flight (v : List Nat) : (s.setGrants v).flight = s.flight := rfl
@[simp] theorem State.setGrants_channels (v : List Nat) : (s.setGrants v).channels = s.channels := rfl
@[simp] theorem State.setGrants_pool (v : List Nat) : (s.setGrants v).pool = s.pool := rfl
@[simp] theorem State.setGrants_alloc (v : List Nat) : (s.setGrants v).alloc = s.alloc := rfl
@[simp] theorem State.setGrants_queue (v : List Nat) : (s.setGrants v).queue = s.queue := rfl
@[simp] theorem State.setGrants_transfer (v : List Nat) : (s.setGrants v).transfer = s.transfer := rfl
@[simp] theorem State.setGrants_lock (v : List Nat) : (s.setGrants v).lock = s.lock := rfl
@[simp] theorem State.setGrants_mem (v : List Nat) : (s.setGrants v).mem = s.mem := rfl
@[simp] theorem State.setGrants_bus (v : List Nat) : (s.setGrants v).bus = s.bus := rfl
@[simp] theorem State.setGrants_grants (v : List Nat) : (s.setGrants v).grants = v := rfl
@[simp] theorem State.setGrants_free (v : List Nat) : (s.setGrants v).free = s.free := rfl

/-! ### State.setPool -/

@[simp] theorem State.setPool_pending (v : List (Nat × Slot)) : (s.setPool v).pending = s.pending := rfl
@[simp] theorem State.setPool_xbase (v : List (Nat × Slot)) : (s.setPool v).xbase = s.xbase := rfl
@[simp] theorem State.setPool_readData (v : List (Nat × Slot)) : (s.setPool v).readData = s.readData := rfl
@[simp] theorem State.setPool_engine (v : List (Nat × Slot)) : (s.setPool v).engine = s.engine := rfl
@[simp] theorem State.setPool_stepResult (v : List (Nat × Slot)) : (s.setPool v).stepResult = s.stepResult := rfl
@[simp] theorem State.setPool_faultCode (v : List (Nat × Slot)) : (s.setPool v).faultCode = s.faultCode := rfl
@[simp] theorem State.setPool_faultDetail (v : List (Nat × Slot)) : (s.setPool v).faultDetail = s.faultDetail := rfl
@[simp] theorem State.setPool_ignored (v : List (Nat × Slot)) : (s.setPool v).ignored = s.ignored := rfl
@[simp] theorem State.setPool_resetLow (v : List (Nat × Slot)) : (s.setPool v).resetLow = s.resetLow := rfl
@[simp] theorem State.setPool_taken (v : List (Nat × Slot)) : (s.setPool v).taken = s.taken := rfl
@[simp] theorem State.setPool_done (v : List (Nat × Slot)) : (s.setPool v).done = s.done := rfl
@[simp] theorem State.setPool_tickPending (v : List (Nat × Slot)) : (s.setPool v).tickPending = s.tickPending := rfl
@[simp] theorem State.setPool_idleTotal (v : List (Nat × Slot)) : (s.setPool v).idleTotal = s.idleTotal := rfl
@[simp] theorem State.setPool_overloadTotal (v : List (Nat × Slot)) : (s.setPool v).overloadTotal = s.overloadTotal := rfl
@[simp] theorem State.setPool_dropTotal (v : List (Nat × Slot)) : (s.setPool v).dropTotal = s.dropTotal := rfl
@[simp] theorem State.setPool_gapTotal (v : List (Nat × Slot)) : (s.setPool v).gapTotal = s.gapTotal := rfl
@[simp] theorem State.setPool_pendIdle (v : List (Nat × Slot)) : (s.setPool v).pendIdle = s.pendIdle := rfl
@[simp] theorem State.setPool_pendOverload (v : List (Nat × Slot)) : (s.setPool v).pendOverload = s.pendOverload := rfl
@[simp] theorem State.setPool_pendDropped (v : List (Nat × Slot)) : (s.setPool v).pendDropped = s.pendDropped := rfl
@[simp] theorem State.setPool_pendGap (v : List (Nat × Slot)) : (s.setPool v).pendGap = s.pendGap := rfl
@[simp] theorem State.setPool_notice (v : List (Nat × Slot)) : (s.setPool v).notice = s.notice := rfl
@[simp] theorem State.setPool_geo (v : List (Nat × Slot)) : (s.setPool v).geo = s.geo := rfl
@[simp] theorem State.setPool_anchor (v : List (Nat × Slot)) : (s.setPool v).anchor = s.anchor := rfl
@[simp] theorem State.setPool_intake (v : List (Nat × Slot)) : (s.setPool v).intake = s.intake := rfl
@[simp] theorem State.setPool_stepDue (v : List (Nat × Slot)) : (s.setPool v).stepDue = s.stepDue := rfl
@[simp] theorem State.setPool_table (v : List (Nat × Slot)) : (s.setPool v).table = s.table := rfl
@[simp] theorem State.setPool_history (v : List (Nat × Slot)) : (s.setPool v).history = s.history := rfl
@[simp] theorem State.setPool_flight (v : List (Nat × Slot)) : (s.setPool v).flight = s.flight := rfl
@[simp] theorem State.setPool_channels (v : List (Nat × Slot)) : (s.setPool v).channels = s.channels := rfl
@[simp] theorem State.setPool_pool (v : List (Nat × Slot)) : (s.setPool v).pool = v := rfl
@[simp] theorem State.setPool_alloc (v : List (Nat × Slot)) : (s.setPool v).alloc = s.alloc := rfl
@[simp] theorem State.setPool_queue (v : List (Nat × Slot)) : (s.setPool v).queue = s.queue := rfl
@[simp] theorem State.setPool_transfer (v : List (Nat × Slot)) : (s.setPool v).transfer = s.transfer := rfl
@[simp] theorem State.setPool_lock (v : List (Nat × Slot)) : (s.setPool v).lock = s.lock := rfl
@[simp] theorem State.setPool_mem (v : List (Nat × Slot)) : (s.setPool v).mem = s.mem := rfl
@[simp] theorem State.setPool_bus (v : List (Nat × Slot)) : (s.setPool v).bus = s.bus := rfl
@[simp] theorem State.setPool_grants (v : List (Nat × Slot)) : (s.setPool v).grants = s.grants := rfl
@[simp] theorem State.setPool_free (v : List (Nat × Slot)) : (s.setPool v).free = s.free := rfl

/-! ### State.resumeMover -/

@[simp] theorem State.resumeMover_pending : (s.resumeMover).pending = s.pending := rfl
@[simp] theorem State.resumeMover_xbase : (s.resumeMover).xbase = s.xbase := rfl
@[simp] theorem State.resumeMover_readData : (s.resumeMover).readData = s.readData := rfl
@[simp] theorem State.resumeMover_engine : (s.resumeMover).engine = s.engine := rfl
@[simp] theorem State.resumeMover_stepResult : (s.resumeMover).stepResult = s.stepResult := rfl
@[simp] theorem State.resumeMover_faultCode : (s.resumeMover).faultCode = s.faultCode := rfl
@[simp] theorem State.resumeMover_faultDetail : (s.resumeMover).faultDetail = s.faultDetail := rfl
@[simp] theorem State.resumeMover_ignored : (s.resumeMover).ignored = s.ignored := rfl
@[simp] theorem State.resumeMover_resetLow : (s.resumeMover).resetLow = s.resetLow := rfl
@[simp] theorem State.resumeMover_taken : (s.resumeMover).taken = s.taken := rfl
@[simp] theorem State.resumeMover_done : (s.resumeMover).done = s.done := rfl
@[simp] theorem State.resumeMover_tickPending : (s.resumeMover).tickPending = s.tickPending := rfl
@[simp] theorem State.resumeMover_idleTotal : (s.resumeMover).idleTotal = s.idleTotal := rfl
@[simp] theorem State.resumeMover_overloadTotal : (s.resumeMover).overloadTotal = s.overloadTotal := rfl
@[simp] theorem State.resumeMover_dropTotal : (s.resumeMover).dropTotal = s.dropTotal := rfl
@[simp] theorem State.resumeMover_gapTotal : (s.resumeMover).gapTotal = s.gapTotal := rfl
@[simp] theorem State.resumeMover_pendIdle : (s.resumeMover).pendIdle = s.pendIdle := rfl
@[simp] theorem State.resumeMover_pendOverload : (s.resumeMover).pendOverload = s.pendOverload := rfl
@[simp] theorem State.resumeMover_pendDropped : (s.resumeMover).pendDropped = s.pendDropped := rfl
@[simp] theorem State.resumeMover_pendGap : (s.resumeMover).pendGap = s.pendGap := rfl
@[simp] theorem State.resumeMover_notice : (s.resumeMover).notice = s.notice := rfl
@[simp] theorem State.resumeMover_geo : (s.resumeMover).geo = s.geo := rfl
@[simp] theorem State.resumeMover_anchor : (s.resumeMover).anchor = s.anchor := rfl
@[simp] theorem State.resumeMover_intake : (s.resumeMover).intake = s.intake := rfl
@[simp] theorem State.resumeMover_stepDue : (s.resumeMover).stepDue = s.stepDue := rfl
@[simp] theorem State.resumeMover_table : (s.resumeMover).table = s.table := rfl
@[simp] theorem State.resumeMover_history : (s.resumeMover).history = s.history := rfl
@[simp] theorem State.resumeMover_flight : (s.resumeMover).flight = s.flight := rfl
@[simp] theorem State.resumeMover_channels : (s.resumeMover).channels = s.channels := rfl
@[simp] theorem State.resumeMover_pool : (s.resumeMover).pool = s.pool := rfl
@[simp] theorem State.resumeMover_alloc : (s.resumeMover).alloc = s.alloc := rfl
@[simp] theorem State.resumeMover_queue : (s.resumeMover).queue = s.queue := rfl
@[simp] theorem State.resumeMover_transfer : (s.resumeMover).transfer = s.transfer.map Transfer.resumed := rfl
@[simp] theorem State.resumeMover_lock : (s.resumeMover).lock = s.lock := rfl
@[simp] theorem State.resumeMover_mem : (s.resumeMover).mem = s.mem := rfl
@[simp] theorem State.resumeMover_bus : (s.resumeMover).bus = s.bus := rfl
@[simp] theorem State.resumeMover_grants : (s.resumeMover).grants = s.grants := rfl
@[simp] theorem State.resumeMover_free : (s.resumeMover).free = s.free := rfl

/-! ### State.raise -/

@[simp] theorem State.raise_pending (f : EngineFault) : (s.raise f).pending = s.pending := rfl
@[simp] theorem State.raise_xbase (f : EngineFault) : (s.raise f).xbase = s.xbase := rfl
@[simp] theorem State.raise_readData (f : EngineFault) : (s.raise f).readData = s.readData := rfl
@[simp] theorem State.raise_engine (f : EngineFault) : (s.raise f).engine = .faulted := rfl
@[simp] theorem State.raise_stepResult (f : EngineFault) : (s.raise f).stepResult = s.stepResult := rfl
@[simp] theorem State.raise_faultCode (f : EngineFault) : (s.raise f).faultCode = f.code := rfl
@[simp] theorem State.raise_faultDetail (f : EngineFault) : (s.raise f).faultDetail = f.detail := rfl
@[simp] theorem State.raise_ignored (f : EngineFault) : (s.raise f).ignored = s.ignored := rfl
@[simp] theorem State.raise_resetLow (f : EngineFault) : (s.raise f).resetLow = s.resetLow := rfl
@[simp] theorem State.raise_taken (f : EngineFault) : (s.raise f).taken = s.taken := rfl
@[simp] theorem State.raise_done (f : EngineFault) : (s.raise f).done = s.done := rfl
@[simp] theorem State.raise_tickPending (f : EngineFault) : (s.raise f).tickPending = s.tickPending := rfl
@[simp] theorem State.raise_idleTotal (f : EngineFault) : (s.raise f).idleTotal = s.idleTotal := rfl
@[simp] theorem State.raise_overloadTotal (f : EngineFault) : (s.raise f).overloadTotal = s.overloadTotal := rfl
@[simp] theorem State.raise_dropTotal (f : EngineFault) : (s.raise f).dropTotal = s.dropTotal := rfl
@[simp] theorem State.raise_gapTotal (f : EngineFault) : (s.raise f).gapTotal = s.gapTotal := rfl
@[simp] theorem State.raise_pendIdle (f : EngineFault) : (s.raise f).pendIdle = s.pendIdle := rfl
@[simp] theorem State.raise_pendOverload (f : EngineFault) : (s.raise f).pendOverload = s.pendOverload := rfl
@[simp] theorem State.raise_pendDropped (f : EngineFault) : (s.raise f).pendDropped = s.pendDropped := rfl
@[simp] theorem State.raise_pendGap (f : EngineFault) : (s.raise f).pendGap = s.pendGap := rfl
@[simp] theorem State.raise_notice (f : EngineFault) : (s.raise f).notice = true := rfl
@[simp] theorem State.raise_geo (f : EngineFault) : (s.raise f).geo = s.geo := rfl
@[simp] theorem State.raise_anchor (f : EngineFault) : (s.raise f).anchor = s.anchor := rfl
@[simp] theorem State.raise_intake (f : EngineFault) : (s.raise f).intake = none := rfl
@[simp] theorem State.raise_stepDue (f : EngineFault) : (s.raise f).stepDue = false := rfl
@[simp] theorem State.raise_table (f : EngineFault) : (s.raise f).table = s.table := rfl
@[simp] theorem State.raise_history (f : EngineFault) : (s.raise f).history = s.history := rfl
@[simp] theorem State.raise_flight (f : EngineFault) : (s.raise f).flight = none := rfl
@[simp] theorem State.raise_channels (f : EngineFault) : (s.raise f).channels = s.channels := rfl
@[simp] theorem State.raise_pool (f : EngineFault) : (s.raise f).pool = s.pool := rfl
@[simp] theorem State.raise_alloc (f : EngineFault) : (s.raise f).alloc = s.alloc := rfl
@[simp] theorem State.raise_queue (f : EngineFault) : (s.raise f).queue = s.queue := rfl
@[simp] theorem State.raise_transfer (f : EngineFault) : (s.raise f).transfer = s.transfer := rfl
@[simp] theorem State.raise_lock (f : EngineFault) : (s.raise f).lock = s.lock := rfl
@[simp] theorem State.raise_mem (f : EngineFault) : (s.raise f).mem = s.mem := rfl
@[simp] theorem State.raise_bus (f : EngineFault) : (s.raise f).bus = s.bus := rfl
@[simp] theorem State.raise_grants (f : EngineFault) : (s.raise f).grants = s.grants := rfl
@[simp] theorem State.raise_free (f : EngineFault) : (s.raise f).free = s.free := rfl

/-! ### State.setChan -/

@[simp] theorem State.setChan_pending (c : Nat) (x : Channel) : (s.setChan c x).pending = s.pending := rfl
@[simp] theorem State.setChan_xbase (c : Nat) (x : Channel) : (s.setChan c x).xbase = s.xbase := rfl
@[simp] theorem State.setChan_readData (c : Nat) (x : Channel) : (s.setChan c x).readData = s.readData := rfl
@[simp] theorem State.setChan_engine (c : Nat) (x : Channel) : (s.setChan c x).engine = s.engine := rfl
@[simp] theorem State.setChan_stepResult (c : Nat) (x : Channel) : (s.setChan c x).stepResult = s.stepResult := rfl
@[simp] theorem State.setChan_faultCode (c : Nat) (x : Channel) : (s.setChan c x).faultCode = s.faultCode := rfl
@[simp] theorem State.setChan_faultDetail (c : Nat) (x : Channel) : (s.setChan c x).faultDetail = s.faultDetail := rfl
@[simp] theorem State.setChan_ignored (c : Nat) (x : Channel) : (s.setChan c x).ignored = s.ignored := rfl
@[simp] theorem State.setChan_resetLow (c : Nat) (x : Channel) : (s.setChan c x).resetLow = s.resetLow := rfl
@[simp] theorem State.setChan_taken (c : Nat) (x : Channel) : (s.setChan c x).taken = s.taken := rfl
@[simp] theorem State.setChan_done (c : Nat) (x : Channel) : (s.setChan c x).done = s.done := rfl
@[simp] theorem State.setChan_tickPending (c : Nat) (x : Channel) : (s.setChan c x).tickPending = s.tickPending := rfl
@[simp] theorem State.setChan_idleTotal (c : Nat) (x : Channel) : (s.setChan c x).idleTotal = s.idleTotal := rfl
@[simp] theorem State.setChan_overloadTotal (c : Nat) (x : Channel) : (s.setChan c x).overloadTotal = s.overloadTotal := rfl
@[simp] theorem State.setChan_dropTotal (c : Nat) (x : Channel) : (s.setChan c x).dropTotal = s.dropTotal := rfl
@[simp] theorem State.setChan_gapTotal (c : Nat) (x : Channel) : (s.setChan c x).gapTotal = s.gapTotal := rfl
@[simp] theorem State.setChan_pendIdle (c : Nat) (x : Channel) : (s.setChan c x).pendIdle = s.pendIdle := rfl
@[simp] theorem State.setChan_pendOverload (c : Nat) (x : Channel) : (s.setChan c x).pendOverload = s.pendOverload := rfl
@[simp] theorem State.setChan_pendDropped (c : Nat) (x : Channel) : (s.setChan c x).pendDropped = s.pendDropped := rfl
@[simp] theorem State.setChan_pendGap (c : Nat) (x : Channel) : (s.setChan c x).pendGap = s.pendGap := rfl
@[simp] theorem State.setChan_notice (c : Nat) (x : Channel) : (s.setChan c x).notice = s.notice := rfl
@[simp] theorem State.setChan_geo (c : Nat) (x : Channel) : (s.setChan c x).geo = s.geo := rfl
@[simp] theorem State.setChan_anchor (c : Nat) (x : Channel) : (s.setChan c x).anchor = s.anchor := rfl
@[simp] theorem State.setChan_intake (c : Nat) (x : Channel) : (s.setChan c x).intake = s.intake := rfl
@[simp] theorem State.setChan_stepDue (c : Nat) (x : Channel) : (s.setChan c x).stepDue = s.stepDue := rfl
@[simp] theorem State.setChan_table (c : Nat) (x : Channel) : (s.setChan c x).table = s.table := rfl
@[simp] theorem State.setChan_history (c : Nat) (x : Channel) : (s.setChan c x).history = s.history := rfl
@[simp] theorem State.setChan_flight (c : Nat) (x : Channel) : (s.setChan c x).flight = s.flight := rfl
@[simp] theorem State.setChan_channels (c : Nat) (x : Channel) : (s.setChan c x).channels = s.channels.setIfInBounds c x := rfl
@[simp] theorem State.setChan_pool (c : Nat) (x : Channel) : (s.setChan c x).pool = s.pool := rfl
@[simp] theorem State.setChan_alloc (c : Nat) (x : Channel) : (s.setChan c x).alloc = s.alloc := rfl
@[simp] theorem State.setChan_queue (c : Nat) (x : Channel) : (s.setChan c x).queue = s.queue := rfl
@[simp] theorem State.setChan_transfer (c : Nat) (x : Channel) : (s.setChan c x).transfer = s.transfer := rfl
@[simp] theorem State.setChan_lock (c : Nat) (x : Channel) : (s.setChan c x).lock = s.lock := rfl
@[simp] theorem State.setChan_mem (c : Nat) (x : Channel) : (s.setChan c x).mem = s.mem := rfl
@[simp] theorem State.setChan_bus (c : Nat) (x : Channel) : (s.setChan c x).bus = s.bus := rfl
@[simp] theorem State.setChan_grants (c : Nat) (x : Channel) : (s.setChan c x).grants = s.grants := rfl
@[simp] theorem State.setChan_free (c : Nat) (x : Channel) : (s.setChan c x).free = s.free := rfl

/-! ### State.setSlot -/

@[simp] theorem State.setSlot_pending (i : Nat) (v : Slot) : (s.setSlot i v).pending = s.pending := rfl
@[simp] theorem State.setSlot_xbase (i : Nat) (v : Slot) : (s.setSlot i v).xbase = s.xbase := rfl
@[simp] theorem State.setSlot_readData (i : Nat) (v : Slot) : (s.setSlot i v).readData = s.readData := rfl
@[simp] theorem State.setSlot_engine (i : Nat) (v : Slot) : (s.setSlot i v).engine = s.engine := rfl
@[simp] theorem State.setSlot_stepResult (i : Nat) (v : Slot) : (s.setSlot i v).stepResult = s.stepResult := rfl
@[simp] theorem State.setSlot_faultCode (i : Nat) (v : Slot) : (s.setSlot i v).faultCode = s.faultCode := rfl
@[simp] theorem State.setSlot_faultDetail (i : Nat) (v : Slot) : (s.setSlot i v).faultDetail = s.faultDetail := rfl
@[simp] theorem State.setSlot_ignored (i : Nat) (v : Slot) : (s.setSlot i v).ignored = s.ignored := rfl
@[simp] theorem State.setSlot_resetLow (i : Nat) (v : Slot) : (s.setSlot i v).resetLow = s.resetLow := rfl
@[simp] theorem State.setSlot_taken (i : Nat) (v : Slot) : (s.setSlot i v).taken = s.taken := rfl
@[simp] theorem State.setSlot_done (i : Nat) (v : Slot) : (s.setSlot i v).done = s.done := rfl
@[simp] theorem State.setSlot_tickPending (i : Nat) (v : Slot) : (s.setSlot i v).tickPending = s.tickPending := rfl
@[simp] theorem State.setSlot_idleTotal (i : Nat) (v : Slot) : (s.setSlot i v).idleTotal = s.idleTotal := rfl
@[simp] theorem State.setSlot_overloadTotal (i : Nat) (v : Slot) : (s.setSlot i v).overloadTotal = s.overloadTotal := rfl
@[simp] theorem State.setSlot_dropTotal (i : Nat) (v : Slot) : (s.setSlot i v).dropTotal = s.dropTotal := rfl
@[simp] theorem State.setSlot_gapTotal (i : Nat) (v : Slot) : (s.setSlot i v).gapTotal = s.gapTotal := rfl
@[simp] theorem State.setSlot_pendIdle (i : Nat) (v : Slot) : (s.setSlot i v).pendIdle = s.pendIdle := rfl
@[simp] theorem State.setSlot_pendOverload (i : Nat) (v : Slot) : (s.setSlot i v).pendOverload = s.pendOverload := rfl
@[simp] theorem State.setSlot_pendDropped (i : Nat) (v : Slot) : (s.setSlot i v).pendDropped = s.pendDropped := rfl
@[simp] theorem State.setSlot_pendGap (i : Nat) (v : Slot) : (s.setSlot i v).pendGap = s.pendGap := rfl
@[simp] theorem State.setSlot_notice (i : Nat) (v : Slot) : (s.setSlot i v).notice = s.notice := rfl
@[simp] theorem State.setSlot_geo (i : Nat) (v : Slot) : (s.setSlot i v).geo = s.geo := rfl
@[simp] theorem State.setSlot_anchor (i : Nat) (v : Slot) : (s.setSlot i v).anchor = s.anchor := rfl
@[simp] theorem State.setSlot_intake (i : Nat) (v : Slot) : (s.setSlot i v).intake = s.intake := rfl
@[simp] theorem State.setSlot_stepDue (i : Nat) (v : Slot) : (s.setSlot i v).stepDue = s.stepDue := rfl
@[simp] theorem State.setSlot_table (i : Nat) (v : Slot) : (s.setSlot i v).table = s.table := rfl
@[simp] theorem State.setSlot_history (i : Nat) (v : Slot) : (s.setSlot i v).history = s.history := rfl
@[simp] theorem State.setSlot_flight (i : Nat) (v : Slot) : (s.setSlot i v).flight = s.flight := rfl
@[simp] theorem State.setSlot_channels (i : Nat) (v : Slot) : (s.setSlot i v).channels = s.channels := rfl
@[simp] theorem State.setSlot_pool (i : Nat) (v : Slot) : (s.setSlot i v).pool = sparsePut Slot.zero s.pool i v := rfl
@[simp] theorem State.setSlot_alloc (i : Nat) (v : Slot) : (s.setSlot i v).alloc = s.alloc := rfl
@[simp] theorem State.setSlot_queue (i : Nat) (v : Slot) : (s.setSlot i v).queue = s.queue := rfl
@[simp] theorem State.setSlot_transfer (i : Nat) (v : Slot) : (s.setSlot i v).transfer = s.transfer := rfl
@[simp] theorem State.setSlot_lock (i : Nat) (v : Slot) : (s.setSlot i v).lock = s.lock := rfl
@[simp] theorem State.setSlot_mem (i : Nat) (v : Slot) : (s.setSlot i v).mem = s.mem := rfl
@[simp] theorem State.setSlot_bus (i : Nat) (v : Slot) : (s.setSlot i v).bus = s.bus := rfl
@[simp] theorem State.setSlot_grants (i : Nat) (v : Slot) : (s.setSlot i v).grants = s.grants := rfl
@[simp] theorem State.setSlot_free (i : Nat) (v : Slot) : (s.setSlot i v).free = s.free := rfl

/-! ### State.dequeue -/

@[simp] theorem State.dequeue_pending (c : Nat) : (s.dequeue c).pending = s.pending := rfl
@[simp] theorem State.dequeue_xbase (c : Nat) : (s.dequeue c).xbase = s.xbase := rfl
@[simp] theorem State.dequeue_readData (c : Nat) : (s.dequeue c).readData = s.readData := rfl
@[simp] theorem State.dequeue_engine (c : Nat) : (s.dequeue c).engine = s.engine := rfl
@[simp] theorem State.dequeue_stepResult (c : Nat) : (s.dequeue c).stepResult = s.stepResult := rfl
@[simp] theorem State.dequeue_faultCode (c : Nat) : (s.dequeue c).faultCode = s.faultCode := rfl
@[simp] theorem State.dequeue_faultDetail (c : Nat) : (s.dequeue c).faultDetail = s.faultDetail := rfl
@[simp] theorem State.dequeue_ignored (c : Nat) : (s.dequeue c).ignored = s.ignored := rfl
@[simp] theorem State.dequeue_resetLow (c : Nat) : (s.dequeue c).resetLow = s.resetLow := rfl
@[simp] theorem State.dequeue_taken (c : Nat) : (s.dequeue c).taken = s.taken := rfl
@[simp] theorem State.dequeue_done (c : Nat) : (s.dequeue c).done = s.done := rfl
@[simp] theorem State.dequeue_tickPending (c : Nat) : (s.dequeue c).tickPending = s.tickPending := rfl
@[simp] theorem State.dequeue_idleTotal (c : Nat) : (s.dequeue c).idleTotal = s.idleTotal := rfl
@[simp] theorem State.dequeue_overloadTotal (c : Nat) : (s.dequeue c).overloadTotal = s.overloadTotal := rfl
@[simp] theorem State.dequeue_dropTotal (c : Nat) : (s.dequeue c).dropTotal = s.dropTotal := rfl
@[simp] theorem State.dequeue_gapTotal (c : Nat) : (s.dequeue c).gapTotal = s.gapTotal := rfl
@[simp] theorem State.dequeue_pendIdle (c : Nat) : (s.dequeue c).pendIdle = s.pendIdle := rfl
@[simp] theorem State.dequeue_pendOverload (c : Nat) : (s.dequeue c).pendOverload = s.pendOverload := rfl
@[simp] theorem State.dequeue_pendDropped (c : Nat) : (s.dequeue c).pendDropped = s.pendDropped := rfl
@[simp] theorem State.dequeue_pendGap (c : Nat) : (s.dequeue c).pendGap = s.pendGap := rfl
@[simp] theorem State.dequeue_notice (c : Nat) : (s.dequeue c).notice = s.notice := rfl
@[simp] theorem State.dequeue_geo (c : Nat) : (s.dequeue c).geo = s.geo := rfl
@[simp] theorem State.dequeue_anchor (c : Nat) : (s.dequeue c).anchor = s.anchor := rfl
@[simp] theorem State.dequeue_intake (c : Nat) : (s.dequeue c).intake = s.intake := rfl
@[simp] theorem State.dequeue_stepDue (c : Nat) : (s.dequeue c).stepDue = s.stepDue := rfl
@[simp] theorem State.dequeue_table (c : Nat) : (s.dequeue c).table = s.table := rfl
@[simp] theorem State.dequeue_history (c : Nat) : (s.dequeue c).history = s.history := rfl
@[simp] theorem State.dequeue_flight (c : Nat) : (s.dequeue c).flight = s.flight := rfl
@[simp] theorem State.dequeue_channels (c : Nat) : (s.dequeue c).channels = s.channels := rfl
@[simp] theorem State.dequeue_pool (c : Nat) : (s.dequeue c).pool = s.pool := rfl
@[simp] theorem State.dequeue_alloc (c : Nat) : (s.dequeue c).alloc = s.alloc := rfl
@[simp] theorem State.dequeue_queue (c : Nat) : (s.dequeue c).queue = s.queue.filter (fun d => decide (d ≠ c)) := rfl
@[simp] theorem State.dequeue_transfer (c : Nat) : (s.dequeue c).transfer = s.transfer := rfl
@[simp] theorem State.dequeue_lock (c : Nat) : (s.dequeue c).lock = s.lock := rfl
@[simp] theorem State.dequeue_mem (c : Nat) : (s.dequeue c).mem = s.mem := rfl
@[simp] theorem State.dequeue_bus (c : Nat) : (s.dequeue c).bus = s.bus := rfl
@[simp] theorem State.dequeue_grants (c : Nat) : (s.dequeue c).grants = s.grants := rfl
@[simp] theorem State.dequeue_free (c : Nat) : (s.dequeue c).free = s.free := rfl

/-! ### State.toHead -/

@[simp] theorem State.toHead_pending (c : Nat) : (s.toHead c).pending = s.pending := rfl
@[simp] theorem State.toHead_xbase (c : Nat) : (s.toHead c).xbase = s.xbase := rfl
@[simp] theorem State.toHead_readData (c : Nat) : (s.toHead c).readData = s.readData := rfl
@[simp] theorem State.toHead_engine (c : Nat) : (s.toHead c).engine = s.engine := rfl
@[simp] theorem State.toHead_stepResult (c : Nat) : (s.toHead c).stepResult = s.stepResult := rfl
@[simp] theorem State.toHead_faultCode (c : Nat) : (s.toHead c).faultCode = s.faultCode := rfl
@[simp] theorem State.toHead_faultDetail (c : Nat) : (s.toHead c).faultDetail = s.faultDetail := rfl
@[simp] theorem State.toHead_ignored (c : Nat) : (s.toHead c).ignored = s.ignored := rfl
@[simp] theorem State.toHead_resetLow (c : Nat) : (s.toHead c).resetLow = s.resetLow := rfl
@[simp] theorem State.toHead_taken (c : Nat) : (s.toHead c).taken = s.taken := rfl
@[simp] theorem State.toHead_done (c : Nat) : (s.toHead c).done = s.done := rfl
@[simp] theorem State.toHead_tickPending (c : Nat) : (s.toHead c).tickPending = s.tickPending := rfl
@[simp] theorem State.toHead_idleTotal (c : Nat) : (s.toHead c).idleTotal = s.idleTotal := rfl
@[simp] theorem State.toHead_overloadTotal (c : Nat) : (s.toHead c).overloadTotal = s.overloadTotal := rfl
@[simp] theorem State.toHead_dropTotal (c : Nat) : (s.toHead c).dropTotal = s.dropTotal := rfl
@[simp] theorem State.toHead_gapTotal (c : Nat) : (s.toHead c).gapTotal = s.gapTotal := rfl
@[simp] theorem State.toHead_pendIdle (c : Nat) : (s.toHead c).pendIdle = s.pendIdle := rfl
@[simp] theorem State.toHead_pendOverload (c : Nat) : (s.toHead c).pendOverload = s.pendOverload := rfl
@[simp] theorem State.toHead_pendDropped (c : Nat) : (s.toHead c).pendDropped = s.pendDropped := rfl
@[simp] theorem State.toHead_pendGap (c : Nat) : (s.toHead c).pendGap = s.pendGap := rfl
@[simp] theorem State.toHead_notice (c : Nat) : (s.toHead c).notice = s.notice := rfl
@[simp] theorem State.toHead_geo (c : Nat) : (s.toHead c).geo = s.geo := rfl
@[simp] theorem State.toHead_anchor (c : Nat) : (s.toHead c).anchor = s.anchor := rfl
@[simp] theorem State.toHead_intake (c : Nat) : (s.toHead c).intake = s.intake := rfl
@[simp] theorem State.toHead_stepDue (c : Nat) : (s.toHead c).stepDue = s.stepDue := rfl
@[simp] theorem State.toHead_table (c : Nat) : (s.toHead c).table = s.table := rfl
@[simp] theorem State.toHead_history (c : Nat) : (s.toHead c).history = s.history := rfl
@[simp] theorem State.toHead_flight (c : Nat) : (s.toHead c).flight = s.flight := rfl
@[simp] theorem State.toHead_channels (c : Nat) : (s.toHead c).channels = s.channels := rfl
@[simp] theorem State.toHead_pool (c : Nat) : (s.toHead c).pool = s.pool := rfl
@[simp] theorem State.toHead_alloc (c : Nat) : (s.toHead c).alloc = s.alloc := rfl
@[simp] theorem State.toHead_queue (c : Nat) : (s.toHead c).queue = c :: s.queue.filter (fun d => decide (d ≠ c)) := rfl
@[simp] theorem State.toHead_transfer (c : Nat) : (s.toHead c).transfer = s.transfer := rfl
@[simp] theorem State.toHead_lock (c : Nat) : (s.toHead c).lock = s.lock := rfl
@[simp] theorem State.toHead_mem (c : Nat) : (s.toHead c).mem = s.mem := rfl
@[simp] theorem State.toHead_bus (c : Nat) : (s.toHead c).bus = s.bus := rfl
@[simp] theorem State.toHead_grants (c : Nat) : (s.toHead c).grants = s.grants := rfl
@[simp] theorem State.toHead_free (c : Nat) : (s.toHead c).free = s.free := rfl

/-! ### State.toTail -/

@[simp] theorem State.toTail_pending (c : Nat) : (s.toTail c).pending = s.pending := rfl
@[simp] theorem State.toTail_xbase (c : Nat) : (s.toTail c).xbase = s.xbase := rfl
@[simp] theorem State.toTail_readData (c : Nat) : (s.toTail c).readData = s.readData := rfl
@[simp] theorem State.toTail_engine (c : Nat) : (s.toTail c).engine = s.engine := rfl
@[simp] theorem State.toTail_stepResult (c : Nat) : (s.toTail c).stepResult = s.stepResult := rfl
@[simp] theorem State.toTail_faultCode (c : Nat) : (s.toTail c).faultCode = s.faultCode := rfl
@[simp] theorem State.toTail_faultDetail (c : Nat) : (s.toTail c).faultDetail = s.faultDetail := rfl
@[simp] theorem State.toTail_ignored (c : Nat) : (s.toTail c).ignored = s.ignored := rfl
@[simp] theorem State.toTail_resetLow (c : Nat) : (s.toTail c).resetLow = s.resetLow := rfl
@[simp] theorem State.toTail_taken (c : Nat) : (s.toTail c).taken = s.taken := rfl
@[simp] theorem State.toTail_done (c : Nat) : (s.toTail c).done = s.done := rfl
@[simp] theorem State.toTail_tickPending (c : Nat) : (s.toTail c).tickPending = s.tickPending := rfl
@[simp] theorem State.toTail_idleTotal (c : Nat) : (s.toTail c).idleTotal = s.idleTotal := rfl
@[simp] theorem State.toTail_overloadTotal (c : Nat) : (s.toTail c).overloadTotal = s.overloadTotal := rfl
@[simp] theorem State.toTail_dropTotal (c : Nat) : (s.toTail c).dropTotal = s.dropTotal := rfl
@[simp] theorem State.toTail_gapTotal (c : Nat) : (s.toTail c).gapTotal = s.gapTotal := rfl
@[simp] theorem State.toTail_pendIdle (c : Nat) : (s.toTail c).pendIdle = s.pendIdle := rfl
@[simp] theorem State.toTail_pendOverload (c : Nat) : (s.toTail c).pendOverload = s.pendOverload := rfl
@[simp] theorem State.toTail_pendDropped (c : Nat) : (s.toTail c).pendDropped = s.pendDropped := rfl
@[simp] theorem State.toTail_pendGap (c : Nat) : (s.toTail c).pendGap = s.pendGap := rfl
@[simp] theorem State.toTail_notice (c : Nat) : (s.toTail c).notice = s.notice := rfl
@[simp] theorem State.toTail_geo (c : Nat) : (s.toTail c).geo = s.geo := rfl
@[simp] theorem State.toTail_anchor (c : Nat) : (s.toTail c).anchor = s.anchor := rfl
@[simp] theorem State.toTail_intake (c : Nat) : (s.toTail c).intake = s.intake := rfl
@[simp] theorem State.toTail_stepDue (c : Nat) : (s.toTail c).stepDue = s.stepDue := rfl
@[simp] theorem State.toTail_table (c : Nat) : (s.toTail c).table = s.table := rfl
@[simp] theorem State.toTail_history (c : Nat) : (s.toTail c).history = s.history := rfl
@[simp] theorem State.toTail_flight (c : Nat) : (s.toTail c).flight = s.flight := rfl
@[simp] theorem State.toTail_channels (c : Nat) : (s.toTail c).channels = s.channels := rfl
@[simp] theorem State.toTail_pool (c : Nat) : (s.toTail c).pool = s.pool := rfl
@[simp] theorem State.toTail_alloc (c : Nat) : (s.toTail c).alloc = s.alloc := rfl
@[simp] theorem State.toTail_queue (c : Nat) : (s.toTail c).queue = s.queue.filter (fun d => decide (d ≠ c)) ++ [c] := rfl
@[simp] theorem State.toTail_transfer (c : Nat) : (s.toTail c).transfer = s.transfer := rfl
@[simp] theorem State.toTail_lock (c : Nat) : (s.toTail c).lock = s.lock := rfl
@[simp] theorem State.toTail_mem (c : Nat) : (s.toTail c).mem = s.mem := rfl
@[simp] theorem State.toTail_bus (c : Nat) : (s.toTail c).bus = s.bus := rfl
@[simp] theorem State.toTail_grants (c : Nat) : (s.toTail c).grants = s.grants := rfl
@[simp] theorem State.toTail_free (c : Nat) : (s.toTail c).free = s.free := rfl

/-! ### State.releaseExtent -/

@[simp] theorem State.releaseExtent_pending (c : Nat) : (s.releaseExtent c).pending = s.pending := rfl
@[simp] theorem State.releaseExtent_xbase (c : Nat) : (s.releaseExtent c).xbase = s.xbase := rfl
@[simp] theorem State.releaseExtent_readData (c : Nat) : (s.releaseExtent c).readData = s.readData := rfl
@[simp] theorem State.releaseExtent_engine (c : Nat) : (s.releaseExtent c).engine = s.engine := rfl
@[simp] theorem State.releaseExtent_stepResult (c : Nat) : (s.releaseExtent c).stepResult = s.stepResult := rfl
@[simp] theorem State.releaseExtent_faultCode (c : Nat) : (s.releaseExtent c).faultCode = s.faultCode := rfl
@[simp] theorem State.releaseExtent_faultDetail (c : Nat) : (s.releaseExtent c).faultDetail = s.faultDetail := rfl
@[simp] theorem State.releaseExtent_ignored (c : Nat) : (s.releaseExtent c).ignored = s.ignored := rfl
@[simp] theorem State.releaseExtent_resetLow (c : Nat) : (s.releaseExtent c).resetLow = s.resetLow := rfl
@[simp] theorem State.releaseExtent_taken (c : Nat) : (s.releaseExtent c).taken = s.taken := rfl
@[simp] theorem State.releaseExtent_done (c : Nat) : (s.releaseExtent c).done = s.done := rfl
@[simp] theorem State.releaseExtent_tickPending (c : Nat) : (s.releaseExtent c).tickPending = s.tickPending := rfl
@[simp] theorem State.releaseExtent_idleTotal (c : Nat) : (s.releaseExtent c).idleTotal = s.idleTotal := rfl
@[simp] theorem State.releaseExtent_overloadTotal (c : Nat) : (s.releaseExtent c).overloadTotal = s.overloadTotal := rfl
@[simp] theorem State.releaseExtent_dropTotal (c : Nat) : (s.releaseExtent c).dropTotal = s.dropTotal := rfl
@[simp] theorem State.releaseExtent_gapTotal (c : Nat) : (s.releaseExtent c).gapTotal = s.gapTotal := rfl
@[simp] theorem State.releaseExtent_pendIdle (c : Nat) : (s.releaseExtent c).pendIdle = s.pendIdle := rfl
@[simp] theorem State.releaseExtent_pendOverload (c : Nat) : (s.releaseExtent c).pendOverload = s.pendOverload := rfl
@[simp] theorem State.releaseExtent_pendDropped (c : Nat) : (s.releaseExtent c).pendDropped = s.pendDropped := rfl
@[simp] theorem State.releaseExtent_pendGap (c : Nat) : (s.releaseExtent c).pendGap = s.pendGap := rfl
@[simp] theorem State.releaseExtent_notice (c : Nat) : (s.releaseExtent c).notice = s.notice := rfl
@[simp] theorem State.releaseExtent_geo (c : Nat) : (s.releaseExtent c).geo = s.geo := rfl
@[simp] theorem State.releaseExtent_anchor (c : Nat) : (s.releaseExtent c).anchor = s.anchor := rfl
@[simp] theorem State.releaseExtent_intake (c : Nat) : (s.releaseExtent c).intake = s.intake := rfl
@[simp] theorem State.releaseExtent_stepDue (c : Nat) : (s.releaseExtent c).stepDue = s.stepDue := rfl
@[simp] theorem State.releaseExtent_table (c : Nat) : (s.releaseExtent c).table = s.table := rfl
@[simp] theorem State.releaseExtent_history (c : Nat) : (s.releaseExtent c).history = s.history := rfl
@[simp] theorem State.releaseExtent_flight (c : Nat) : (s.releaseExtent c).flight = s.flight := rfl
@[simp] theorem State.releaseExtent_channels (c : Nat) : (s.releaseExtent c).channels = s.channels := rfl
@[simp] theorem State.releaseExtent_pool (c : Nat) : (s.releaseExtent c).pool = s.pool := rfl
@[simp] theorem State.releaseExtent_alloc (c : Nat) : (s.releaseExtent c).alloc = s.alloc.filter (fun e => decide (e.chan ≠ c)) := rfl
@[simp] theorem State.releaseExtent_queue (c : Nat) : (s.releaseExtent c).queue = s.queue := rfl
@[simp] theorem State.releaseExtent_transfer (c : Nat) : (s.releaseExtent c).transfer = s.transfer := rfl
@[simp] theorem State.releaseExtent_lock (c : Nat) : (s.releaseExtent c).lock = s.lock := rfl
@[simp] theorem State.releaseExtent_mem (c : Nat) : (s.releaseExtent c).mem = s.mem := rfl
@[simp] theorem State.releaseExtent_bus (c : Nat) : (s.releaseExtent c).bus = s.bus := rfl
@[simp] theorem State.releaseExtent_grants (c : Nat) : (s.releaseExtent c).grants = s.grants := rfl
@[simp] theorem State.releaseExtent_free (c : Nat) : (s.releaseExtent c).free = s.free := rfl

/-! ### State.shrinkExtent -/

@[simp] theorem State.shrinkExtent_pending (c n : Nat) : (s.shrinkExtent c n).pending = s.pending := rfl
@[simp] theorem State.shrinkExtent_xbase (c n : Nat) : (s.shrinkExtent c n).xbase = s.xbase := rfl
@[simp] theorem State.shrinkExtent_readData (c n : Nat) : (s.shrinkExtent c n).readData = s.readData := rfl
@[simp] theorem State.shrinkExtent_engine (c n : Nat) : (s.shrinkExtent c n).engine = s.engine := rfl
@[simp] theorem State.shrinkExtent_stepResult (c n : Nat) : (s.shrinkExtent c n).stepResult = s.stepResult := rfl
@[simp] theorem State.shrinkExtent_faultCode (c n : Nat) : (s.shrinkExtent c n).faultCode = s.faultCode := rfl
@[simp] theorem State.shrinkExtent_faultDetail (c n : Nat) : (s.shrinkExtent c n).faultDetail = s.faultDetail := rfl
@[simp] theorem State.shrinkExtent_ignored (c n : Nat) : (s.shrinkExtent c n).ignored = s.ignored := rfl
@[simp] theorem State.shrinkExtent_resetLow (c n : Nat) : (s.shrinkExtent c n).resetLow = s.resetLow := rfl
@[simp] theorem State.shrinkExtent_taken (c n : Nat) : (s.shrinkExtent c n).taken = s.taken := rfl
@[simp] theorem State.shrinkExtent_done (c n : Nat) : (s.shrinkExtent c n).done = s.done := rfl
@[simp] theorem State.shrinkExtent_tickPending (c n : Nat) : (s.shrinkExtent c n).tickPending = s.tickPending := rfl
@[simp] theorem State.shrinkExtent_idleTotal (c n : Nat) : (s.shrinkExtent c n).idleTotal = s.idleTotal := rfl
@[simp] theorem State.shrinkExtent_overloadTotal (c n : Nat) : (s.shrinkExtent c n).overloadTotal = s.overloadTotal := rfl
@[simp] theorem State.shrinkExtent_dropTotal (c n : Nat) : (s.shrinkExtent c n).dropTotal = s.dropTotal := rfl
@[simp] theorem State.shrinkExtent_gapTotal (c n : Nat) : (s.shrinkExtent c n).gapTotal = s.gapTotal := rfl
@[simp] theorem State.shrinkExtent_pendIdle (c n : Nat) : (s.shrinkExtent c n).pendIdle = s.pendIdle := rfl
@[simp] theorem State.shrinkExtent_pendOverload (c n : Nat) : (s.shrinkExtent c n).pendOverload = s.pendOverload := rfl
@[simp] theorem State.shrinkExtent_pendDropped (c n : Nat) : (s.shrinkExtent c n).pendDropped = s.pendDropped := rfl
@[simp] theorem State.shrinkExtent_pendGap (c n : Nat) : (s.shrinkExtent c n).pendGap = s.pendGap := rfl
@[simp] theorem State.shrinkExtent_notice (c n : Nat) : (s.shrinkExtent c n).notice = s.notice := rfl
@[simp] theorem State.shrinkExtent_geo (c n : Nat) : (s.shrinkExtent c n).geo = s.geo := rfl
@[simp] theorem State.shrinkExtent_anchor (c n : Nat) : (s.shrinkExtent c n).anchor = s.anchor := rfl
@[simp] theorem State.shrinkExtent_intake (c n : Nat) : (s.shrinkExtent c n).intake = s.intake := rfl
@[simp] theorem State.shrinkExtent_stepDue (c n : Nat) : (s.shrinkExtent c n).stepDue = s.stepDue := rfl
@[simp] theorem State.shrinkExtent_table (c n : Nat) : (s.shrinkExtent c n).table = s.table := rfl
@[simp] theorem State.shrinkExtent_history (c n : Nat) : (s.shrinkExtent c n).history = s.history := rfl
@[simp] theorem State.shrinkExtent_flight (c n : Nat) : (s.shrinkExtent c n).flight = s.flight := rfl
@[simp] theorem State.shrinkExtent_channels (c n : Nat) : (s.shrinkExtent c n).channels = s.channels := rfl
@[simp] theorem State.shrinkExtent_pool (c n : Nat) : (s.shrinkExtent c n).pool = s.pool := rfl
@[simp] theorem State.shrinkExtent_alloc (c n : Nat) : (s.shrinkExtent c n).alloc = s.alloc.map (fun e => if e.chan = c then { e with size := n } else e) := rfl
@[simp] theorem State.shrinkExtent_queue (c n : Nat) : (s.shrinkExtent c n).queue = s.queue := rfl
@[simp] theorem State.shrinkExtent_transfer (c n : Nat) : (s.shrinkExtent c n).transfer = s.transfer := rfl
@[simp] theorem State.shrinkExtent_lock (c n : Nat) : (s.shrinkExtent c n).lock = s.lock := rfl
@[simp] theorem State.shrinkExtent_mem (c n : Nat) : (s.shrinkExtent c n).mem = s.mem := rfl
@[simp] theorem State.shrinkExtent_bus (c n : Nat) : (s.shrinkExtent c n).bus = s.bus := rfl
@[simp] theorem State.shrinkExtent_grants (c n : Nat) : (s.shrinkExtent c n).grants = s.grants := rfl
@[simp] theorem State.shrinkExtent_free (c n : Nat) : (s.shrinkExtent c n).free = s.free := rfl

/-! ### State.ignore -/

@[simp] theorem State.ignore_pending : (s.ignore).pending = s.pending := rfl
@[simp] theorem State.ignore_xbase : (s.ignore).xbase = s.xbase := rfl
@[simp] theorem State.ignore_readData : (s.ignore).readData = s.readData := rfl
@[simp] theorem State.ignore_engine : (s.ignore).engine = s.engine := rfl
@[simp] theorem State.ignore_stepResult : (s.ignore).stepResult = s.stepResult := rfl
@[simp] theorem State.ignore_faultCode : (s.ignore).faultCode = s.faultCode := rfl
@[simp] theorem State.ignore_faultDetail : (s.ignore).faultDetail = s.faultDetail := rfl
@[simp] theorem State.ignore_ignored : (s.ignore).ignored = true := rfl
@[simp] theorem State.ignore_resetLow : (s.ignore).resetLow = s.resetLow := rfl
@[simp] theorem State.ignore_taken : (s.ignore).taken = s.taken := rfl
@[simp] theorem State.ignore_done : (s.ignore).done = s.done := rfl
@[simp] theorem State.ignore_tickPending : (s.ignore).tickPending = s.tickPending := rfl
@[simp] theorem State.ignore_idleTotal : (s.ignore).idleTotal = s.idleTotal := rfl
@[simp] theorem State.ignore_overloadTotal : (s.ignore).overloadTotal = s.overloadTotal := rfl
@[simp] theorem State.ignore_dropTotal : (s.ignore).dropTotal = s.dropTotal := rfl
@[simp] theorem State.ignore_gapTotal : (s.ignore).gapTotal = s.gapTotal := rfl
@[simp] theorem State.ignore_pendIdle : (s.ignore).pendIdle = s.pendIdle := rfl
@[simp] theorem State.ignore_pendOverload : (s.ignore).pendOverload = s.pendOverload := rfl
@[simp] theorem State.ignore_pendDropped : (s.ignore).pendDropped = s.pendDropped := rfl
@[simp] theorem State.ignore_pendGap : (s.ignore).pendGap = s.pendGap := rfl
@[simp] theorem State.ignore_notice : (s.ignore).notice = s.notice := rfl
@[simp] theorem State.ignore_geo : (s.ignore).geo = s.geo := rfl
@[simp] theorem State.ignore_anchor : (s.ignore).anchor = s.anchor := rfl
@[simp] theorem State.ignore_intake : (s.ignore).intake = s.intake := rfl
@[simp] theorem State.ignore_stepDue : (s.ignore).stepDue = s.stepDue := rfl
@[simp] theorem State.ignore_table : (s.ignore).table = s.table := rfl
@[simp] theorem State.ignore_history : (s.ignore).history = s.history := rfl
@[simp] theorem State.ignore_flight : (s.ignore).flight = s.flight := rfl
@[simp] theorem State.ignore_channels : (s.ignore).channels = s.channels := rfl
@[simp] theorem State.ignore_pool : (s.ignore).pool = s.pool := rfl
@[simp] theorem State.ignore_alloc : (s.ignore).alloc = s.alloc := rfl
@[simp] theorem State.ignore_queue : (s.ignore).queue = s.queue := rfl
@[simp] theorem State.ignore_transfer : (s.ignore).transfer = s.transfer := rfl
@[simp] theorem State.ignore_lock : (s.ignore).lock = s.lock := rfl
@[simp] theorem State.ignore_mem : (s.ignore).mem = s.mem := rfl
@[simp] theorem State.ignore_bus : (s.ignore).bus = s.bus := rfl
@[simp] theorem State.ignore_grants : (s.ignore).grants = s.grants := rfl
@[simp] theorem State.ignore_free : (s.ignore).free = s.free := rfl

/-! ### State.heed -/

@[simp] theorem State.heed_pending : (s.heed).pending = s.pending := rfl
@[simp] theorem State.heed_xbase : (s.heed).xbase = s.xbase := rfl
@[simp] theorem State.heed_readData : (s.heed).readData = s.readData := rfl
@[simp] theorem State.heed_engine : (s.heed).engine = s.engine := rfl
@[simp] theorem State.heed_stepResult : (s.heed).stepResult = s.stepResult := rfl
@[simp] theorem State.heed_faultCode : (s.heed).faultCode = s.faultCode := rfl
@[simp] theorem State.heed_faultDetail : (s.heed).faultDetail = s.faultDetail := rfl
@[simp] theorem State.heed_ignored : (s.heed).ignored = false := rfl
@[simp] theorem State.heed_resetLow : (s.heed).resetLow = s.resetLow := rfl
@[simp] theorem State.heed_taken : (s.heed).taken = s.taken := rfl
@[simp] theorem State.heed_done : (s.heed).done = s.done := rfl
@[simp] theorem State.heed_tickPending : (s.heed).tickPending = s.tickPending := rfl
@[simp] theorem State.heed_idleTotal : (s.heed).idleTotal = s.idleTotal := rfl
@[simp] theorem State.heed_overloadTotal : (s.heed).overloadTotal = s.overloadTotal := rfl
@[simp] theorem State.heed_dropTotal : (s.heed).dropTotal = s.dropTotal := rfl
@[simp] theorem State.heed_gapTotal : (s.heed).gapTotal = s.gapTotal := rfl
@[simp] theorem State.heed_pendIdle : (s.heed).pendIdle = s.pendIdle := rfl
@[simp] theorem State.heed_pendOverload : (s.heed).pendOverload = s.pendOverload := rfl
@[simp] theorem State.heed_pendDropped : (s.heed).pendDropped = s.pendDropped := rfl
@[simp] theorem State.heed_pendGap : (s.heed).pendGap = s.pendGap := rfl
@[simp] theorem State.heed_notice : (s.heed).notice = s.notice := rfl
@[simp] theorem State.heed_geo : (s.heed).geo = s.geo := rfl
@[simp] theorem State.heed_anchor : (s.heed).anchor = s.anchor := rfl
@[simp] theorem State.heed_intake : (s.heed).intake = s.intake := rfl
@[simp] theorem State.heed_stepDue : (s.heed).stepDue = s.stepDue := rfl
@[simp] theorem State.heed_table : (s.heed).table = s.table := rfl
@[simp] theorem State.heed_history : (s.heed).history = s.history := rfl
@[simp] theorem State.heed_flight : (s.heed).flight = s.flight := rfl
@[simp] theorem State.heed_channels : (s.heed).channels = s.channels := rfl
@[simp] theorem State.heed_pool : (s.heed).pool = s.pool := rfl
@[simp] theorem State.heed_alloc : (s.heed).alloc = s.alloc := rfl
@[simp] theorem State.heed_queue : (s.heed).queue = s.queue := rfl
@[simp] theorem State.heed_transfer : (s.heed).transfer = s.transfer := rfl
@[simp] theorem State.heed_lock : (s.heed).lock = s.lock := rfl
@[simp] theorem State.heed_mem : (s.heed).mem = s.mem := rfl
@[simp] theorem State.heed_bus : (s.heed).bus = s.bus := rfl
@[simp] theorem State.heed_grants : (s.heed).grants = s.grants := rfl
@[simp] theorem State.heed_free : (s.heed).free = s.free := rfl

/-! ### Two updates of the shared-memory side -/

@[simp] theorem State.setBus_self : s.setBus s.bus = s := rfl
@[simp] theorem State.setMem_self : s.setMem s.mem = s := rfl
@[simp] theorem State.setNotice_self : s.setNotice s.notice = s := rfl
@[simp] theorem State.setPool_self : s.setPool s.pool = s := rfl
@[simp] theorem State.setBus_setBus (b c : List BusError) : (s.setBus b).setBus c = s.setBus c := rfl
@[simp] theorem State.setMem_setMem (m n : List Host.Cell) : (s.setMem m).setMem n = s.setMem n := rfl
@[simp] theorem State.setNotice_setNotice (v w : Bool) : (s.setNotice v).setNotice w = s.setNotice w := rfl
@[simp] theorem State.setPool_setPool (p q : List (Nat × Slot)) : (s.setPool p).setPool q = s.setPool q := rfl
@[simp] theorem State.setMem_setBus (m : List Host.Cell) (b : List BusError) : (s.setMem m).setBus b = (s.setBus b).setMem m := rfl
@[simp] theorem State.setNotice_setBus (v : Bool) (b : List BusError) : (s.setNotice v).setBus b = (s.setBus b).setNotice v := rfl
@[simp] theorem State.setNotice_setMem (v : Bool) (m : List Host.Cell) : (s.setNotice v).setMem m = (s.setMem m).setNotice v := rfl

/-! ### Updates that are made of the others -/

theorem State.hostWrite_eq (a : Nat) (bs : List Byte) : s.hostWrite a bs = s.setMem (writeBytes s.mem a bs) := rfl

theorem State.removeEntry_eq (e : Entry) : s.removeEntry e = s.setTable (s.table.erase e) := rfl

theorem State.modChan_eq (c : Nat) (g : Channel → Channel) : s.modChan c g = s.setChan c (g (s.chan c)) := rfl

theorem State.writeSlot_eq (i : Nat) (ps : List Word) : s.writeSlot i ps = s.setSlot i { parts := ps, bad := 0#258 } := rfl

theorem State.commitChan_eq (c : Nat) (new : Channel) : s.commitChan c new = s.setChan c ((s.chan c).commit new) := rfl

theorem State.resetChannel_eq (c : Nat) :
    s.resetChannel c = ((s.zeroExtent c).modChan c Channel.resetValues).toHead c := rfl

theorem State.halt_eq :
    s.halt = ((s.setTickPending false).setStepDue false).setEngine (if s.frameBusy then .draining else .halted) := rfl

/-- Zeroing slots changes the pool alone. -/
theorem State.zeroSlots_eq (base n : Nat) : s.zeroSlots base n = s.setPool (zeroPool s.pool base n) := rfl

/-- A gap push of no blocks changes nothing (R20). -/
@[simp] theorem State.countedGap_zero : s.countedGap 0 = s := rfl

/-- The fields that a counted gap push changes, and no other (R20, R22, R175). -/
theorem State.countedGap_eq (k : Nat) (h : k ≠ 0) :
    s.countedGap k = { s with history := s.history.gapPush s.geo.refs s.free (gapBlocks k), free := s.free + gapBlocks k, gapTotal := s.gapTotal + BitVec.ofNat 32 (gapBlocks k), pendGap := saturatingAdd Config.pendingLimit s.pendGap (gapBlocks k) } := by
  simp [State.countedGap, h, State.gapPush]

/-- The one update of stage 2 changes the history, the counts of its gap push and the free values' counter alone (R29). -/
theorem State.pushed_eq (gap : Nat) (blocks : List (List Int)) :
    s.pushed gap blocks =
      ((s.countedGap gap).setHistory ((s.countedGap gap).history.processed (s.countedGap gap).geo (s.countedGap gap).free blocks)).setFree ((s.countedGap gap).free + 1) := rfl

/-- With no timing listed, a segment command runs to the end of its segment. -/
theorem moveSegment_whole (d : Direction) (t : Transfer) (h : s.transfer = some t) (hd : t.direction = d)
    (hw : s.moverWorks = true) (hg : s.grants = []) : moveSegment d s = settle (runSegment Config.segmentFuel) s := by
  have hs : s.setGrants [] = s := by cases s; simp_all [State.setGrants]
  simp [moveSegment, h, hd, hw, hg, hs]

/-- A segment command of the wrong direction, or in a state in which the mover pauses, has no effect (R107, R165). -/
theorem moveSegment_idle (d : Direction) (h : ∀ t, s.transfer = some t → t.direction = d → s.moverWorks = false) :
    moveSegment d s = s := by
  unfold moveSegment
  cases ht : s.transfer with
  | none => rfl
  | some t =>
    have := h t ht
    simp only
    split
    · rename_i hc
      simp [this hc.2] at hc
    · rfl

/-- The fields that the START of a page sets, and no other (R181). -/
theorem State.startWith_eq (p : Page) :
    s.startWith p = { s with geo := p.geometry, taken := p.done, done := p.done, history := .cleared, tickPending := false, pendIdle := 0, pendOverload := 0, pendDropped := 0, pendGap := 0, stepResult := .none } := rfl

end Sys2Proof.Machine
end

