-- ==== Sys2Proof/Laws/Work.lean ====
section
/-! SUPPORT. Work: how it composes, what each shared-memory operation can do, and what it does when no access fails. -/

namespace Sys2Proof.Machine

/-! ### Composition -/

@[simp] theorem work_pure {α : Type} (a : α) (s : State) : (pure a : Work α) s = .ok a s := rfl

@[simp] theorem work_bind {α β : Type} (w : Work α) (g : α → Work β) (s : State) :
    (w >>= g) s = match w s with
      | .ok a t => g a t
      | .error f t => .error f t := by
  cases h : w s <;> simp [bind, EStateM.bind, h]

@[simp] theorem work_map {α β : Type} (w : Work α) (g : α → β) (s : State) :
    (g <$> w) s = match w s with
      | .ok a t => .ok (g a) t
      | .error f t => .error f t := by
  cases h : w s <;> simp [Functor.map, EStateM.map, h]

@[simp] theorem getState_apply (s : State) : getState s = .ok s s := rfl

@[simp] theorem update_apply (g : State → State) (s : State) : update g s = .ok () (g s) := rfl

@[simp] theorem fail_apply {α : Type} (f : EngineFault) (s : State) : (fail f : Work α) s = .error f s := rfl

@[simp] theorem freshUse_apply (s : State) : freshUse s = .ok s.free (s.setFree (s.free + 1)) := rfl

@[simp] theorem onFault_apply {α : Type} (w : Work α) (g : State → State) (s : State) :
    onFault w g s = match w s with
      | .ok a t => .ok a t
      | .error f t => .error f (g t) := rfl

/-- The state work leaves, whether it ended or faulted. -/
def leaves {α : Type} (w : Work α) (s : State) : State :=
  match w s with
  | .ok _ t => t
  | .error _ t => t

/-- Work that keeps a property, whether it ends or faults. -/
def Keeps {α : Type} (P : State → Prop) (w : Work α) : Prop :=
  ∀ s, P s → P (leaves w s)

theorem keeps_ok {α : Type} {P : State → Prop} {w : Work α} (h : Keeps P w) {s t : State} {a : α} (hs : P s)
    (e : w s = .ok a t) : P t := by
  have := h s hs
  simpa [leaves, e] using this

theorem keeps_error {α : Type} {P : State → Prop} {w : Work α} (h : Keeps P w) {s t : State} {f : EngineFault} (hs : P s)
    (e : w s = .error f t) : P t := by
  have := h s hs
  simpa [leaves, e] using this

theorem keeps_pure {α : Type} {P : State → Prop} (a : α) : Keeps P (pure a : Work α) := fun _ h => h

theorem keeps_getState {P : State → Prop} : Keeps P getState := fun _ h => h

theorem keeps_fail {α : Type} {P : State → Prop} (f : EngineFault) : Keeps P (fail f : Work α) := fun _ h => h

theorem keeps_update {P : State → Prop} (g : State → State) (h : ∀ s, P s → P (g s)) : Keeps P (update g) := h

theorem keeps_bind {α β : Type} {P : State → Prop} {w : Work α} {g : α → Work β} (hw : Keeps P w) (hg : ∀ a, Keeps P (g a)) :
    Keeps P (w >>= g) := by
  intro s hs
  have h := hw s hs
  simp only [leaves, work_bind] at *
  split at h
  · rename_i a t e
    simpa [e, leaves] using hg a t h
  · rename_i f t e
    simpa [e] using h

theorem keeps_ite {α : Type} {P : State → Prop} {c : Prop} [Decidable c] {v w : Work α} (hv : Keeps P v) (hw : Keeps P w) :
    Keeps P (if c then v else w) := by
  split
  · exact hv
  · exact hw

/-- What `settle` leaves keeps a property that work keeps and raising a fault keeps (R184). -/
theorem settle_keeps {α : Type} {P : State → Prop} {w : Work α} (hw : Keeps P w) (hr : ∀ s f, P s → P (s.raise f)) (s : State)
    (hs : P s) : P (settle w s) := by
  have h := hw s hs
  simp only [leaves, settle] at *
  split at h
  · rename_i a t e
    simpa [e] using h
  · rename_i f t e
    simpa [e] using hr _ _ h

/-! ### One access (R184, R186) -/

@[simp] theorem busAnswer_nil (w : Bool) (a : Nat) : busAnswer [] w a = (false, []) := rfl

/-- Everything an access can do: it is answered, or it fails and changes nothing. -/
theorem busAccess_cases (w : Bool) (a : Nat) (s : State) :
    (∃ b, busAccess w a s = .ok () (s.setBus b)) ∨
      busAccess w a s = .error (addressFault .busError (wordAddress a)) s := by
  unfold busAccess
  split
  · exact .inr rfl
  · exact .inl ⟨_, rfl⟩

/-- Everything a read can do. -/
theorem readWord_cases (a : Nat) (s : State) :
    (∃ b, readWord a s = .ok (memWord s.mem a) (s.setBus b)) ∨
      readWord a s = .error (addressFault .busError (wordAddress a)) s := by
  unfold readWord
  rcases busAccess_cases false a s with ⟨b, h⟩ | h
  · exact .inl ⟨b, by simp [h]⟩
  · exact .inr (by simp [h])

/-- Everything a write within a word can do. -/
theorem writeLanes_cases (a : Nat) (bytes : List Byte) (s : State) :
    (∃ b, writeLanes a bytes s = .ok () ((s.setBus b).setMem (writeBytes s.mem a bytes))) ∨
      writeLanes a bytes s = .error (addressFault .busError (wordAddress a)) s := by
  unfold writeLanes
  rcases busAccess_cases true a s with ⟨b, h⟩ | h
  · exact .inl ⟨b, by simp [h]⟩
  · exact .inr (by simp [h])

/-- Everything a word write can do. -/
theorem writeWord_cases (a : Nat) (w : Word) (s : State) :
    (∃ b, writeWord a w s = .ok () ((s.setBus b).setMem (writeBytes s.mem a (wordBytes w)))) ∨
      writeWord a w s = .error (addressFault .busError (wordAddress a)) s :=
  writeLanes_cases a (wordBytes w) s

/-- The words at consecutive addresses. -/
def memWords (m : List Host.Cell) (a : Nat) : Nat → List Word
  | 0 => []
  | n + 1 => memWord m a :: memWords m (a + 4) n

/-- Shared memory with consecutive words written. -/
def memWithWords (m : List Host.Cell) (a : Nat) : List Word → List Host.Cell
  | [] => m
  | w :: ws => memWithWords (writeBytes m a (wordBytes w)) (a + 4) ws

@[simp] theorem memWords_length (m : List Host.Cell) (a n : Nat) : (memWords m a n).length = n := by
  induction n generalizing a with
  | zero => rfl
  | succ n ih => simp [memWords, ih]

theorem memWords_getElem (m : List Host.Cell) (a n i : Nat) (h : i < n) :
    (memWords m a n)[i]'(by simpa using h) = memWord m (a + 4 * i) := by
  induction n generalizing a i with
  | zero => omega
  | succ n ih =>
    cases i with
    | zero => simp [memWords]
    | succ i =>
      simp only [memWords, List.getElem_cons_succ]
      rw [ih (a + 4) i (by omega)]
      congr 1
      omega

/-- Everything a run of reads can do: the bus and nothing else changes. -/
theorem readWords_cases (a n : Nat) (s : State) :
    (∃ b, readWords a n s = .ok (memWords s.mem a n) (s.setBus b)) ∨
      ∃ b k, readWords a n s = .error (addressFault .busError (wordAddress (a + 4 * k))) (s.setBus b) := by
  induction n generalizing a s with
  | zero => exact .inl ⟨s.bus, rfl⟩
  | succ n ih =>
    unfold readWords
    rcases readWord_cases a s with ⟨b, h⟩ | h
    · rcases ih (a + 4) (s.setBus b) with ⟨b', h'⟩ | ⟨b', k, h'⟩
      · exact .inl ⟨b', by simp [h, h', memWords]⟩
      · exact .inr ⟨b', k + 1, by simp [h, h']; congr 2; ring⟩
    · exact .inr ⟨s.bus, 0, by simp [h]⟩

/-- Everything a run of writes can do: shared memory and the bus and nothing else change. -/
theorem writeWords_cases (a : Nat) (ws : List Word) (s : State) :
    (∃ b, writeWords a ws s = .ok () ((s.setBus b).setMem (memWithWords s.mem a ws))) ∨
      ∃ b k, writeWords a ws s = .error (addressFault .busError (wordAddress (a + 4 * k)))
        ((s.setBus b).setMem (memWithWords s.mem a (ws.take k))) := by
  induction ws generalizing a s with
  | nil => exact .inl ⟨s.bus, rfl⟩
  | cons w ws ih =>
    unfold writeWords
    rcases writeWord_cases a w s with ⟨b, h⟩ | h
    · rcases ih (a + 4) ((s.setBus b).setMem (writeBytes s.mem a (wordBytes w))) with ⟨b', h'⟩ | ⟨b', k, h'⟩
      · exact .inl ⟨b', by simp [h, h', memWithWords]⟩
      · exact .inr ⟨b', k + 1, by simp [h, h', memWithWords]; congr 2; ring⟩
    · exact .inr ⟨s.bus, 0, by simp [h, memWithWords]⟩

theorem memWithWords_wf (m : List Host.Cell) (a : Nat) (ws : List Word) (h : memoryWf m = true) :
    memoryWf (memWithWords m a ws) = true := by
  induction ws generalizing m a with
  | nil => exact h
  | cons w ws ih => exact ih _ _ (writeBytes_wf m a _ h)

/-- Bytes outside the words written read as before. -/
theorem readByte_memWithWords_other (m : List Host.Cell) (a : Nat) (ws : List Word) (b : Nat)
    (h : ∀ i < 4 * ws.length, cellOf b ≠ cellOf (a + i)) : readByte (memWithWords m a ws) b = readByte m b := by
  induction ws generalizing m a with
  | nil => rfl
  | cons w ws ih =>
    simp only [memWithWords]
    simp only [List.length_cons] at h
    rw [ih]
    · exact readByte_writeBytes_other m a _ b (fun i hi => h i (by simp [wordBytes] at hi; omega))
    · intro i hi
      have := h (i + 4) (by omega)
      rwa [show a + (i + 4) = a + 4 + i by omega] at this

/-! ### The same when no access fails -/

theorem readWord_quiet (a : Nat) (s : State) (h : s.bus = []) : readWord a s = .ok (memWord s.mem a) s := by
  cases s
  simp only at h
  subst h
  rfl

theorem writeLanes_quiet (a : Nat) (bytes : List Byte) (s : State) (h : s.bus = []) :
    writeLanes a bytes s = .ok () (s.setMem (writeBytes s.mem a bytes)) := by
  cases s
  simp only at h
  subst h
  rfl

theorem writeWord_quiet (a : Nat) (w : Word) (s : State) (h : s.bus = []) :
    writeWord a w s = .ok () (s.setMem (writeBytes s.mem a (wordBytes w))) :=
  writeLanes_quiet a (wordBytes w) s h

theorem readWords_quiet (a n : Nat) (s : State) (h : s.bus = []) : readWords a n s = .ok (memWords s.mem a n) s := by
  induction n generalizing a with
  | zero => rfl
  | succ n ih =>
    unfold readWords
    simp [readWord_quiet a s h, ih, memWords]

theorem writeWords_quiet (a : Nat) (ws : List Word) (s : State) (h : s.bus = []) :
    writeWords a ws s = .ok () (s.setMem (memWithWords s.mem a ws)) := by
  induction ws generalizing a s with
  | nil => rfl
  | cons w ws ih =>
    unfold writeWords
    simp only [work_bind, writeWord_quiet a w s h]
    rw [ih _ _ (by simpa using h)]
    simp [memWithWords]

/-! ### Notice and completions (R145, R177) -/

theorem noticeIf_apply (asked : Bool) (s : State) : noticeIf asked s = .ok () (s.setNotice (s.notice || asked)) := by
  cases asked
  · simp [noticeIf]
  · simp [noticeIf, setNotice]

/-- Shared memory after a completion (R145). -/
def memWithCompletion (m : List Host.Cell) (address : Word) (code : Code) (sequence result : Word) : List Host.Cell :=
  writeBytes
    (writeBytes
      (writeBytes (writeBytes m (address.toNat + 0x30) (wordBytes result)) (address.toNat + 0x2C) (wordBytes (codeWord code)))
      (address.toNat + 0x28) (wordBytes sequence))
    (address.toNat + 4) [3#8]

/-- A completion when no access fails. -/
theorem complete_quiet (address : Word) (code : Code) (sequence result : Word) (notify : Bool) (s : State) (h : s.bus = []) :
    complete address code sequence result notify s =
      .ok () ((s.setMem (memWithCompletion s.mem address code sequence result)).setNotice (s.notice || notify)) := by
  simp [complete, writeWord_quiet, writeLanes_quiet, h, noticeIf_apply, memWithCompletion]

/-- Two states that differ in shared memory, the bus and notice-pending alone. -/
def BusOnly (s t : State) : Prop :=
  ∃ b m n, t = ((s.setBus b).setMem m).setNotice n

theorem BusOnly.refl (s : State) : BusOnly s s := ⟨s.bus, s.mem, s.notice, by simp⟩

theorem BusOnly.trans {s t u : State} (h : BusOnly s t) (k : BusOnly t u) : BusOnly s u := by
  obtain ⟨b, m, n, rfl⟩ := h
  obtain ⟨b', m', n', rfl⟩ := k
  exact ⟨b', m', n', by simp⟩

theorem busOnly_bind {α β : Type} {w : Work α} {g : α → Work β} (hw : ∀ s, BusOnly s (leaves w s))
    (hg : ∀ a s, BusOnly s (leaves (g a) s)) (s : State) : BusOnly s (leaves (w >>= g) s) := by
  have h := hw s
  simp only [leaves, work_bind] at h ⊢
  cases e : w s with
  | ok a t =>
    rw [e] at h
    exact h.trans (hg a t)
  | error f t =>
    rw [e] at h
    exact h

theorem readWord_busOnly (a : Nat) (s : State) : BusOnly s (leaves (readWord a) s) := by
  rcases readWord_cases a s with ⟨b, h⟩ | h
  · exact ⟨b, s.mem, s.notice, by simp only [leaves, h]; rfl⟩
  · simpa [leaves, h] using BusOnly.refl s

theorem writeLanes_busOnly (a : Nat) (bytes : List Byte) (s : State) : BusOnly s (leaves (writeLanes a bytes) s) := by
  rcases writeLanes_cases a bytes s with ⟨b, h⟩ | h
  · exact ⟨b, writeBytes s.mem a bytes, s.notice, by simp only [leaves, h]; rfl⟩
  · simpa [leaves, h] using BusOnly.refl s

theorem writeWord_busOnly (a : Nat) (w : Word) (s : State) : BusOnly s (leaves (writeWord a w) s) :=
  writeLanes_busOnly a (wordBytes w) s

theorem readWords_busOnly (a n : Nat) (s : State) : BusOnly s (leaves (readWords a n) s) := by
  rcases readWords_cases a n s with ⟨b, h⟩ | ⟨b, k, h⟩
  · exact ⟨b, s.mem, s.notice, by simp only [leaves, h]; rfl⟩
  · exact ⟨b, s.mem, s.notice, by simp only [leaves, h]; rfl⟩

theorem writeWords_busOnly (a : Nat) (ws : List Word) (s : State) : BusOnly s (leaves (writeWords a ws) s) := by
  rcases writeWords_cases a ws s with ⟨b, h⟩ | ⟨b, k, h⟩
  · exact ⟨b, memWithWords s.mem a ws, s.notice, by simp only [leaves, h]; rfl⟩
  · exact ⟨b, memWithWords s.mem a (ws.take k), s.notice, by simp only [leaves, h]; rfl⟩

theorem noticeIf_busOnly (asked : Bool) (s : State) : BusOnly s (leaves (noticeIf asked) s) :=
  ⟨s.bus, s.mem, s.notice || asked, by simp only [leaves, noticeIf_apply]; rfl⟩

/-- A completion changes shared memory, the bus and notice-pending alone, whether it ends or faults (R145). -/
theorem complete_busOnly (address : Word) (code : Code) (sequence result : Word) (notify : Bool) (s : State) :
    BusOnly s (leaves (complete address code sequence result notify) s) := by
  unfold complete
  exact busOnly_bind (writeWord_busOnly _ _)
    (fun _ => busOnly_bind (writeWord_busOnly _ _)
      (fun _ => busOnly_bind (writeWord_busOnly _ _)
        (fun _ => busOnly_bind (writeLanes_busOnly _ _) (fun _ => noticeIf_busOnly _)))) s

/-! ### The memory operations keep the canonical form of shared memory -/

/-- Shared memory has its canonical form. -/
def MemOk (s : State) : Prop :=
  memoryWf s.mem = true

theorem readWord_memOk (a : Nat) : Keeps MemOk (readWord a) := by
  intro s hs
  rcases readWord_cases a s with ⟨b, h⟩ | h
  · simpa [leaves, h, MemOk] using hs
  · simpa [leaves, h] using hs

theorem writeLanes_memOk (a : Nat) (bytes : List Byte) : Keeps MemOk (writeLanes a bytes) := by
  intro s hs
  rcases writeLanes_cases a bytes s with ⟨b, h⟩ | h
  · simpa [leaves, h, MemOk] using writeBytes_wf s.mem a bytes hs
  · simpa [leaves, h] using hs

theorem writeWord_memOk (a : Nat) (w : Word) : Keeps MemOk (writeWord a w) :=
  writeLanes_memOk a (wordBytes w)

theorem readWords_memOk (a n : Nat) : Keeps MemOk (readWords a n) := by
  intro s hs
  rcases readWords_cases a n s with ⟨b, h⟩ | ⟨b, k, h⟩
  · simpa [leaves, h, MemOk] using hs
  · simpa [leaves, h, MemOk] using hs

theorem writeWords_memOk (a : Nat) (ws : List Word) : Keeps MemOk (writeWords a ws) := by
  intro s hs
  rcases writeWords_cases a ws s with ⟨b, h⟩ | ⟨b, k, h⟩
  · simpa [leaves, h, MemOk] using memWithWords_wf s.mem a ws hs
  · simpa [leaves, h, MemOk] using memWithWords_wf s.mem a _ hs

theorem noticeIf_memOk (asked : Bool) : Keeps MemOk (noticeIf asked) := by
  intro s hs
  simpa [leaves, noticeIf_apply, MemOk] using hs

theorem complete_memOk (address : Word) (code : Code) (sequence result : Word) (notify : Bool) :
    Keeps MemOk (complete address code sequence result notify) := by
  unfold complete
  exact keeps_bind (writeWord_memOk _ _) (fun _ => keeps_bind (writeWord_memOk _ _) (fun _ =>
    keeps_bind (writeWord_memOk _ _) (fun _ => keeps_bind (writeLanes_memOk _ _) (fun _ => noticeIf_memOk _))))

/-! ### Checked reads of the pool (R92) -/

/-- Everything a checked read can do: the stored parts, or zeros and a zeroed slot. -/
theorem readSlot_cases (i : Nat) (s : State) :
    ((s.slot i).bad = 0#258 ∧ readSlot i s = .ok ((s.slot i).parts, false) s) ∨
      ((s.slot i).bad ≠ 0#258 ∧ readSlot i s = .ok (Slot.zero.parts, true) (s.setSlot i .zero)) := by
  unfold readSlot
  split
  · rename_i h
    exact .inl ⟨h, rfl⟩
  · rename_i h
    exact .inr ⟨h, rfl⟩

/-! ### Segments (R104, R105) -/

/-- An access to the pool waits while the engine asks for the port. -/
theorem runSegment_waits (n : Nat) (s : State) (t : Transfer) (a : MoverAccess) (ht : s.transfer = some t)
    (ha : t.access = some a) (hp : a.usesPort = true) (he : s.engineAsks = true) : runSegment n s = .ok () s := by
  cases n with
  | zero => rfl
  | succ n => simp [runSegment, ht, ha, hp, he]

/-- An access that need not wait is made, and the segment goes on if it is not complete. -/
theorem runSegment_succ (n : Nat) (s : State) (t : Transfer) (a : MoverAccess) (ht : s.transfer = some t)
    (ha : t.access = some a) (hp : a.usesPort = true → s.engineAsks = false) :
    runSegment (n + 1) s = (moverUnit t a >>= fun _ => getState >>= fun u =>
      if u.segmentGoesOn t.progress = true then runSegment n else pure ()) s := by
  have hc : ¬ (a.usesPort = true ∧ s.engineAsks = true) := fun h => by simp [hp h.1] at h
  simp [runSegment, ht, ha, hc]

/-- With no frame in flight the engine never asks for the port. -/
theorem engineAsks_at_rest (s : State) (h : s.flight = none) : s.engineAsks = false := by
  simp [State.engineAsks, h]

/-- Past stage 1 the frame alone says whether the engine asks for the port. -/
theorem engineAsks_past_stage_one (s : State) (f : Flight) (h : s.flight = some f) (hp : f.phase ≠ .apply) :
    s.engineAsks = f.asks := by
  simp [State.engineAsks, h, hp]

/-! ### The units of a STEP (R138, R182) -/

/-- A STEP with nothing left to do within it ends there. -/
theorem runStep_ends (n : Nat) (s : State) (h : s.stepGoesOn = false) : runStep n s = .ok () s := by
  cases n with
  | zero => rfl
  | succ n => simp [runStep, h]

/-- A STEP with more to do makes one unit of the block's own progress and goes on with a unit less. -/
theorem runStep_succ (n : Nat) (s : State) (h : s.stepGoesOn = true) :
    runStep (n + 1) s = (progress >>= fun _ => runStep n) s := by
  simp [runStep, h]

/-- A STEP with one unit more makes one unit of the block's own progress more, if one is left (R182). -/
theorem runStep_last (n : Nat) (s : State) : runStep (n + 1) s = (do
    runStep n
    let t ← getState
    if t.stepGoesOn then progress else pure ()) s := by
  induction n generalizing s with
  | zero => by_cases h : s.stepGoesOn = true <;> simp [runStep, h]
  | succ n ih =>
    by_cases h : s.stepGoesOn = true
    · simp only [work_bind, runStep_succ _ s h]
      cases progress s with
      | ok a t => simpa only [work_bind] using ih t
      | error f t => rfl
    · simp [runStep, h]

/-- A run of one stage unit more makes one unit more. -/
theorem runStages_last (n : Nat) (s : State) : runStages (n + 1) s = (do runStages n; stageUnit) s := by
  induction n generalizing s with
  | zero =>
    cases hf : s.flight with
    | none => simp [runStages, stageUnit, hf]
    | some f => by_cases h : f.phase.stagesEnded = true <;> simp [runStages, stageUnit, hf, h]
  | succ n ih =>
    cases hf : s.flight with
    | none => simp [runStages, stageUnit, hf]
    | some f =>
      by_cases h : f.phase.stagesEnded = true
      · simp [runStages, stageUnit, hf, h]
      · have goes : ∀ k, runStages (k + 1) s = (frameUnit f >>= fun _ => runStages k) s := fun k => by simp [runStages, hf, h]
        simp only [work_bind, goes]
        cases frameUnit f s with
        | ok a t => simpa only [work_bind] using ih t
        | error g t => rfl

/-- A plan's units are made one after another: those of a plan that goes on follow those of its beginning (notes/assumptions/3.md). -/
theorem runPlan_append (plan more : List Party) (due : Bool) :
    runPlan (plan ++ more) due = (do
      let still ← runPlan plan due
      runPlan more still) := by
  induction plan generalizing due with
  | nil => simp [runPlan]
  | cons p rest ih =>
    cases p with
    | intake => simp [runPlan, ih]
    | frame => cases due <;> simp [runPlan, ih]

/-! ### Divergence events (R85) -/

@[simp] theorem measureStep_strikes (x : Channel) (lx : Int) (w : ChanWork) : (measureStep x lx w).strikes = x.strikes := by
  unfold measureStep
  split <;> rfl

@[simp] theorem dwellTest_strikes (x : Channel) (q : Bool) (limit : Int) (next : ChanState) :
    (dwellTest x q limit next).strikes = x.strikes := by
  simp only [dwellTest, apply_ite Channel.strikes, ite_self]

@[simp] theorem dwellStep_strikes (x : Channel) (w : ChanWork) : (dwellStep x w).strikes = x.strikes := by
  unfold dwellStep
  split
  · split <;> simp
  · rfl

/-- A push keeps a ring at 64 spectra (R17, R18). -/
theorem pushRing_length (ring : List Spectrum) (x : Spectrum) (h : ring.length = 64) : (pushRing ring x).length = 64 := by
  simp [pushRing, h, Config.ringDepth]

/-- A free rational confined to bounds that are not negative is not negative. -/
theorem pickRat_nonneg (lo hi choice : Rat) (hl : 0 ≤ lo) (hh : 0 ≤ hi) : 0 ≤ pickRat lo hi choice := by
  unfold pickRat
  split_ifs with _ h
  · exact hl
  · exact hl
  · exact hh
  · exact hl.trans (not_lt.mp h)

/-- A power is never negative after a step (R17, R23). -/
theorem powerStep_nonneg (pw : Rat) (p : Rat × Rat) (choice : Rat) : 0 ≤ powerStep pw p choice :=
  pickRat_nonneg _ _ _ (le_max_left _ _) (le_max_left _ _)

/-- Noting a failed capture changes the frame in flight alone (R93). -/
theorem noteFailedCapture_eq (s : State) (c : Nat) :
    s.noteFailedCapture c =
      { s with flight := s.flight.map fun f => { f with failedCaptures := c :: f.failedCaptures } } := rfl

/-- A channel whose capture a parity failure of the frame has ended is no candidate of its walk (R93). -/
theorem candidateIn_failedCapture (s : State) (f : Flight) (c : Nat) (h : c ∈ f.failedCaptures) : s.candidateIn f c = false := by
  simp [State.candidateIn, h]

/-- Stage 7 finds a divergence event exactly where it acts on the channel and a granted block is its eighth strike. -/
theorem divergesIn_iff (s : State) (f : Flight) (c : Nat) :
    s.divergesIn f c = true ↔
      s.commits f c = true ∧ (f.chanWork c).granted = true ∧ (f.chanWork c).lm + 24 < (f.chanWork c).le ∧ 7 ≤ (f.ctx c).strikes := by
  simp only [State.divergesIn, State.stageSevenOf, diverges, stageSeven, strikeStep, Bool.and_eq_true]
  by_cases hg : (f.chanWork c).granted = true
  · by_cases hl : (f.chanWork c).lm + 24 < (f.chanWork c).le
    · simp [hg, hl]
    · simp [hg, hl]
  · simp [hg]

/-! ### Restore ends and the end of a frame (R161, R174) -/

/-- Where no restore's end is ready, nothing is taken. -/
theorem takeReadyEnd_waits (s : State) (h : ∀ t, s.transfer = some t → t.endReady = false) : takeReadyEnd s = .ok () s := by
  cases ht : s.transfer with
  | none => simp [takeReadyEnd, ht]
  | some t => simp [takeReadyEnd, ht, h t ht]

/-- A restore's end that is ready is taken. -/
theorem takeReadyEnd_takes (s : State) (t : Transfer) (ht : s.transfer = some t) (h : t.endReady = true) :
    takeReadyEnd s = takeRestoreEnd t s := by
  simp [takeReadyEnd, ht, h]

/-- The units of a frame stop where the done count is next. -/
theorem runToCount_stops (n : Nat) (s : State) (f : Flight) (h : s.flight = some f) (hp : f.phase = .count) :
    runToCount n s = .ok () s := by
  cases n with
  | zero => rfl
  | succ n => simp [runToCount, h, hp]

/-- Before the done count one unit of the frame is made, and the rest follow. -/
theorem runToCount_succ (n : Nat) (s : State) (f : Flight) (h : s.flight = some f) (hp : f.phase ≠ .count) :
    runToCount (n + 1) s = (frameUnit f >>= fun _ => runToCount n) s := by
  simp [runToCount, h, hp]

end Sys2Proof.Machine
end

