-- ==== Sys2Proof/WellFormed.lean ====
section
/-! DEFINITION. Which operands a command can carry: an upset names a part of a slot that exists (R91), and the value of a write
that is ignored is one that R180 can ignore in some state. -/

namespace Sys2Proof

/-- The slot and the part an upset hits exist: 2048 slots of 258 parts (R91). -/
def upsetInRange (slot part : Nat) : Bool :=
  decide (slot < Config.poolSlots) && decide (part < Config.slotParts)

/-- Whether R180 can ignore `value` in some state: ACK_NOTICE (7) is taken in every state and is never ignored. -/
def ectlIgnorable (value : Word) : Bool :=
  decide (value ≠ 7#32)

/-- Well-formedness of a command's operands. -/
def Instr.wellFormed : Instr → Bool
  | .powerOn => true
  | .resetN _ => true
  | .resetClearingEnd => true
  | .xbaseWrite _ => true
  | .registerWriteNoEffect _ _ => true
  | .efaultRead => true
  | .start => true
  | .startStepped => true
  | .step _ => true
  | .halt => true
  | .abort => true
  | .softReset => true
  | .ackNotice => true
  | .ectlValueIgnored value => ectlIgnorable value
  | .blktick _ => true
  | .captureSegment => true
  | .restoreSegment => true
  | .restoreEnd => true
  | .frameCycleEnd _ => true
  | .storageUpset slot part _ => upsetInRange slot part

end Sys2Proof
end

