-- ==== Sys2Proof/Tests/Slice0.lean ====
section
/-! SUPPORT. Tests of the model: operands that well-formedness refuses, the tables and worked examples of the spec, one or two steps
of each command on a small state, and, for each statement with hypotheses, a state that meets them (theorems `witness_…`). Expected
values are the spec's own or are worked out by hand from its rules. -/

namespace Sys2Proof.Tests

open Sys2Proof Sys2Proof.Machine

/- One theorem after another: kernel evaluations that wait for each other would each hold a thread. -/
set_option Elab.async false

/-! ### Operands -/

theorem test_upset_of_no_slot_is_ill_formed : (Instr.storageUpset 2048 0 1#32).wellFormed = false := by decide

theorem test_upset_of_no_part_is_ill_formed : (Instr.storageUpset 0 258 1#32).wellFormed = false := by decide

theorem test_upset_of_the_last_part_is_well_formed : (Instr.storageUpset 2047 257 1#32).wellFormed = true := by decide

theorem test_ack_notice_is_never_ignored : (Instr.ectlValueIgnored 7#32).wellFormed = false := by decide

theorem test_no_word_spells_a_command : decodeTableWord 32 1 = none := by decide

/-! ### Tables of the spec -/

/-- 1.1: how words are read, and which are clamped. -/
theorem test_sample_words :
    [0x007FFFFF#32, 0xFF800000#32, 0xFFFFFFFF#32, 0x00800000#32, 0x00FFFFFF#32, 0x80000000#32].map
      (fun w => (sampleOf w, clampsWord w)) =
    [(8388607, false), (-8388608, false), (-1, false), (8388607, true), (8388607, true), (-8388608, true)] := by
  decide +kernel

/-- 1.2: 2.5, -2.5, 2.49, -2.49 and 5023.80 rounded. -/
theorem test_rounding :
    [roundQuotient 5 2, roundQuotient (-5) 2, roundQuotient 249 100, roundQuotient (-249) 100, roundQuotient 502380 100] =
    [3, -3, 2, -2, 5024] := by decide +kernel

/-- 1.3: the levels of its table's energies. -/
theorem test_levels :
    [2 ^ 53, 128 * (2 ^ 23 - 1) ^ 2, 2 ^ 47, 10368, 8192, 9025, 0].map levelOfEnergy = [0, -1, -73, -478, -480, -480, -480] := by
  decide +kernel

/-- 1.4: single steps from 24. -/
theorem test_smoothing : [40, 30, 24, 23, 20, 7].map (fun t => smooth 24 t 8) = [26, 24, 24, 23, 23, 21] := by decide

/-- 1.5: selected gains. -/
theorem test_gains :
    [0, -1, -4, -8, -12, -24, -40, -48, -60, -80, -100, -120, -160].map gain =
    [32767, 31838, 29205, 26029, 23198, 16423, 10362, 8231, 5827, 3277, 1843, 1036, 328] := by decide +kernel

/-- 8.6: an error sample of 20,000 in frames 702 and 706. -/
theorem test_scaling : [scaleSample 5501 20000, scaleSample 32767 20000] = [3358, 19999] := by decide +kernel

/-- 3.7: HEAD and TAIL of n = 3 in P = 8, and their complements. -/
theorem test_windows :
    [(WindowMode.head, false), (.tail, false), (.head, true), (.tail, true), (.all, true)].map
      (fun w => (List.range 8).filter (fun p => ({ mode := w.1, n := 3, complement := w.2 } : AdaptWindow).selects 8 p)) =
    [[0, 1, 2], [5, 6, 7], [3, 4, 5, 6, 7], [0, 1, 2, 3, 4], []] := by decide

/-- The allocation list of 6.5 after frame 32. -/
def list32 : List Extent :=
  [⟨0, 0, 256⟩, ⟨8, 256, 128⟩, ⟨10, 384, 128⟩, ⟨2, 512, 128⟩, ⟨3, 640, 256⟩, ⟨9, 896, 256⟩, ⟨5, 1152, 256⟩, ⟨6, 1408, 256⟩,
   ⟨7, 1664, 256⟩]

/-- 6.5, frames 31 to 33: channel 10 fits the gap 384..511 when it stands free, and 256 slots then find no room. -/
theorem test_allocation :
    let before := list32.filter (fun e => decide (e.chan ≠ 10))
    (freeTotal before, largestGap before, firstFit before 256, firstFit before 128) = (256, 128, none, some 384) ∧
    (freeTotal list32, firstFit list32 256) = (128, none) := by decide +kernel

/-- 7.7, frame 500: twelve grants of 2944 units, channel 13 deferred, and the rotated queue. -/
theorem test_walk_of_frame_500 :
    let queue := [3, 7, 1, 12, 0, 9, 4, 14, 2, 10, 5, 15, 6, 11, 8, 13]
    let r := walkQueue (fun c => decide (c ≠ 7 ∧ c ≠ 12 ∧ c ≠ 6)) (fun c => if c = 3 then 128 else 256) queue 3072
    (r.units, r.deferred, rotateQueue queue r.granted) =
    (2944, [13], [7, 12, 6, 13, 3, 1, 0, 9, 4, 14, 2, 10, 5, 15, 11, 8]) := by decide +kernel

/-- 8.6: the ramp through frames 700 to 706. -/
theorem test_ramp :
    [ramp (-40) (-62) 8 2, ramp (-48) (-62) 8 2, ramp (-56) (-62) 8 2, ramp (-62) 0 8 2, ramp (-60) 0 8 2, ramp (-58) 0 8 48,
     ramp (-10) 0 8 48] = [-48, -56, -62, -60, -58, -10, 0] := by decide

/-- 8.7: the coupling steps of frames 1200 and 1201, and the suspension at a divergence history of 1000, 1090, 1200. -/
theorem test_suspension :
    couplingStep (-78) (-160) (-80) = -79 ∧ couplingStep (-79) (-160) (-80) = -80 ∧
    suspends (appendDivergence [1000#32, 1090#32] 1200#32) 1200#32 = true ∧
    suspends (appendDivergence [949#32, 1090#32] 1200#32) 1200#32 = false := by decide

/-- 9.8: the order in which s, u, w stand beside q and p; an entry goes behind those with an equal due. -/
theorem test_filing_order :
    let e (n : Nat) (due : Word) : Entry :=
      { addr := BitVec.ofNat 32 n, action := .freeze, chan := 2, due := due, late := false, notify := false }
    (insertEntry (e 4 600) (insertEntry (e 3 600) [e 1 602, e 2 605])).map Entry.addr = [3, 4, 1, 2] := by decide

/-! ### A small room -/

/-- Two microphones, one reference, four slots of 4096 bytes at 0x10000, a window of 0x1000..0xFFFFF and a directory of two. -/
def geo : Geometry :=
  { ringBase := 0x10000, slotCount := 4, stride := 4096, mics := 2, refs := 1, latency := 3, tFe := -240, farHold := 8,
    tRes := -240, firstCmd := 0, dirAddr := 0x3000, dirCount := 2, winBase := 0x1000, winLimit := 0x100000 }

/-- The engine in RUNNING with nothing in flight. -/
def idle : State :=
  { State.reset with engine := .running, xbase := 0x1000, geo := geo }

/-- Shared memory with words written. -/
def words (m : List Host.Cell) (ws : List (Nat × Word)) : List Host.Cell :=
  ws.foldl (fun m w => writeBytes m w.1 (wordBytes w.2)) m

/-- The frame with count 5 in flight at a phase. -/
def flight (phase : Phase) : Flight :=
  { count := 5, gap := 0, notify := false, byStep := false, phase := phase, start := Vector.replicate 16 .off, refClips := [],
    cost := 0, units := 0, work := Vector.replicate 16 .none, event := false }

/-- The frame with count 5 in flight at a phase, T and D agreeing with it. -/
def during (phase : Phase) : State :=
  { idle with flight := some (flight phase), taken := 6, done := 5 }

/-- Channel 0 in a state, with four partitions at the pool's bottom. -/
def channel (st : ChanState) : Channel :=
  { Channel.configured 4 with state := st }

/-- A state with channel 0 in `st` and its extent listed. -/
def State.having (s : State) (st : ChanState) (queue : List Nat) : State :=
  { s with channels := s.channels.set 0 (channel st), alloc := [⟨0, 0, 4⟩], queue := queue }

/-- An entry for channel 0 whose record lies at 0x2000, due at frame 5. -/
def entry (action : Action) : Entry :=
  { addr := 0x2000, action := action, chan := 0, due := 5, late := false, notify := false }

/-- A state whose next unit applies the entry. -/
def applying (action : Action) : State :=
  { during .apply with table := [entry action] }

/-- A transfer on channel 0 whose profile slot lies at 0x4000. -/
def transfer (direction : Direction) (copy fill progress : Nat) : Transfer :=
  { direction := direction, chan := 0, index := 0, slotAddr := 0x4000, capacity := 16, copy := copy, fill := fill,
    progress := progress, fitted := false, cmd := 0x2000, late := false, notify := true, parts := 4, erle := 90, coupling := -70 }

/-- The part of a next state that a test looks at. -/
def look {α : Type} (f : State → α) : Host.Outcome State Fault Refusal → Option α
  | .next t => some (f t)
  | .fault _ => none
  | .refused _ => none

/-! ### The commands -/

theorem test_power_on_clears_xbase : look (fun t => (t.engine, t.xbase)) (exec .powerOn idle) = some (.reset, 0) := by decide

theorem test_soft_reset_keeps_xbase : look (fun t => (t.engine, t.xbase)) (exec .softReset idle) = some (.reset, 0x1000) := by
  decide

theorem test_reset_pin_holds_reset :
    look (fun t => look State.engine (exec .resetClearingEnd t)) (exec (.resetN .low) idle) = some (some .reset) := by decide

theorem test_clearing_ends_in_halted : look State.engine (exec .resetClearingEnd State.reset) = some .halted := by decide

theorem test_xbase_write_needs_halted :
    look (fun t => (t.xbase, t.ignored)) (exec (.xbaseWrite 0x80) idle) = some (0x1000, true) ∧
    look (fun t => (t.xbase, t.ignored)) (exec (.xbaseWrite 0x80) { idle with engine := .halted }) = some (0x80, false) := by
  decide

theorem test_register_write_without_effect : exec (.registerWriteNoEffect .efault 5) idle = .next idle := by rfl

/-- EFAULT with detail 5 (byte address 20) and WINDOW. -/
theorem test_efault_read :
    look (fun t => (t.readData, t.engine)) (exec .efaultRead { idle with engine := .faulted, faultCode := .window, faultDetail := 5 })
      = some (22, .halted) := by decide

/-- A ring of one slot fails check 2: GEOMETRY with field index 1. -/
theorem test_start_with_one_slot_faults :
    look (fun t => (t.faultCode, t.faultDetail, t.notice))
      (exec .start { idle with engine := .halted, mem := words [] [(0x1004, 1)] }) = some (.geometry, 1, true) := by decide +kernel

/-- A control page that passes every check, with done count 100: ring, slots, stride, M, R, L, T_fe, hold, T_res, first command,
directory and count, window. -/
def goodPage : List (Nat × Word) :=
  [(0x1000, 0x10000), (0x1004, 4), (0x1008, 4096), (0x100C, 2), (0x1010, 1), (0x1014, 0), (0x1018, -500), (0x101C, 8),
   (0x1020, -240), (0x1024, 0x2000), (0x1028, 0x3000), (0x102C, 2), (0x1030, 0x1000), (0x1034, 0x100000), (0x1040, 100)]

/-- The engine in HALTED with that page. -/
def startable : State :=
  { State.reset with engine := .halted, xbase := 0x1000, mem := words [] goodPage }

theorem test_start_enters_running :
    look (fun t => (t.engine, t.taken, t.done, t.geo.latency, t.geo.tFe, memWord t.mem 0x103C)) (exec .start startable) =
    some (.running, 100, 100, 3, -400, 100) := by decide +kernel

theorem test_start_stepped_enters_step_wait : look State.engine (exec .startStepped startable) = some .stepWait := by
  decide +kernel

theorem test_step_without_a_frame :
    look (fun t => (t.stepResult, t.idleTotal)) (exec (.step none) { idle with engine := .stepWait }) = some (.noFrame, 0) := by
  decide +kernel

theorem test_step_while_busy_is_ignored :
    look State.ignored (exec (.step none) { during .push with engine := .stepWait }) = some true := by decide

theorem test_halt_drains : look State.engine (exec .halt (during .push)) = some .draining := by decide +kernel

theorem test_halt_at_rest : look State.engine (exec .halt { idle with tickPending := true }) = some .halted := by decide +kernel

/-- The frame with count 5 lies in slot 1, at 0x11000. -/
theorem test_abort_ends_the_frame :
    look (fun t => (t.engine, t.done, readByte t.mem 0x11006, memWord t.mem 0x1040)) (exec .abort (during .push)) =
    some (.halted, 6, 3, 6) := by decide +kernel

theorem test_abort_clears_a_restored_channel :
    look (fun t => ((t.chan 0).state, t.queue, memWord t.mem 0x202C, t.notice))
      (exec .abort { State.having idle .restoring [] with transfer := some (transfer .restore 4 0 3) }) =
    some (.acquire, [0], 18, true) := by decide +kernel

theorem test_ack_notice : look State.notice (exec .ackNotice { idle with notice := true }) = some false := by decide

theorem test_value_out_of_range_is_ignored : look State.ignored (exec (.ectlValueIgnored 8) idle) = some true := by decide

theorem test_idle_tick :
    look (fun t => (t.idleTotal, t.pendIdle, memWord t.mem 0x1044)) (exec (.blktick ⟨[], true⟩) idle) = some (1, 1, 1) := by
  decide +kernel

/-- 11.8 with 8 slots, T = D = 101 and F = 107: three frames are dropped and frame 104 is taken. -/
theorem test_tick_drops_the_backlog :
    look (fun t => ([t.taken, t.done, t.dropTotal, t.gapTotal], [t.pendDropped, t.pendGap], t.flight.isSome))
      (exec (.blktick ⟨[], false⟩)
        { idle with geo := { geo with slotCount := 8 }, taken := 101, done := 101,
                    mem := words [] [(0x1038, 107), (0x10000, 104)] }) =
    some ([105, 104, 3, 3], [3, 3], true) := by decide +kernel

/-- A restored slot's part 1, the imaginary part of bin 0, is zero. -/
theorem test_restore_segment :
    look (fun t => ((t.slot 0).parts.getD 0 0, (t.slot 0).parts.getD 1 0, t.transfer.map Transfer.progress))
      (exec .restoreSegment
        { State.having idle .restoring [] with transfer := some (transfer .restore 1 3 0)
                                               mem := words [] [(0x4040, 9), (0x4044, 9)] }) =
    some (9, 0, some 1) := by decide +kernel

theorem test_restore_end_enters_track :
    look (fun t => ((t.chan 0).state, (t.chan 0).erle, t.queue, memWord t.mem 0x2030))
      (exec .restoreEnd { State.having idle .restoring [] with transfer := some (transfer .restore 4 0 4) }) =
    some (.track, 90, [0], 4) := by decide +kernel

/-- After the walk the end waits, and so it does between two channels of stage 3. -/
theorem test_restore_end_waits :
    [Phase.commit 0, .estimate 1, .filter 1].map (fun phase => look (fun t => (t.chan 0).state)
      (exec .restoreEnd { State.having (during phase) .restoring [] with transfer := some (transfer .restore 4 0 4) })) =
    [some .restoring, some .restoring, some .restoring] := by decide +kernel

theorem test_frame_cycle_end :
    look (fun t => (t.done, t.flight.isSome, readByte t.mem 0x11006, memWord t.mem 0x1040))
      (exec (.frameCycleEnd none) (during .status)) = some (6, false, 1, 6) := by decide +kernel

theorem test_upset_breaks_parity :
    look (fun t => (decide ((t.slot 3).bad = 0#258), decide ((t.slot 4).bad = 0#258))) (exec (.storageUpset 3 257 5) idle) =
    some (false, true) := by decide +kernel

/-! ### Witnesses: states that meet the hypotheses of the statements -/

/-- No transfer is ready when none is in flight. -/
theorem no_end_ready {s : State} (h : s.transfer = none) : s.NoEndReady := by
  intro u hu
  simp [h] at hu

theorem witness_StepTakesFrontCommand : idle.pending = [] ∧ idle.flight = none ∧ idle.intake = none ∧ idle.stepDue = false :=
  ⟨rfl, rfl, rfl, rfl⟩

theorem witness_PowerOnAndSoftResetClear : idle.engine ≠ .reset := by decide

theorem witness_ResetPinAndClearingEnd :
    State.reset.engine = .reset ∧ State.reset.resetLow = false ∧ { State.reset with resetLow := true }.resetLow = true ∧
    idle.engine ≠ .reset := by decide

theorem witness_RegisterAccesses :
    { idle with engine := .faulted, faultCode := .window }.engine = .faulted ∧ idle.engine ≠ .faulted ∧
    idle.faultCode = .none ∧ idle.faultDetail = 0 := by decide

/-- RESET takes no action but ACK_NOTICE; the ignored values next to 1..7; a value whose action is not taken. -/
theorem witness_UntakenActionsAreIgnored :
    (State.reset.engine ≠ .halted ∧ State.reset.engine ≠ .stepWait ∧ State.reset.engine ≠ .running ∧
      State.reset.engine ≠ .draining ∧ State.reset.engine = .reset) ∧
    (during .push).flight.isSome = true ∧ (0#32).toNat < 1 ∧ 7 < (8#32).toNat ∧
    actionOf 1 = some .start ∧ State.reset.takes .start = false := by decide

/-- An engine in HALTED whose control page holds the good page with some words written over. -/
def withPage (ws : List (Nat × Word)) : State :=
  { startable with mem := words [] (goodPage ++ ws) }

/-- That engine with a restore of channel 0 whose copy and fill are made. -/
def startableReady : State :=
  { startable with transfer := some (transfer .restore 2 2 4) }

/-- The mover of a state with that transfer holds a ready end. -/
theorem holds_ready_end (s : State) (h : s.transfer = some (transfer .restore 2 2 4)) : s.HoldsReadyEnd (transfer .restore 2 2 4) :=
  ⟨h, rfl, by decide, by decide, by decide⟩

/-- Checks 9 to 13 of the good page hold when nothing is in flight or filed, and with a restore whose end is ready. -/
theorem witness_StartEntersRunning :
    (startable.engine = .halted ∧ startable.Quiet ∧ startable.NoEndReady ∧ startable.xbase.toNat % 128 = 0 ∧
      startable.page.GeometryPasses startable ∧ startable.page.PointersPass startable) ∧
    startableReady.engine = .halted ∧ startableReady.Quiet ∧ startableReady.page.GeometryPasses startableReady ∧
    startableReady.page.PointersPass startableReady ∧ startableReady.HoldsReadyEnd (transfer .restore 2 2 4) := by
  refine ⟨⟨rfl, rfl, no_end_ready rfl, by decide, ?_, ?_⟩, rfl, rfl, ?_, ?_, holds_ready_end _ rfl⟩
  · unfold Page.GeometryPasses; decide +kernel
  · refine ⟨by decide +kernel, by decide +kernel, fun _ => by decide +kernel, fun _ _ => by decide +kernel, ?_, ?_, ?_⟩
    · exact fun a h => nomatch h
    · exact fun e h => absurd h List.not_mem_nil
    · exact fun u h => nomatch h
  · unfold Page.GeometryPasses; decide +kernel
  · refine ⟨by decide +kernel, by decide +kernel, fun _ => by decide +kernel, fun _ _ => by decide +kernel, ?_, ?_, ?_⟩
    · exact fun a h => nomatch h
    · exact fun e h => absurd h List.not_mem_nil
    · intro u h
      rw [← Option.some.inj (h : some (transfer .restore 2 2 4) = some u)]
      decide +kernel

/-- START takes a ready end at once: TRACK, at the done count 100 of the page. -/
theorem test_start_takes_a_ready_end :
    look (fun t => (t.engine, (t.chan 0).state, t.transfer, memWord t.mem 0x2028, memWord t.mem 0x202C)) (exec .start startableReady) =
    some (.running, .track, none, 100, 0) := by decide +kernel

/-- The premises of checks 2 to 8, each failing one past its bound: 33 slots; M = 0; R = 5; a stride that is no multiple of 16; a
latency limit of 4 in 4 slots; 17 directory entries; a window limit equal to its base. -/
theorem witness_StartGeometryFaults :
    (withPage [(0x1004, 33)]).page.nat 1 = 33 ∧ (withPage [(0x100C, 0)]).page.nat 3 = 0 ∧
    (withPage [(0x1010, 5)]).page.nat 4 = 5 ∧ (withPage [(0x1008, 4088)]).page.nat 2 % 16 ≠ 0 ∧
    (withPage [(0x1014, 4)]).page.nat 5 = 4 ∧ (withPage [(0x102C, 17)]).page.nat 11 = 17 ∧
    (withPage [(0x1034, 0x1000)]).page.nat 12 = (withPage [(0x1034, 0x1000)]).page.nat 13 := by decide +kernel

/-- Those states fault with the index of the field. -/
theorem test_start_checks_2_to_8 :
    [(0x1004, 33#32), (0x100C, 0), (0x1010, 5), (0x1008, 4088), (0x1014, 4), (0x102C, 17), (0x1034, 0x1000)].map
      (fun w => look State.faultDetail (exec .start (withPage [w]))) =
    [some 1, some 3, some 4, some 2, some 5, some 11, some 13] := by decide +kernel

/-- The engine in HALTED with the good page, an entry whose record lies in the window, and the anchor at `a`. -/
def withAnchor (a : Word) : State :=
  { startable with anchor := some a, table := [entry .freeze], transfer := some (transfer .capture 12 0 3) }

/-- A page at an address that is no multiple of 128; the last two reads, each failing; a page below the window; a ring off 16; a directory
off 16; a first command off 64; an anchor whose record ends past the window's limit; a profile slot that does, its entry inside. -/
theorem witness_StartPointerFaults :
    { startable with xbase := 0x1001 }.xbase.toNat % 128 ≠ 0 ∧
    ({ startable with bus := [⟨false, 0x1034, 0⟩] }).bus = [⟨false, startable.xbase.toNat + 4 * 13, 0⟩] ∧
    ({ startable with bus := [⟨false, 0x1040, 0⟩] }).bus = [⟨false, startable.xbase.toNat + 4 * 16, 0⟩] ∧
    (withPage [(0x1030, 0x1080)]).page.inside 0x1000 128 = false ∧ (withPage [(0x1000, 0x10008)]).page.nat 0 % 16 ≠ 0 ∧
    (withPage [(0x1028, 0x3008)]).page.nat 10 % 16 ≠ 0 ∧ (withPage [(0x1024, 0x2020)]).page.nat 9 % 64 ≠ 0 ∧
    (withAnchor 0xFFFC1).heldStructures =
      [] ++ (0xFFFC1, 64) :: [(0x2000, 64), (0x2000, 64), (0x4000, 64 + 16 * 1032)] ∧
    (withAnchor 0xFFFC1).page.inside 0xFFFC1 64 = false ∧ (withAnchor 0xFFFC0).page.inside 0xFFFC0 64 = true ∧
    (withAnchor 0).page.inside 0x4000 (64 + 16 * 1032) = true := by decide +kernel

/-- Those states fault with the code and bits 31..2 of the address. -/
theorem test_start_checks_9_to_13 :
    [withPage [(0x1030, 0x1080)], withPage [(0x1000, 0x10008)], withPage [(0x1028, 0x3008)], withPage [(0x1024, 0x2020)],
     { startable with xbase := 0x1004 }, { startable with bus := [⟨false, 0x1034, 0⟩] },
     { startable with bus := [⟨false, 0x1040, 0⟩] }, withAnchor 0xFFFC1].map
      (fun s => look (fun t => (t.faultCode, t.faultDetail)) (exec .start s)) =
    [some (.window, 0x400), some (.window, 0x4002), some (.window, 0xC02), some (.window, 0x808), some (.window, 0x401),
     some (.busError, 0x400), some (.busError, 0x400), some (.window, 0x3FFF0)] := by decide +kernel

/-- A FREEZE of channel 1 in hand within an intake, which its step files; the entry it files. -/
def inHand : State :=
  let r : Record :=
    { addr := 0x2040, next := 0, owner := 1, kind := 4, chan := 1, duePresent := false, notify := true, due := 0, params := [] }
  { idle with intake := some { done := some 5, taken := 1, inHand := some r } }

/-- HALT and ABORT let the record in hand complete its step; a step that faults comes first, and the action is ignored. -/
theorem test_record_in_hand_completes_its_step :
    [EngineAction.halt, .abort].map (fun a => look (fun t => (t.engine, t.intake, t.table.map Entry.addr))
      (.next (inHand.attempt none a) : Host.Outcome State Fault Refusal)) =
      [some (.halted, none, [0x2040]), some (.halted, none, [0x2040])] ∧
    look (fun t => (t.engine, t.ignored)) (exec .halt { inHand with geo := { geo with mics := 1 }, bus := [⟨true, 0x206C, 0⟩] }) =
      some (.faulted, true) := by decide +kernel

/-- At rest and with a frame; an intake with no record in hand; one in hand whose step files it, and whose refusal cannot be
written. -/
theorem witness_HaltAndAbortEndTheFrame :
    idle.engine = .running ∧ idle.intake = none ∧
    (during .push).engine = .running ∧ (during .push).Quiet ∧ (during .push).intake = none ∧ (during .push).transfer = none ∧
    (during .push).xbase.toNat % 128 = 0 ∧ (during .push).flight = some (flight .push) ∧ idle.flight = none ∧
    Apart ((during .push).geo.slotOf 5 + 6) 1 ((during .push).pageField 0x40) 4 ∧
    { idle with intake := some freshIntake }.intake = some freshIntake ∧ freshIntake.inHand = none ∧
    inHand.engine = .running ∧ (inHand.intake.bind Intake.inHand).isSome = true ∧
    look (fun t => decide (t.engine = .faulted)) (execIdle inHand) = some false ∧
    look (fun t => decide (t.engine = .faulted)) (execIdle { inHand with geo := { geo with mics := 1 }, bus := [⟨true, 0x206C, 0⟩] }) =
      some true := by
  refine ⟨rfl, rfl, rfl, rfl, rfl, rfl, by decide, rfl, rfl, ?_, rfl, rfl, rfl, rfl, by decide +kernel, by decide +kernel⟩
  unfold Apart; decide +kernel

/-- No frame in flight, and one: what its end writes lies apart from the record and the profile slot. -/
theorem witness_AbortEndsTheTransfer :
    (∀ d, let s := { during .push with transfer := some (transfer d 4 0 3) }
      s.engine = .running ∧ s.Quiet ∧ s.intake = none ∧ s.transfer = some (transfer d 4 0 3) ∧ s.flight = some (flight .push) ∧
      s.abortRegions = [(0x11006, 1), (0x1040, 4)] ∧ s.xbase.toNat % 128 = 0 ∧ (transfer d 4 0 3).chan < 16 ∧
      (transfer d 4 0 3).cmd.toNat % 64 = 0) ∧
    idle.flight = none ∧ idle.abortRegions = [] ∧ Apart 0x11006 1 0x1040 4 ∧
    (∀ r ∈ [(0x11006, 1), (0x1040, 4)], Apart r.1 r.2 (transfer .restore 4 0 3).cmd.toNat 64) ∧
    (∀ r ∈ [(0x11006, 1), (0x1040, 4)], Apart r.1 r.2 (transfer .capture 4 0 3).slotAddr.toNat 4) ∧
    Apart (transfer .capture 4 0 3).slotAddr.toNat 4 (transfer .capture 4 0 3).cmd.toNat 64 ∧
    (transfer .capture 4 0 3).slotAddr.toNat % 64 = 0 := by
  refine ⟨fun d => ⟨rfl, rfl, rfl, rfl, rfl, by cases d <;> decide, by cases d <;> decide, by cases d <;> decide,
    by cases d <;> decide⟩, rfl, rfl, ?_, ?_, ?_, ?_, by decide⟩ <;> unfold Apart <;> decide +kernel

/-- A frame and a capture in flight: the slot ABORTED, D at T, the capture's record ABORTED at that D, its header INVALID. -/
theorem test_abort_ends_frame_and_transfer :
    look (fun t => (t.done, t.flight.isSome, t.transfer.isSome, readByte t.mem 0x11006,
        [memWord t.mem 0x1040, memWord t.mem 0x4000, memWord t.mem 0x202C, memWord t.mem 0x2028]))
      (exec .abort { during .push with transfer := some (transfer .capture 4 0 3) }) =
    some (6, false, false, 3, [6, 3, 18, 6]) := by decide +kernel

theorem witness_TickIdleOrBusy :
    (idle.engine = .running ∧ idle.flight = none ∧ idle.ChainEmpty ∧ idle.Quiet ∧ idle.NoEndReady ∧ idle.xbase.toNat % 128 = 0 ∧
      signedDiff idle.fillCount idle.done ≤ 0 ∧ { idle with engine := .stepWait }.engine ≠ .running) ∧
    ((during .push).engine = .running ∧ (during .push).flight.isSome = true ∧ (during .push).intake = none ∧
      (during .push).tickPending = false ∧ { during .push with tickPending := true }.tickPending = true ∧ (during .push).Quiet ∧
      (during .push).xbase.toNat % 128 = 0) ∧
    (∀ i, ({ idle with intake := some i }).broughtIntake = i) ∧ idle.broughtIntake = freshIntake :=
  ⟨⟨rfl, rfl, ⟨rfl, rfl, rfl⟩, rfl, no_end_ready rfl, by decide, by decide +kernel, by decide⟩,
    ⟨rfl, rfl, rfl, rfl, rfl, rfl, by decide⟩, fun _ => rfl, rfl⟩

/-- A tick that comes within an intake brings no second one: its done count and its two records taken stand (R137). -/
theorem test_tick_within_an_intake :
    let i : Intake := { done := some 3, taken := 2, inHand := none }
    look (fun t => (t.intake, t.tickPending)) (exec (.blktick justBegun) { during .push with intake := some i }) =
      some (some i, true) := by decide +kernel

/-- D = 4, F = 7 and L = 3: the frame of slot 0, at the edge of the latency limit. -/
def waiting (sequence : Word) : State :=
  { idle with taken := 4, done := 4, mem := words [] [(0x1038, 7), (0x10000, sequence), (0x10004, 0x00000102)] }

/-- The sequence expected, and another; no frame busy, and one; a plan with a unit of the frame. -/
theorem witness_TickTakesTheFrame :
    ((waiting 4).pending = [] ∧ (during .push).pending = [] ∧ (during .push).engine = .running ∧ (during .push).flight.isSome = true ∧
      Party.frame ∈ [Party.intake, .frame]) ∧
    (∀ q, (waiting q).engine = .running ∧ (waiting q).flight = none ∧ (waiting q).intake = none ∧ (waiting q).Quiet ∧
      (waiting q).NoEndReady ∧ (waiting q).xbase.toNat % 128 = 0) ∧
    (let s := waiting 4
     signedDiff s.fillCount s.done = s.geo.latency ∧ 0 < s.geo.latency ∧
     Apart (s.geo.slotOf s.done) 8 (s.pageField 0x3C) 4 ∧ memWord s.mem (s.geo.slotOf s.done) = s.done) ∧
    (let s := waiting 0
     signedDiff s.fillCount s.done = s.geo.latency ∧
     Apart (s.geo.slotOf s.done) 8 s.xbase.toNat 128 ∧ memWord s.mem (s.geo.slotOf s.done) ≠ s.done) := by
  refine ⟨⟨rfl, rfl, rfl, rfl, by decide⟩,
    fun _ => ⟨rfl, rfl, rfl, rfl, no_end_ready rfl, (by decide : (0x1000#32).toNat % 128 = 0)⟩,
    ⟨by decide +kernel, by decide, ?_, by decide +kernel⟩,
    by decide +kernel, ?_, by decide +kernel⟩
  all_goals unfold Apart; decide +kernel

theorem test_tick_takes_the_frame :
    look (fun t => (t.taken, t.flight.map (fun f => (f.count, f.gap, f.notify)))) (exec (.blktick justBegun) (waiting 4)) =
    some (5, some (4, 2, true)) := by decide +kernel

/-- R34: with the check and stage 1 before the intake's first unit, the frame stands at stage 2 and the intake has begun. -/
theorem test_stage_one_first :
    look (fun t => (t.flight.map Flight.phase, t.intake))
      (exec (.blktick { plan := [.frame, .frame], finish := false }) (waiting 4)) = some (some .push, some freshIntake) := by
  decide +kernel

/-- D = 4, F = 8: one above the latency limit, so frame 4 is dropped and frame 5 is next, its header's sequence as given. -/
def late (sequence : Word) : State :=
  { idle with taken := 4, done := 4, mem := words [] [(0x1038, 8), (0x11000, sequence)] }

/-- The sequence expected, and another. -/
theorem witness_TickDropsTheBacklog :
    (∀ q, (late q).engine = .running ∧ (late q).flight = none ∧ (late q).intake = none ∧ (late q).Quiet ∧ (late q).NoEndReady ∧
      (late q).xbase.toNat % 128 = 0) ∧
    (let s := late 5
     signedDiff s.fillCount s.done = s.geo.latency + 1 ∧ Apart (s.geo.slotOf 5) 8 s.xbase.toNat 128 ∧
     memWord s.mem (s.geo.slotOf 5) = 5) ∧
    (let s := late 0
     signedDiff s.fillCount s.done = s.geo.latency + 1 ∧ Apart (s.geo.slotOf 5) 8 s.xbase.toNat 128 ∧
     memWord s.mem (s.geo.slotOf 5) ≠ 5) := by
  refine ⟨fun _ => ⟨rfl, rfl, rfl, rfl, no_end_ready rfl, (by decide : (0x1000#32).toNat % 128 = 0)⟩,
    ⟨by decide +kernel, ?_, by decide +kernel⟩, by decide +kernel, ?_, by decide +kernel⟩
  all_goals unfold Apart; decide +kernel

/-- A drop and then a mismatch in one check: T and D 6, one frame dropped, two gap blocks; made by a STEP, it gives NO_FRAME. -/
theorem test_drop_then_mismatch :
    let counts := fun t : State => ([t.taken, t.done, t.dropTotal, t.gapTotal], t.stepResult)
    look counts (exec (.blktick justBegun) (late 0)) = some ([6, 6, 1, 2], .none) ∧
    look counts (exec (.step (some 2)) { late 0 with engine := .stepWait }) = some ([6, 6, 1, 2], .noFrame) := by decide +kernel

theorem test_tick_finds_mismatch :
    look (fun t => ([t.taken, t.done, t.gapTotal], t.notice, readByte t.mem 0x10006)) (exec (.blktick justBegun) (waiting 0)) =
    some ([5, 5, 1], true, 2) := by decide +kernel

/-- A STEP that stands between two records of its intake: HALT ends the intake, and no cycle check follows (R138). -/
theorem test_halt_cuts_a_step :
    let stepped := exec (.step (some 0)) { waiting 4 with engine := .stepWait }
    look (fun t => (t.intake, t.stepDue)) stepped = some (some freshIntake, true) ∧
    look (fun t => look (fun u => (u.engine, u.stepDue, look State.taken (execIdle u))) (exec .halt t)) stepped =
      some (some (.halted, false, some 4)) := by decide +kernel

/-- A STEP at the head of an empty chain; one whose intake has ended and whose check is due, with no frame, with one, and with a mismatch; the
frame that a drop leaves next, and its mismatch. -/
theorem witness_StepMakesOneCheck :
    (let s : State := { idle with engine := .stepWait }
     s.intake = none ∧ s.pending = [] ∧ { s with stepDue := true }.stepDue = true ∧
     s.engine = .stepWait ∧ s.flight = none ∧ s.ChainEmpty ∧ s.Quiet ∧ s.NoEndReady ∧ s.xbase.toNat % 128 = 0 ∧
     signedDiff s.fillCount s.done ≤ 0) ∧
    (let s : State := { waiting 4 with engine := .stepWait }
     s.ChainEmpty ∧ 0 < signedDiff s.fillCount s.done ∧ signedDiff s.fillCount s.done ≤ s.geo.latency ∧
     Apart (s.geo.slotOf s.done) 8 (s.pageField 0x3C) 4 ∧ memWord s.mem (s.geo.slotOf s.done) = s.done) ∧
    (let s : State := { waiting 0 with engine := .stepWait }
     s.ChainEmpty ∧ 0 < signedDiff s.fillCount s.done ∧ signedDiff s.fillCount s.done ≤ s.geo.latency ∧
     Apart (s.geo.slotOf s.done) 8 s.xbase.toNat 128 ∧ memWord s.mem (s.geo.slotOf s.done) ≠ s.done) ∧
    (∀ q, ({ late q with engine := .stepWait } : State).ChainEmpty) := by
  refine ⟨⟨rfl, rfl, rfl, rfl, rfl, ⟨rfl, rfl, rfl⟩, rfl, no_end_ready rfl, by decide, by decide +kernel⟩,
    ⟨⟨rfl, rfl, rfl⟩, by decide +kernel, by decide +kernel, ?_, by decide +kernel⟩,
    ⟨⟨rfl, rfl, rfl⟩, by decide +kernel, by decide +kernel, ?_, by decide +kernel⟩, fun _ => ⟨rfl, rfl, rfl⟩⟩
  all_goals unfold Apart; decide +kernel

/-- The status and the done count next; a drained frame; a tick that waits; a restore's end that is ready. -/
theorem witness_FrameCycleEnds :
    (∃ t, (during .status).pending = [] ∧ (during .status).frameWorks = true ∧ (during .status).intake = none ∧
      (during .status).ReachesCount 1 t) ∧
    (let s := during .count
     s.pending = [] ∧ s.frameWorks = true ∧ s.flight = some (flight .count) ∧ (flight .count).phase = .count ∧ s.Quiet ∧ s.NoEndReady ∧
     s.xbase.toNat % 128 = 0 ∧ s.tickPending = false ∧ s.engine = .running ∧ signedDiff s.fillCount (s.done + 1) ≤ 0) ∧
    { during .count with engine := .draining }.frameWorks = true ∧ { during .count with tickPending := true }.tickPending = true ∧
    { during .count with transfer := some (transfer .restore 2 2 4) }.HoldsReadyEnd (transfer .restore 2 2 4) :=
  ⟨⟨_, rfl, rfl, rfl, ⟨_, rfl, by decide⟩, _, rfl, rfl, fun f h => by rw [← Option.some.inj h]; rfl⟩,
    ⟨rfl, rfl, rfl, rfl, rfl, no_end_ready rfl, by decide, rfl, rfl, by decide +kernel⟩, rfl, rfl, holds_ready_end _ rfl⟩

/-- The check of a pending tick takes the frame that waits: D 6, F 7, its header in slot 2; a ready end is taken before it. -/
theorem test_pending_tick_takes_the_next_frame :
    look (fun t => ([t.done, t.taken, memWord t.mem 0x2028], t.tickPending, t.flight.map Flight.count, t.transfer))
      (exec (.frameCycleEnd (some 0))
        { during .status with tickPending := true, transfer := some (transfer .restore 2 2 4)
                              mem := words [] [(0x1038, 7), (0x12000, 6)] }) =
    some ([6, 7, 6], false, some 6, none) := by decide +kernel

/-- The work of a channel whose blocks are all of one value. -/
def workOf (v : Int) : ChanWork :=
  { ChanWork.none with mic := List.replicate 128 v, err := List.replicate 128 v, out := List.replicate 128 v }

/-- The frame of `flight`, every channel with the contexts of channel 0's state and that work. -/
def flightWith (phase : Phase) (ctx : Channel) (w : ChanWork) : Flight :=
  { flight phase with start := (Vector.replicate 16 Channel.off).set 0 ctx, work := Vector.replicate 16 w }

/-- A running engine with that frame in flight, and channel 0 as the frame found it. -/
def duringWith (phase : Phase) (ctx : Channel) (w : ChanWork) : State :=
  { during phase with flight := some (flightWith phase ctx w), channels := (Vector.replicate 16 Channel.off).set 0 ctx,
                      alloc := [⟨0, 0, 4⟩], queue := if ctx.state.adapts then [0] else [] }

theorem witness_AtPhase (phase : Phase) (ctx : Channel) (w : ChanWork) :
    (duringWith phase ctx w).AtPhase (flightWith phase ctx w) phase := ⟨rfl, rfl, rfl, rfl, rfl, rfl⟩

/-- The last channel of stage 8's blocks; the report with channel 0 in TRACK and channel 1 in OFF; the status. -/
theorem witness_FrameWrittenBack :
    (let f := flightWith (.output 1) .off (workOf (-1))
     let s := duringWith (.output 1) .off (workOf (-1))
     s.AtPhase f (.output 1) ∧ (f.chanWork 1).out.length = 128 ∧ s.geo.outBlock f.count 1 + 512 ≤ 4294967296) ∧
    (let f := flightWith .report (channel .track) (workOf (-1))
     let s := duringWith .report (channel .track) (workOf (-1))
     s.AtPhase f .report ∧ s.geo.reportPart f.count + 64 + 32 * s.geo.mics ≤ 4294967296 ∧
     (f.ctx 0).state ≠ .off ∧ (f.ctx 1).state = .off ∧ 1 < s.geo.mics) ∧
    (duringWith .status .off .none).AtPhase (flightWith .status .off .none) .status :=
  ⟨⟨witness_AtPhase _ _ _, by decide +kernel, by decide⟩,
    ⟨witness_AtPhase _ _ _, by decide, by decide, by decide, by decide⟩, witness_AtPhase _ _ _⟩

/-- -1 is written as 0xFFFFFFFF. -/
theorem test_output_word :
    look (fun t => memWord t.mem ((during .count).geo.outBlock 5 1))
      (step (duringWith (.output 1) .off { workOf (-1) with out := [-1] })) = some 0xFFFFFFFF := by decide +kernel

/-- A state with a transfer of channel 0. -/
def moving (direction : Direction) (copy fill progress : Nat) : State :=
  { State.having idle (match direction with | .capture => .track | .restore => .restoring) [] with
    transfer := some (transfer direction copy fill progress) }

theorem moving_moves (direction : Direction) (copy fill progress : Nat) :
    (moving direction copy fill progress).MovesSegment (transfer direction copy fill progress) :=
  ⟨.inl rfl, rfl, rfl, ⟨rfl, rfl, rfl⟩, rfl, rfl⟩

/-- One segment short of the end, and the last one. -/
theorem witness_CaptureSegmentCopies :
    (∀ p, (moving .capture 12 0 p).MovesSegment (transfer .capture 12 0 p) ∧ (transfer .capture 12 0 p).direction = .capture) ∧
    min 8 (12 - 3) = 8 ∧ 3 + 8 < 12 ∧ 0 < min 8 (12 - 11) ∧ 11 + min 8 (12 - 11) = 12 ∧
    (let u := transfer .capture 12 0 11
     let s := moving .capture 12 0 11
     u.slotAddr.toNat + 64 + u.copy * 1032 ≤ 4294967296 ∧ u.fill = 0 ∧ u.chan < 16 ∧ u.cmd.toNat % 64 = 0 ∧
     Apart u.slotAddr.toNat (64 + u.copy * 1032) u.cmd.toNat 64 ∧
     ∀ j < 8, (s.slot ((s.extent u.chan).base + (3 + j))).bad = 0#258 ∧
      (s.slot ((s.extent u.chan).base + (3 + j))).parts.length = 258) := by
  refine ⟨fun p => ⟨moving_moves _ _ _ _, rfl⟩, by decide, by decide, by decide, by decide, by decide, by decide, by decide,
    by decide, ?_, by decide +kernel⟩
  intro i hi j hj
  have hi : i < 12448 := hi
  have h1 : (transfer .capture 12 0 11).slotAddr.toNat = 16384 := by decide
  have h2 : (transfer .capture 12 0 11).cmd.toNat = 8192 := by decide
  simp only [h1, h2, cellOf]
  omega

/-- The last slot of a capture is copied: its part 0, `moved`, VALID, and the completion OK. In HALTED nothing moves. -/
theorem test_capture_segment :
    look (fun t => ([memWord t.mem 0x4448, memWord t.mem 0x4010, memWord t.mem 0x4000, memWord t.mem 0x202C], t.transfer))
      (exec .captureSegment { moving .capture 2 0 1 with pool := [(1, ⟨7 :: List.replicate 257 0, 0⟩)] }) =
      some ([7, 2, 2, 0], none) ∧
    look State.mem (exec .captureSegment { moving .capture 2 0 1 with engine := .halted }) = some [] := by decide +kernel

/-- A state with one access of a transfer to make. -/
def once (u : Transfer) : State :=
  { moving u.direction u.copy u.fill u.progress with transfer := some u, grants := [1] }

theorem once_moves (u : Transfer) : (once u).MovesOnce u [] := ⟨.inl rfl, rfl, rfl⟩

/-- A capture's segment of one slot: to be read, with the engine asking and not; to be written; its `moved` due, and the write of it
made again. A restore's: to be read; to be written; a fill's. -/
theorem witness_MoverAccessesOneByOne :
    (∀ u, (once u).MovesOnce u [] ∧ (once u).Quiet ∧ (once u).engineAsks = false) ∧
    (let f := { flight .apply with asks := true }
     let s := { State.having (applying .reset) .acquire [0] with flight := some f }
     s.dueEntry f.count = some (entry .reset) ∧ s.engineAsks = true ∧ { s with table := [] }.engineAsks = false) ∧
    ({ once (transfer .capture 4 0 3) with flight := some { flight (.filter 0) with asks := true } }).engineAsks = true ∧
    0 < min 8 (4 - 3) ∧ (transfer .capture 4 0 3).read.length < min 8 (4 - 3) ∧
    ((once (transfer .capture 4 0 3)).slot 3).bad = 0#258 ∧
    (let u := { transfer .capture 4 0 3 with read := [List.replicate 258 0] }
     min 8 (4 - 3) ≤ u.read.length ∧ u.written < min 8 (4 - 3) ∧ (u.read.getD u.written []).length = 258 ∧
     u.progress + u.written < u.copy ∧ u.slotAddr.toNat + 64 + u.copy * 1032 ≤ 4294967296) ∧
    (let u := { transfer .capture 4 0 3 with read := [List.replicate 258 0], written := 1 }
     min 8 (4 - 3) ≤ u.read.length ∧ min 8 (4 - 3) ≤ u.written ∧ u.slotAddr.toNat % 64 = 0) ∧
    (transfer .restore 4 0 3).progress < (transfer .restore 4 0 3).copy ∧ (transfer .restore 4 0 3).read.length < min 8 (4 - 3) ∧
    (transfer .restore 3 1 3).copy ≤ (transfer .restore 3 1 3).progress ∧ 0 < min 8 (3 + 1 - 3) :=
  ⟨fun u => ⟨once_moves u, rfl, rfl⟩, by decide +kernel, by decide, by decide, by decide, by decide +kernel, by decide +kernel,
    by decide +kernel, by decide, by decide, by decide, by decide⟩

/-- A capture read waits while the engine asks for the port (R105). A write of `moved` that fails leaves the slot copied and itself
due, and after the EFAULT read and START nothing of the segment is read again: the slot, upset meanwhile, is not (R165). -/
theorem test_capture_accesses :
    look State.transfer (exec .captureSegment
      { moving .capture 4 0 3 with flight := some { flight (.filter 0) with asks := true } }) =
      some (some (transfer .capture 4 0 3)) ∧
    look (fun t => (t.faultCode, t.transfer.map (fun u => (u.progress, u.moveDue)),
        look (fun v => (v.transfer, memWord v.mem 0x4010))
          (exec .captureSegment
            { t.resumeMover with engine := .running, bus := [], pool := [(3, Slot.zero.upset 0 1)] })))
      (exec .captureSegment { moving .capture 4 0 3 with bus := [⟨true, 0x4010, 0⟩] }) =
      some (.busError, some (3, true), some (none, 4)) := by decide +kernel

/-- A state whose pool holds a broken slot where the transfer reads next. -/
def broken : State :=
  { moving .capture 4 0 3 with pool := [(3, Slot.zero.upset 257 1)] }

/-- The only slot of the segment; and its second, the first being sound. -/
theorem witness_CaptureParityFailure :
    broken.MovesSegment (transfer .capture 4 0 3) ∧ (transfer .capture 4 0 3).direction = .capture ∧
    (let u := transfer .capture 4 0 3
     u.chan < 16 ∧ 0 < min 8 (u.copy - u.progress) ∧ u.cmd.toNat % 64 = 0 ∧ u.slotAddr.toNat % 64 = 0 ∧
     Apart u.slotAddr.toNat 4 u.cmd.toNat 64) ∧
    (broken.slot ((broken.extent 0).base + (3 + 0))).bad ≠ 0#258 ∧
    1 < min 8 (4 - 2) ∧ (broken.slot ((broken.extent 0).base + (2 + 0))).bad = 0#258 ∧
    (broken.slot ((broken.extent 0).base + (2 + 1))).bad ≠ 0#258 := by
  refine ⟨⟨.inl rfl, rfl, rfl, ⟨rfl, rfl, rfl⟩, rfl, rfl⟩, rfl, ⟨by decide, by decide, by decide, by decide, ?_⟩, by decide +kernel,
    by decide, by decide +kernel, by decide +kernel⟩
  unfold Apart; decide +kernel

/-- The last slot of a copy, the last of a fill, and none left. -/
theorem witness_RestoreSegmentWrites :
    (∀ p, (moving .restore 2 2 p).MovesSegment (transfer .restore 2 2 p) ∧ (transfer .restore 2 2 p).direction = .restore) ∧
    (transfer .restore 2 2 1).progress < (transfer .restore 2 2 1).copy ∧
    ¬ (transfer .restore 2 2 3).progress < (transfer .restore 2 2 3).copy ∧ 2 + 2 - 4 = 0 :=
  ⟨fun _ => ⟨moving_moves _ _ _ _, rfl⟩, by decide, by decide, by decide⟩

/-- No frame in flight, and one at each end of the range of points; HALTED; a tick's check and a STEP's. -/
theorem witness_RestoreEndTaken :
    (moving .restore 2 2 4).engine = .running ∧ (moving .restore 2 2 4).Quiet ∧
    (∀ e p, { moving .restore 2 2 4 with engine := e, flight := p }.HoldsReadyEnd (transfer .restore 2 2 4)) ∧
    (moving .restore 2 2 4).flight = none ∧ (flight .walk).phase = .walk ∧ (flight (.estimate 0)).phase = .estimate 0 ∧
    ¬ ((flight (.estimate 1)).phase = .push ∨ (flight (.estimate 1)).phase = .estimate 0 ∨ (flight (.estimate 1)).phase = .decide ∨
      (flight (.estimate 1)).phase = .walk) ∧
    ({ plan := [.frame, .intake], finish := true } : TickTiming).plan = .frame :: [.intake] ∧
    (let s := { moving .restore 2 2 4 with engine := .stepWait, stepDue := true }
     s.pending = [] ∧ s.intake = none ∧ s.stepDue = true ∧ s.HoldsReadyEnd (transfer .restore 2 2 4)) :=
  ⟨rfl, rfl, fun _ _ => holds_ready_end _ rfl, rfl, rfl, rfl, by decide, rfl, rfl, rfl, rfl, holds_ready_end _ rfl⟩

/-- A tick's check finds a ready end taken: the end's record and the idle count. -/
theorem test_check_takes_a_ready_end :
    look (fun t => ((t.chan 0).state, t.transfer, t.idleTotal, memWord t.mem 0x2030)) (exec (.blktick justBegun) (moving .restore 2 2 4)) =
    some (.track, none, 1, 4) := by decide +kernel

theorem witness_UpsetFailsTheNextRead : 2047 < 2048 ∧ 257 < 258 := by decide

/-- A state whose next unit applies the entry to channel 0 in a state of its own. -/
def applyingTo (st : ChanState) (action : Action) : State :=
  State.having (applying action) st (if st.adapts then [0] else [])

theorem witness_AppliesNext (st : ChanState) (action : Action) : (applyingTo st action).AppliesNext (flight .apply) (entry action) :=
  ⟨⟨⟨rfl, rfl, rfl, rfl, rfl, rfl⟩,
      by simp [State.dueEntry, applyingTo, State.having, applying, entry, flight, atOrBefore, signedDiff],
      (by decide : (0x2000#32).toNat % 64 = 0)⟩, (by decide : 2 ≤ 16), (by decide : 0 < 2)⟩

/-- Channel 0 in HELD from `prior`. -/
def held (prior : PriorState) : State :=
  { applying .thaw with channels := (Vector.replicate 16 Channel.off).set 0 { channel .held with prior := some prior } }

theorem witness_FreezeAndThawApplied :
    (applyingTo .acquire .freeze).AppliesNext (flight .apply) (entry .freeze) ∧ ((applyingTo .acquire .freeze).chan 0).state = .acquire ∧
    ((applyingTo .track .freeze).chan 0).state = .track ∧ (held .track).AppliesNext (flight .apply) (entry .thaw) ∧
    ((held .track).chan 0).state = .held ∧ ((held .track).chan 0).prior = some .track ∧
    ((held .acquire).chan 0).prior = some .acquire ∧
    ∀ st a, (applyingTo st a).AppliesNext (flight .apply) (entry a) ∧ ((applyingTo st a).chan 0).state = st :=
  ⟨witness_AppliesNext _ _, rfl, rfl, ⟨⟨⟨rfl, rfl, rfl, rfl, rfl, rfl⟩, rfl, by decide⟩, by decide, by decide⟩, rfl, rfl, rfl,
    fun _ _ => ⟨witness_AppliesNext _ _, rfl⟩⟩

/-- FREEZE in HELD and THAW in TRACK are OK and change nothing; in RESTORING and SUSPENDED both are BAD_STATE with the state. -/
theorem test_freeze_and_thaw_without_effect :
    [(ChanState.held, Action.freeze), (.track, .thaw), (.restoring, .freeze), (.suspended, .thaw)].map (fun x =>
      look (fun t => (memWord t.mem 0x202C, memWord t.mem 0x2030, decide (t.chan 0 = (applyingTo x.1 x.2).chan 0)))
        (step (applyingTo x.1 x.2))) =
    [some (0, 3, true), some (0, 2, true), some (5, 4, true), some (5, 5, true)] := by decide +kernel

/-- One extent that leaves the given number of slots above it. -/
def crowded (parts left : Nat) : State :=
  { applying (.configure parts) with alloc := [⟨1, 0, 2048 - left⟩] }

/-- A gap of exactly the size asked; one slot too few; two gaps that hold it only together. -/
theorem witness_ConfigureFromOff :
    (crowded 64 64).AppliesNext (flight .apply) (entry (.configure 64)) ∧ ((crowded 64 64).chan 0).state = .off ∧
    firstFit (crowded 64 64).alloc 64 = some 1984 ∧ firstFit (crowded 64 63).alloc 64 = none ∧ freeTotal (crowded 64 63).alloc = 63 ∧
    firstFit [⟨1, 32, 1984⟩] 64 = none ∧ freeTotal [⟨1, 32, 1984⟩] = 64 :=
  ⟨⟨⟨⟨rfl, rfl, rfl, rfl, rfl, rfl⟩, rfl, by decide⟩, by decide, by decide⟩, rfl, by decide, by decide, by decide, by decide, by decide⟩

/-- No transfer is in flight on channel 0 where none is in flight. -/
theorem applyingTo_no_transfer (st : ChanState) (action : Action) : (applyingTo st action).NoTransferOn 0 :=
  fun u h => absurd h (by simp [applyingTo, State.having, applying, during, idle, State.reset])

/-- Equal P; one more; one less in RESTORING, its own restore in flight; one less in TRACK. -/
theorem witness_ConfigureOfAConfiguredChannel :
    (applyingTo .track (.configure 4)).AppliesNext (flight .apply) (entry (.configure 4)) ∧
    ((applyingTo .track (.configure 4)).chan 0).state ≠ .off ∧ ((applyingTo .track (.configure 4)).chan 0).parts = 4 ∧
    (let s := { applyingTo .restoring (.configure 3) with transfer := some (transfer .restore 4 0 3) }
     s.AppliesNext (flight .apply) (entry (.configure 3)) ∧ (s.chan 0).state = .restoring) ∧
    (applyingTo .track (.configure 3)).NoTransferOn 0 ∧
    (applyingTo .track (.configure 3)).extent 0 ∈ (applyingTo .track (.configure 3)).alloc :=
  ⟨witness_AppliesNext _ _, by decide, rfl, ⟨⟨⟨⟨rfl, rfl, rfl, rfl, rfl, rfl⟩, rfl, by decide⟩, by decide, by decide⟩, rfl⟩,
    applyingTo_no_transfer _ _, by decide⟩

theorem witness_ReleaseAndResetApplied :
    (applyingTo .held .release).AppliesNext (flight .apply) (entry .release) ∧ ((applyingTo .held .release).chan 0).state ≠ .off ∧
    (applyingTo .held .release).NoTransferOn 0 ∧
    (applyingTo .suspended .reset).AppliesNext (flight .apply) (entry .reset) ∧
    ((applyingTo .suspended .reset).chan 0).state ≠ .off ∧ (applyingTo .suspended .reset).NoTransferOn 0 :=
  ⟨witness_AppliesNext _ _, by decide, applyingTo_no_transfer _ _, witness_AppliesNext _ _, by decide, applyingTo_no_transfer _ _⟩

/-- The transfer of channel 0 whose own record lies at 0x2040. -/
def older (direction : Direction) : Transfer :=
  { transfer direction 4 0 3 with cmd := 0x2040 }

/-- A state whose next unit applies the entry to channel 0, which has a transfer in flight. -/
def applyingOver (direction : Direction) (action : Action) : State :=
  { applyingTo (match direction with | .capture => .track | .restore => .restoring) action with transfer := some (older direction) }

/-- A release and a reset over a capture and over a restore; a shrink over a capture. -/
theorem witness_TransferEndedByApplication :
    (∀ d a, (applyingOver d a).AppliesNext (flight .apply) (entry a) ∧ (applyingOver d a).transfer = some (older d) ∧
      (older d).chan = (entry a).chan ∧ ((applyingOver d a).chan 0).state ≠ .off ∧ (older d).cmd.toNat % 64 = 0 ∧
      (older d).cmd ≠ (entry a).addr ∧ (older d).slotAddr.toNat % 64 = 0) ∧
    Apart (older .capture).slotAddr.toNat 4 (older .capture).cmd.toNat 64 ∧
    Apart (older .capture).slotAddr.toNat 4 (entry .release).addr.toNat 64 ∧
    3 < ((applyingOver .capture (.configure 3)).chan 0).parts ∧
    ((applyingOver .capture (.configure 3)).chan 0).state ≠ .restoring ∧
    (applyingOver .capture (.configure 3)).extent 0 ∈ (applyingOver .capture (.configure 3)).alloc := by
  refine ⟨fun d a => ⟨⟨⟨⟨rfl, rfl, rfl, rfl, rfl, rfl⟩, ?_, ?_⟩, ?_, ?_⟩, rfl, rfl, ?_, ?_, ?_, ?_⟩, ?_, ?_, by decide, by decide, by decide⟩
  · simp [State.dueEntry, applyingOver, applyingTo, State.having, applying, entry, flight, atOrBefore, signedDiff]
  · exact (by decide : (0x2000#32).toNat % 64 = 0)
  · exact (by decide : 2 ≤ 16)
  · exact (by decide : 0 < 2)
  · cases d
    · exact (by decide : ChanState.track ≠ .off)
    · exact (by decide : ChanState.restoring ≠ .off)
  · exact (by decide : (0x2040#32).toNat % 64 = 0)
  · exact (by decide : (0x2040#32) ≠ 0x2000#32)
  · exact (by decide : (0x4000#32).toNat % 64 = 0)
  all_goals unfold Apart; decide +kernel

/-- A shrink over a capture: INVALID, the capture ABORTED with 3 slots made, the flag clear, the shrink OK. -/
theorem test_shrink_ends_the_capture :
    look (fun t => ([memWord t.mem 0x4000, memWord t.mem 0x206C, memWord t.mem 0x2070, memWord t.mem 0x202C, memWord t.mem 0x2030],
        t.transfer.isSome, (t.chan 0).parts))
      (step (applyingOver .capture (.configure 3))) = some ([3, 18, 3, 0, 0x00030000], false, 3) := by decide +kernel

/-- A state whose next unit takes up the entry, for a channel of M. -/
def beyond (action : Action) : State :=
  { during .apply with table := [{ entry action with chan := 2 }] }

/-- The second entry of the table is due: the first in table order that is. -/
theorem test_first_due_entry :
    ({ during .apply with table := [{ entry .freeze with due := 6 }, { entry .thaw with due := 5 }, { entry .reset with due := 4 }] } :
      State).dueEntry 5 = some { entry .thaw with due := 5 } := by decide

/-- Channel 0 in OFF; an entry for channel 2 of two; the end of stage 1, with no entry and with one that is not due. -/
theorem witness_StageOneRefusesAndEnds :
    (∀ a, (applyingTo .off a).ReachesEntry (flight .apply) (entry a) ∧ ((applyingTo .off a).chan 0).state = .off ∧
      (entry a).chan < (applyingTo .off a).geo.mics) ∧
    (beyond .freeze).ReachesEntry (flight .apply) { entry .freeze with chan := 2 } ∧ (beyond .freeze).geo.mics ≤ 2 ∧
    (duringWith .apply (channel .track) .none).AtPhase (flightWith .apply (channel .track) .none) .apply ∧
    (duringWith .apply (channel .track) .none).dueEntry 5 = none ∧
    { duringWith .apply (channel .track) .none with table := [{ entry .freeze with due := 6 }] }.dueEntry 5 = none :=
  ⟨fun _ => ⟨(witness_AppliesNext _ _).1, rfl, (by decide : 0 < 2)⟩, ⟨⟨rfl, rfl, rfl, rfl, rfl, rfl⟩, rfl, by decide⟩, by decide,
    witness_AtPhase _ _ _, rfl, rfl⟩

/-- BAD_CHANNEL with the channel; and the filter cost of a channel in HELD with four partitions and one reference. -/
theorem test_stage_one :
    look (fun t => (memWord t.mem 0x202C, memWord t.mem 0x2030, t.table.length)) (step (beyond .freeze)) = some (4, 2, 0) ∧
    look (fun t => t.flight.map (fun f => (f.phase, f.cost, (f.ctx 0).state))) (step (duringWith .apply (channel .held) .none)) =
      some (some (.push, 4, .held)) := by decide +kernel

/-- A window; a mu_trk equal to mu_acq, and one above it. -/
theorem witness_WindowAndTuningApplied :
    (∀ a, (applyingTo .track a).AppliesNext (flight .apply) (entry a)) ∧
    (∀ a, ((applyingTo .track a).chan 0).state ≠ .off) ∧
    (channel .track).tuning.muAcq = 16384 ∧ (2#32).getLsbD 0 = false ∧ (2#32).getLsbD 1 = true ∧
    [0, 16384].getD 1 0 ≤ (channel .track).tuning.muAcq ∧ (channel .track).tuning.muAcq < [0, 16385].getD 1 (0 : Int) :=
  ⟨fun _ => witness_AppliesNext _ _, fun _ => (by decide : ChanState.track ≠ .off), by decide, by decide, by decide, by decide, by decide⟩

/-- 9.8, tick B: mu_trk 20000 over the default mu_acq completes RANGE with 4. -/
theorem test_set_tuning_range :
    look (fun t => (memWord t.mem 0x202C, memWord t.mem 0x2030, (t.chan 0).tuning.muTrk))
      (step (applyingTo .track (.setTuning 2 [0, 20000]))) = some (6, 4, 4096) := by decide +kernel

/-- Directory entry 1 with its slot at 0x4000, capacity 4, unprotected, and a VALID profile of P = 4 and R = 1 in it. -/
def directory : List Host.Cell :=
  words [] [(0x3010, 0x4000), (0x3014, 4), (0x4000, 2), (0x4004, 0x00010004), (0x4008, 0xFFBA005A)]

theorem witness_CaptureStarts :
    let s : State := { applyingTo .track (.capture 1) with mem := directory }
    s.AppliesNext (flight .apply) (entry (.capture 1)) ∧ 1 < s.geo.dirCount ∧ (memWord s.mem 0x3010).toNat % 64 = 0 ∧
    s.inside (memWord s.mem 0x3010).toNat (64 + (memWord s.mem 0x3014).toNat * 1032) = true ∧ s.lock = false ∧
    memWord s.mem 0x3018 = 0 ∧ (s.chan 0).parts * s.geo.refs = (memWord s.mem 0x3014).toNat ∧ s.transfer = none ∧
    (s.chan 0).state.filters = true :=
  ⟨⟨⟨⟨rfl, rfl, rfl, rfl, rfl, rfl⟩, rfl, by decide⟩, by decide, by decide⟩, by decide, by decide +kernel, by decide +kernel, rfl,
    by decide +kernel, by decide +kernel, rfl, rfl⟩

theorem witness_RestoreStarts :
    let s : State := { applyingTo .track (.restore 1) with mem := directory }
    s.AppliesNext (flight .apply) (entry (.restore 1)) ∧ 1 < s.geo.dirCount ∧ (memWord s.mem 0x3010).toNat % 64 = 0 ∧
    s.inside (memWord s.mem 0x3010).toNat (64 + (memWord s.mem 0x3014).toNat * 1032) = true ∧ s.transfer = none ∧
    (s.chan 0).state.filters = true ∧ memWord s.mem 0x4000 = 2 ∧ halfOf (memWord s.mem 0x4004) 0 = 4 ∧
    4 * halfOf (memWord s.mem 0x4004) 1 = (memWord s.mem 0x3014).toNat ∧ halfOf (memWord s.mem 0x4004) 1 = s.geo.refs :=
  ⟨⟨⟨⟨rfl, rfl, rfl, rfl, rfl, rfl⟩, rfl, by decide⟩, by decide, by decide⟩, by decide, by decide +kernel, by decide +kernel, rfl, rfl,
    by decide +kernel, by decide +kernel, by decide +kernel, by decide +kernel⟩

/-- The directory of two entries: 1 is valid and 2 is none; a busy mover; a restore of the channel itself; a slot one too small;
a profile of P = 3, and one of two references. -/
theorem witness_ProfileCommandRefused :
    (∀ a, (applyingTo .track a).AppliesNext (flight .apply) (entry a)) ∧ ¬ 2 < geo.dirCount ∧ 1 < geo.dirCount ∧
    (let s : State := { applyingTo .track (.capture 1) with mem := directory }
     (memWord s.mem 0x3010).toNat % 64 = 0 ∧
     s.inside (memWord s.mem 0x3010).toNat (64 + (memWord s.mem 0x3014).toNat * 1032) = true ∧
     s.lock = false ∧ { s with lock := true }.lock = true ∧ (s.chan 0).parts * s.geo.refs ≤ (memWord s.mem 0x3014).toNat ∧
     ({ s with transfer := some { transfer .restore 4 0 3 with chan := 1 } }).transfer =
       some { transfer .restore 4 0 3 with chan := 1 }) ∧
    memWord (words directory [(0x3018, 1)]) 0x3018 ≠ 0 ∧ (memWord (words directory [(0x3014, 3)]) 0x3014).toNat < 4 ∧
    (channel .restoring).state.filters = false ∧ memWord directory 0x4000 = 2 ∧
    halfOf (memWord (words directory [(0x4004, 0x00010003)]) 0x4004) 0 < 4 ∧
    halfOf (memWord (words directory [(0x4004, 0x00000004)]) 0x4004) 1 ≠ geo.refs :=
  ⟨fun _ => witness_AppliesNext _ _, by decide, by decide,
    ⟨by decide +kernel, by decide +kernel, rfl, rfl, by decide +kernel, rfl⟩, by decide +kernel, by decide +kernel, by decide,
    by decide +kernel, by decide +kernel, by decide +kernel⟩

/-- Those refusals' codes and results: BAD_SLOT, LOCKED, PROTECTED, TOO_SMALL, BUSY, BAD_STATE; then NO_PROFILE and MISMATCH. -/
theorem test_profile_refusals :
    let capture (n : Nat) (m : List Host.Cell) : State := { applyingTo .track (.capture n) with mem := m }
    let restore (m : List Host.Cell) : State := { applyingTo .track (.restore 1) with mem := m }
    [capture 2 directory, { capture 1 directory with lock := true }, capture 1 (words directory [(0x3018, 1)]),
     capture 1 (words directory [(0x3014, 3)]),
     { capture 1 directory with transfer := some { transfer .restore 4 0 3 with chan := 1 } },
     { applyingOver .restore (.capture 1) with mem := directory },
     restore (words directory [(0x4004, 0x00010003)]), restore (words directory [(0x4004, 0x00000004)])].map
      (fun s => look (fun t => (memWord t.mem 0x202C, memWord t.mem 0x2030)) (step s)) =
    [some (14, 2), some (12, 0), some (13, 1), some (17, 4), some (10, 1), some (5, 4), some (15, 2), some (16, 0)] := by decide +kernel

/-- The protect word of the directory entry is not read by a restore, and is by a capture: a bus error there faults one alone. -/
theorem test_protect_word_read_by_a_capture :
    [Action.restore 1, .capture 1].map (fun a => look (fun t => (t.faultCode, (t.chan 0).state))
      (step { applyingTo .track a with mem := directory, bus := [⟨false, 0x3018, 0⟩] })) =
    [some (.none, .restoring), some (.busError, .track)] := by decide +kernel

/-- S 90 and C -70 of the header enter the transfer. -/
theorem test_restore_starts :
    look (fun t => ((t.chan 0).state, t.transfer.map (fun u => (u.copy, u.fill, u.erle, u.coupling))))
      (step { applyingTo .track (.restore 1) with mem := directory }) = some (.restoring, some (4, 0, 90, -70)) := by decide +kernel

/-! ### Witnesses: the intake -/

/-- An intake about to look, the first command at `a`, its first two words as given. -/
def looking (a w0 w1 : Word) : State :=
  { idle with geo := { geo with firstCmd := a }, intake := some { done := some 5, taken := 7, inHand := none },
              mem := words [] [(a.toNat, w0), (a.toNat + 4, w1)] }

/-- An address of 0; one off 64; the last record inside the window and the first outside; a record not POSTED; the first look. -/
theorem witness_LookTakesOrFaults :
    (∀ a w0 w1, (looking a w0 w1).pending = [] ∧ (looking a w0 w1).engine = .running ∧ (looking a w0 w1).Quiet ∧
      (looking a w0 w1).intake = some { done := some 5, taken := 7, inHand := none } ∧ (looking a w0 w1).anchor = none) ∧
    (0x2020#32).toNat % 64 ≠ 0 ∧ (looking 0xFFFC0 0 0).inside 0xFFFC0 64 = true ∧
    (looking 0x100000 0 0).inside 0x100000 64 = false ∧ (0xFFFC0#32).toNat % 64 = 0 ∧
    readByte (looking 0xFFFC0 0 0x03000401).mem (0xFFFC0 + 4) = 1 ∧ readByte (looking 0xFFFC0 0 2).mem (0xFFFC0 + 4) ≠ 1 ∧
    ({ looking 0x2000 0x2040 0 with anchor := some 0x2000 }).anchor = some 0x2000 ∧
    ({ looking 0x2000 0x2040 0 with engine := .stepWait }).engine = .stepWait ∧
    (∀ a w0 w1, ({ looking a w0 w1 with intake := some freshIntake }).intake = some { done := none, taken := 0, inHand := none }) :=
  ⟨fun _ _ _ => ⟨rfl, rfl, rfl, rfl, rfl⟩, by decide, by decide, by decide, by decide, by decide +kernel, by decide +kernel, rfl, rfl,
    fun _ _ _ => rfl⟩

/-- The first look reads D for the intake (R138). -/
theorem test_first_look_reads_the_done_count :
    look (fun t => t.intake.bind Intake.done) (step { looking 0x2000 0x2040 0x03000401 with intake := some freshIntake, done := 9 }) =
      some (some 9) := by decide +kernel

theorem test_record_taken :
    look (fun t => (t.anchor, readByte t.mem 0x2004, (t.intake.bind Intake.inHand).map (fun r => (r.kind, r.duePresent, r.notify))))
      (step (looking 0x2000 0x2040 0x03000401)) = some (some 0x2000, 2, some (4, true, true)) := by decide +kernel

/-- A record of a kind, for channel `c`, due as given, with those parameters. -/
def recordOf (kind c : Byte) (due : Word) (params : List Byte) : Record :=
  { addr := 0x2040, next := 0, owner := 1, kind := kind, chan := c, duePresent := true, notify := true, due := due, params := params }

/-- A record of a kind, for channel `c`, due as given, with a target of 0x2000. -/
def record (kind c : Byte) (due : Word) : Record :=
  recordOf kind c due (wordBytes 0x2000)

/-- An intake whose eighth record's step is next. -/
def stepping (r : Record) : State :=
  { idle with intake := some { done := some 5, taken := 8, inHand := some r } }

theorem witness_StepsRecord (kind c : Byte) (due : Word) (params : List Byte) :
    (stepping (recordOf kind c due params)).StepsRecord (recordOf kind c due params) 5 8 :=
  ⟨rfl, .inl rfl, rfl, rfl, (by decide : (0x2040#32).toNat % 64 = 0)⟩

/-- The last due that is not too far ahead; for each shape of parameters a record at its bounds. -/
theorem witness_RecordFiledInOrder :
    (∀ k c d ps, (stepping (recordOf k c d ps)).StepsRecord (recordOf k c d ps) 5 8) ∧
    (record 4 1 1048580).StandsFor .freeze ∧ (record 4 1 1048580).chan.toNat < geo.mics ∧
    signedDiff (record 4 1 1048580).due 5 = 1048575 ∧ (stepping (record 4 1 1048580)).table.length < 8 ∧
    (recordOf 1 1 5 [4]).StandsFor (.configure 4) ∧ (recordOf 1 1 5 [64]).StandsFor (.configure 64) ∧
    (recordOf 6 1 5 [2, 64, 1]).StandsFor (.setWindow { mode := .tail, n := 64, complement := true }) ∧
    (recordOf 7 1 5 [2, 0, 0, 0, 1, 0]).StandsFor (.setTuning 2 [0, 1, 0, 0, 0, 0, 0, 0, 0, 0]) ∧
    (recordOf 9 1 5 [15]).StandsFor (.restore 15) := by
  refine ⟨fun _ _ _ _ => witness_StepsRecord _ _ _ _, rfl, by decide, by decide, by decide, ?_, ?_, ?_, ?_, ?_⟩ <;>
    simp only [Record.StandsFor, Record.TuningFails] <;> decide +kernel

/-- The first kinds below and above 1..11; a channel of M; a due too far ahead; each parameter one past its bound; a full table. -/
theorem witness_RecordRefused :
    (∀ k c d ps, (stepping (recordOf k c d ps)).StepsRecord (recordOf k c d ps) 5 8) ∧
    (record 0 0 5).kind.toNat = 0 ∧ 12 ≤ (record 12 0 5).kind.toNat ∧ geo.mics ≤ (record 4 2 5).chan.toNat ∧
    1048576 ≤ signedDiff (record 4 1 1048581).due 5 ∧ signedDiff (record 4 1 5).due 5 < 1048576 ∧
    (recordOf 7 1 5 [3, 0, 1, 0, 2, 0]).TuningFails 1 ∧ ¬ (recordOf 7 1 5 [3, 0, 1, 0, 2, 0]).TuningFails 0 ∧
    (recordOf 7 1 5 [3, 0, 0, 0, 2, 0]).TuningFails 0 ∧
    8 ≤ ({ stepping (record 4 1 5) with table := List.replicate 8 (entry .freeze) }).table.length := by
  refine ⟨fun _ _ _ _ => witness_StepsRecord _ _ _ _, by decide, by decide, by decide, by decide, by decide, ?_, ?_, ?_, by decide⟩ <;>
    simp only [Record.TuningFails] <;> decide +kernel

/-- One past each bound: the code RANGE with the offset of the parameter; the kind; the channel. -/
theorem test_refusals :
    [recordOf 1 1 5 [3], recordOf 1 1 5 [65], recordOf 6 1 5 [3], recordOf 6 1 5 [2, 65], recordOf 6 1 5 [2, 64, 2],
     recordOf 7 1 5 [0, 4], recordOf 7 1 5 [3, 0, 1, 0, 2, 0], recordOf 9 1 5 [16], record 12 1 5, record 4 2 5].map
      (fun r => look (fun t => (memWord t.mem 0x206C, memWord t.mem 0x2070)) (step (stepping r))) =
    [some (6, 0), some (6, 0), some (6, 0), some (6, 1), some (6, 2), some (6, 0), some (6, 4), some (6, 0), some (3, 12),
     some (4, 2)] := by decide +kernel

/-- One frame further is RANGE with the due as result; a due in the past is filed late, due 5. -/
theorem test_due_checks :
    look (fun t => (t.table.length, memWord t.mem 0x206C, memWord t.mem 0x2070)) (step (stepping (record 4 1 1048581))) =
      some (0, 6, 1048581) ∧
    look (fun t => t.table.map (fun e => (e.due, e.late))) (step (stepping (record 4 1 3))) = some [(5, true)] := by
  decide +kernel

theorem witness_CancelAndLockComplete :
    let s := { stepping (record 10 0 0) with table := [entry .freeze] }
    s.StepsRecord (record 10 0 0) 5 8 ∧ (record 10 0 0).kind = 10 ∧
    s.table.find? (fun x => decide (x.addr = (record 10 0 0).target)) = some (entry .freeze) ∧
    (entry .freeze).addr.toNat % 64 = 0 ∧ (entry .freeze).addr ≠ (record 10 0 0).addr ∧
    (stepping (record 10 0 0)).table.find? (fun x => decide (x.addr = (record 10 0 0).target)) = none ∧ (record 11 0 0).kind = 11 :=
  ⟨⟨rfl, .inl rfl, rfl, rfl, by decide⟩, rfl, by decide, by decide, by decide, by decide, rfl⟩

/-- The target completes CANCELLED, the CANCEL OK with the target's due. -/
theorem test_cancel :
    look (fun t => ([memWord t.mem 0x202C, memWord t.mem 0x206C, memWord t.mem 0x2070], t.table.length))
      (step { stepping (record 10 0 0) with table := [entry .freeze] }) = some ([2, 0, 5], 0) := by decide +kernel

/-! ### Witnesses: the stages -/

theorem witness_LevelIsTheFloor :
    2 ^ 53 ≤ 2 ^ 53 ∧ (List.replicate 128 (-8388608 : Int)).length = 128 ∧
    ∀ x ∈ List.replicate 128 (-8388608 : Int), -8388608 ≤ x ∧ x ≤ 8388607 := by
  refine ⟨le_refl _, by simp, fun x h => ?_⟩
  rw [List.eq_of_mem_replicate h]
  decide

theorem witness_GainIsRounded : (-160 : Int) ≤ -160 ∧ (-160 : Int) ≤ 0 := by decide

theorem witness_SmoothingStep : (0 : Int) < 16 ∧ (24 : Int) = 24 ∧ (23 : Int) < 24 ∧ (24 : Int) < 39 ∧ (39 : Int) - 24 < 16 := by decide

/-- A gap of none, and one above the cap. -/
theorem witness_ProcessedPush :
    (∀ gap : Nat, ({ duringWith .push .off .none with flight := some { flightWith .push .off .none with gap := gap } }).AtPhase
      { flightWith .push .off .none with gap := gap } .push) ∧ geo.refs ≤ 4 ∧ idle.xbase.toNat % 128 = 0 ∧ min 0 64 = 0 ∧
    min 65 64 ≠ 0 :=
  ⟨fun _ => ⟨rfl, rfl, rfl, rfl, rfl, rfl⟩, by decide, by decide, by decide, by decide⟩

/-- R29: a write of the gap total that fails comes after the update: the frame's own push is made, the zeros behind it. -/
theorem test_push_is_one_update :
    look (fun t => (t.faultCode, (t.history.rings[0]).take 2, t.gapTotal))
      (step { duringWith .push .off .none with
                flight := some { flightWith .push .off .none with gap := 1 }, bus := [⟨true, 0x1050, 0⟩],
                mem := words [] [((geo.refBlock 5 0), 1)] }) =
    some (.busError, [.of (List.replicate 128 0 ++ 1 :: List.replicate 127 0), .zero], 1) := by decide +kernel

theorem sampleBlock_replicate (n : Nat) (v : Int) (h : -8388608 ≤ v ∧ v ≤ 8388607) : SampleBlock n (List.replicate n v) :=
  ⟨List.length_replicate, fun x hx => by rw [List.eq_of_mem_replicate hx]; exact h⟩

/-- The cleared history, with a gap of none and of 64. -/
theorem witness_ReferencePowerStepped :
    (∀ gap : Nat, ({ duringWith .push .off .none with flight := some { flightWith .push .off .none with gap := gap } }).AtPhase
      { flightWith .push .off .none with gap := gap } .push) ∧
    geo.refs ≤ 4 ∧ History.cleared.power.length = 129 ∧ (∀ b < 129, 0 ≤ History.cleared.power.getD b 0) ∧
    ∀ r : Fin 4, SampleBlock 128 History.cleared.last[r] := by
  refine ⟨fun _ => ⟨rfl, rfl, rfl, rfl, rfl, rfl⟩, by decide, by decide +kernel, by decide +kernel, fun r => ?_⟩
  rw [show History.cleared.last[r] = List.replicate 128 0 by fin_cases r <;> rfl]
  exact sampleBlock_replicate 128 0 (by decide)

/-- The state of a frame whose channel 0, in TRACK, has `n` slots read. -/
def filtering (n : Nat) : Flight :=
  { flightWith (.filter 0) (channel .track) .none with reads := List.replicate n Slot.zero.parts }

/-- Channel 0 in TRACK and channel 1 in OFF; the last slot of channel 0, sound and upset, without a capture and with one. -/
theorem witness_StageThreeReads :
    (∀ c, (duringWith (.estimate c) (channel .track) .none).AtPhase (flightWith (.estimate c) (channel .track) .none) (.estimate c)) ∧
    ((flightWith (.estimate 0) (channel .track) .none).ctx 0).state.filters = true ∧
    ((flightWith (.estimate 0) (channel .track) .none).ctx 1).state = .off ∧
    (let s := { duringWith (.filter 0) (channel .track) .none with flight := some (filtering 3) }
     let t := { s with pool := [(3, Slot.zero.upset 0 1)], transfer := some (transfer .capture 4 0 0),
                       channels := (Vector.replicate 16 Channel.off).set 0 { channel .track with capture := true } }
     s.AtPhase (filtering 3) (.filter 0) ∧ (filtering 3).reads.length < ((filtering 3).ctx 0).parts * s.geo.refs ∧
     (s.slot ((s.extent 0).base + 3)).bad = 0#258 ∧ s.transfer = none ∧
     t.AtPhase (filtering 3) (.filter 0) ∧ (t.slot ((t.extent 0).base + 3)).bad ≠ 0#258 ∧ (t.chan 0).capture = true ∧
     t.transfer = some (transfer .capture 4 0 0)) ∧
    (transfer .capture 4 0 0).cmd.toNat % 64 = 0 ∧ (transfer .capture 4 0 0).slotAddr.toNat % 64 = 0 ∧
    Apart (transfer .capture 4 0 0).slotAddr.toNat 4 (transfer .capture 4 0 0).cmd.toNat 64 := by
  refine ⟨fun _ => witness_AtPhase _ _ _, rfl, rfl, ⟨⟨rfl, rfl, rfl, rfl, rfl, rfl⟩, by decide +kernel, by decide +kernel, rfl,
    ⟨rfl, rfl, rfl, rfl, rfl, rfl⟩, by decide +kernel, rfl, rfl⟩, by decide, by decide, ?_⟩
  unfold Apart; decide +kernel

/-- One read a unit: the unit after slot 2 reads slot 3, upset, and it alone; the unit after it forms the estimate. -/
theorem test_filter_read :
    let s := { duringWith (.filter 0) (channel .track) .none with flight := some (filtering 3), pool := [(3, Slot.zero.upset 0 1)] }
    let formed := fun t : State => t.flight.map (fun f => (f.reads.length, (f.chanWork 0).formed))
    look (fun t => (formed t, (t.chan 0).parity)) (step s) = some (some (4, false), 1) ∧
    look (fun t => look formed (step t)) (step s) = some (some (some (0, true))) := by decide +kernel

/-- A history whose newest spectrum is that of a window of the largest samples. -/
def loud : History :=
  { History.cleared with rings := Vector.replicate 4 [.of (List.replicate 256 8388607)] }

/-- Every slot read; a spectrum that is not zero before three that are. -/
theorem witness_EstimateWithinOne :
    let s := { duringWith (.filter 0) (channel .track) (workOf 5) with flight := some (filtering 4), history := loud }
    s.AtPhase (filtering 4) (.filter 0) ∧ (filtering 4).reads.length = ((filtering 4).ctx 0).parts * s.geo.refs ∧
    ((filtering 4).ctx 0).parts * s.geo.refs ≤ 256 ∧ s.history.Sampled ∧
    s.history.paired s.geo.refs 0 = .of (List.replicate 256 8388607) ∧ s.history.paired s.geo.refs 1 = .zero := by
  refine ⟨⟨rfl, rfl, rfl, rfl, rfl, rfl⟩, by decide +kernel, by decide +kernel, fun r w h => ?_, by decide +kernel, by decide +kernel⟩
  have h : Spectrum.of w ∈ [Spectrum.of (List.replicate 256 8388607)] := by
    fin_cases r <;> exact h
  rw [Spectrum.of.inj (List.mem_singleton.mp h)]
  exact sampleBlock_replicate 256 8388607 (by decide)

/-- Channel 0 in TRACK with a hangover, Lm as given, in a frame with the far end active at Lx -73. -/
def deciding (hang : Nat) (lm : Int) : State :=
  { duringWith .decide { channel .track with hang := hang } { workOf 5 with lm := lm } with
    history := { History.cleared with lx := -73, farActive := true } }

/-- Lm one above the threshold of -141; at it with h 0, 1 and 2; channel 1 in OFF. -/
theorem witness_NearEndDecided :
    (∀ h lm, (deciding h lm).AtPhase (flightWith .decide { channel .track with hang := h } { workOf 5 with lm := lm }) .decide) ∧
    (∀ h lm, ((flightWith .decide { channel .track with hang := h } { workOf 5 with lm := lm }).ctx 0).hang = h) ∧
    (deciding 0 (-140)).history.lx + (channel .track).coupling + (channel .track).tuning.mDt < -140 ∧
    ¬ (deciding 0 (-141)).history.lx + (channel .track).coupling + (channel .track).tuning.mDt < -141 ∧
    (channel .track).state ≠ .off ∧ ((flightWith .decide (channel .track) (workOf 5)).ctx 1).state = .off :=
  ⟨fun _ _ => ⟨rfl, rfl, rfl, rfl, rfl, rfl⟩, fun _ _ => rfl, by decide, by decide, by decide, by decide⟩

/-- The four outcomes of 4.2: detected with H 25; h 0, 1 and 2 before a block that is not detected. -/
theorem test_four_outcomes :
    [deciding 9 (-140), deciding 0 (-141), deciding 1 (-141), deciding 2 (-141)].map (fun s => look (fun t =>
      (t.flight.map (fun f => ((f.chanWork 0).hang, (f.chanWork 0).eligible, (f.chanWork 0).nearEnd)))) (step s)) =
    [some (some (25, false, true)), some (some (0, true, false)), some (some (0, false, false)), some (some (1, false, true))] := by
  decide +kernel

/-- 4.2's threshold: Lx -73, C -80 and M_dt 12 detect -140 and not -141. -/
theorem test_near_end_threshold :
    detects (channel .track) true (-140) (-73) = true ∧ detects (channel .track) true (-141) (-73) = false ∧
    detects (channel .track) false 0 (-73) = false := by decide

theorem witness_WalkGrantsAndRotates :
    (duringWith .walk (channel .track) (workOf 5)).AtPhase (flightWith .walk (channel .track) (workOf 5)) .walk ∧
    (duringWith .walk (channel .track) (workOf 5)).queue.Nodup :=
  ⟨witness_AtPhase _ _ _, by decide⟩

/-- Stage 6 will update the two partitions that HEAD of 2 selects, in each of two references. -/
theorem test_walk_leaves_the_slots_to_adapt :
    let ctx := { channel .track with window := { mode := .head, n := 2, complement := false } }
    look (fun t => t.flight.map Flight.phase)
      (step { duringWith .walk ctx { workOf 5 with eligible := true } with geo := { geo with refs := 2 } }) =
    some (some (.adapt [(0, 0), (0, 1), (0, 2), (0, 3)])) := by decide +kernel

/-- R93: an eligible channel whose capture failed parity in this frame is passed over, so its slot is not updated. -/
theorem test_walk_passes_over_a_failed_capture :
    let s := duringWith .walk (channel .track) { workOf 5 with eligible := true }
    let slots := fun s : State => look (fun t => t.flight.map (fun f => match f.phase with | .adapt todo => todo.length | _ => 99)) (step s)
    slots s = some (some 4) ∧ slots (s.noteFailedCapture 0) = some (some 0) := by decide +kernel

/-- A zero spectrum and an error of zeros; a spectrum that is not zero with an error that is not; a slot that fails parity. -/
theorem witness_SlotAdapted :
    (∀ v, (duringWith (.adapt [(0, 3)]) (channel .track) (workOf v)).AtPhase (flightWith (.adapt [(0, 3)]) (channel .track) (workOf v))
      (.adapt [(0, 3)])) ∧
    (duringWith (.adapt [(0, 3)]) (channel .track) (workOf 0)).history.paired 1 3 = .zero ∧
    ({ History.cleared with rings := Vector.replicate 4 [.zero, .zero, .zero, .of [1]] } : History).paired 1 3 ≠ .zero ∧
    (∃ e ∈ (workOf 1).err, e ≠ 0) ∧ (Slot.zero.upset 0 1).bad ≠ 0#258 :=
  ⟨fun _ => witness_AtPhase _ _ _, by decide +kernel, by decide +kernel, ⟨1, by simp [workOf], by decide⟩, by decide +kernel⟩

/-- The spectrum of the largest samples at partition 0, an error of the smallest, ACQUIRE and TRACK. -/
theorem witness_UpdateFollowsTheGradient :
    (∀ st, ({ duringWith (.adapt [(0, 0)]) (channel st) (workOf (-8388608)) with history := loud }).AtPhase
      (flightWith (.adapt [(0, 0)]) (channel st) (workOf (-8388608))) (.adapt [(0, 0)])) ∧
    loud.paired geo.refs 0 = .of (List.replicate 256 8388607) ∧
    SampleBlock 256 (List.replicate 256 8388607) ∧ SampleBlock 128 (workOf (-8388608)).err ∧
    (∃ e ∈ (workOf (-8388608)).err, e ≠ 0) ∧ (∀ b < 129, 0 ≤ loud.power.getD b 0) ∧
    (∀ st, (channel st).tuning.InRange) ∧ (channel .acquire).state = .acquire ∧ (channel .track).state = .track := by
  refine ⟨fun st => ⟨rfl, rfl, rfl, rfl, rfl, rfl⟩, by decide +kernel, sampleBlock_replicate _ _ (by decide),
    sampleBlock_replicate _ _ (by decide), ⟨-8388608, by simp [workOf], by decide⟩, by decide +kernel, fun st => ?_, rfl, rfl⟩
  rw [show (channel st).tuning = (channel .track).tuning from rfl]
  unfold Tuning.InRange
  decide

/-- A granted block with Le one above Lm + 24. -/
def strike : ChanWork :=
  { ChanWork.none with granted := true, eligible := true, lm := -160, le := -135 }

/-- Strikes 7 and 6; a channel in OFF; one that has left RESTORING before the walk. -/
theorem witness_StageSevenCommits :
    (let ctx := { channel .track with strikes := 7 }
     (duringWith (.commit 0) ctx strike).AtPhase (flightWith (.commit 0) ctx strike) (.commit 0) ∧
     (duringWith (.commit 0) ctx strike).EighthStrike (flightWith (.commit 0) ctx strike) 0) ∧
    (let ctx := { channel .track with strikes := 6 }
     ¬ (duringWith (.commit 0) ctx strike).EighthStrike (flightWith (.commit 0) ctx strike) 0 ∧
     ((flightWith (.commit 0) ctx strike).ctx 0).state ≠ .off ∧
     ((duringWith (.commit 0) ctx strike).chan 0).state = ((flightWith (.commit 0) ctx strike).ctx 0).state) ∧
    ((flightWith (.commit 0) .off strike).ctx 0).state = .off ∧
    (let s := { duringWith (.commit 0) (channel .restoring) strike with channels := (Vector.replicate 16 Channel.off).set 0 (channel .track) }
     s.AtPhase (flightWith (.commit 0) (channel .restoring) strike) (.commit 0) ∧ (s.chan 0).state ≠ .restoring) :=
  ⟨⟨witness_AtPhase _ _ _, by unfold State.EighthStrike; decide⟩, ⟨by unfold State.EighthStrike; decide, by decide, by decide⟩, by decide,
    ⟨rfl, rfl, rfl, rfl, rfl, rfl⟩, by decide⟩

/-- 5.5: with C -80, Lm -160 and Lx -480 the coupling moves by 320 - 80 over 16 up to its clamp; the sixth strike counts. -/
theorem test_stage_seven :
    look (fun t => ((t.chan 0).strikes, (t.chan 0).erle, (t.chan 0).coupling))
      (step (duringWith (.commit 0) { channel .track with strikes := 6 } strike)) = some (7, -4, -55) := by decide +kernel

/-- Channels 0 and 1 in TRACK with seven strikes and a frame that strikes both. -/
def bothStrike (phase : Phase) : State :=
  let ctx := { channel .track with strikes := 7 }
  { during phase with
    flight := some { flight phase with start := Vector.replicate 16 ctx, work := Vector.replicate 16 strike }
    channels := Vector.replicate 16 ctx, alloc := [⟨0, 0, 4⟩, ⟨1, 4, 4⟩] }

/-- The engine asks for the port from channel 0's last zero through channel 1's first, and no more with channel 1's last (R105). -/
theorem test_zeroing_goes_on :
    let asks := fun phase => look State.engineAsks (step (bothStrike phase))
    [asks (.zeroing 0 3), asks (.zeroing 0 4), asks (.zeroing 1 3)] = [some true, some true, some false] := by decide +kernel

/-- The last slot of the extent, and the extent zeroed; 250 frames back suspends, 251 does not; the next channel's event, and none. -/
theorem witness_DivergenceCommitted :
    (let ctx := { channel .track with divergences := [4294967051, 0] }
     (∀ k, (duringWith (.zeroing 0 k) ctx strike).AtPhase (flightWith (.zeroing 0 k) ctx strike) (.zeroing 0 k)) ∧
     3 < ((duringWith (.zeroing 0 3) ctx strike).extent 0).size ∧
     ((duringWith (.zeroing 0 4) ctx strike).extent 0).size ≤ 4 ∧ ctx.divergences.length ≤ 3) ∧
    signedDiff 5 4294967051 = 250 ∧ signedDiff 5 4294967050 = 251 ∧
    (let s := bothStrike (.zeroing 0 3)
     ∃ f, s.AtPhase f (.zeroing 0 3) ∧ 0 + 1 < s.geo.mics ∧ s.EighthStrike f 1) ∧
    ¬ 1 + 1 < geo.mics :=
  ⟨⟨fun _ => witness_AtPhase _ _ _, by decide, by decide, by decide⟩, by decide, by decide,
    ⟨_, ⟨rfl, rfl, rfl, rfl, rfl, rfl⟩, by decide, by unfold State.EighthStrike; decide⟩, by decide⟩

/-- One slot a unit: slot 2 is zeroed, slot 3 is not yet. -/
theorem test_zeroing_is_slot_by_slot :
    look (fun t => ((t.slot 2).parts.getD 0 0, (t.slot 3).parts.getD 0 0, t.flight.map (fun f => (f.phase, f.asks))))
      (step { duringWith (.zeroing 0 2) (channel .track) strike with
                pool := [(2, ⟨7 :: List.replicate 257 0, 0⟩), (3, ⟨7 :: List.replicate 257 0, 0⟩)] }) =
    some (0, 7, some (.zeroing 0 3, true)) := by decide +kernel

theorem test_divergence_suspends :
    [4294967051#32, 4294967050#32].map (fun a =>
      look (fun t => (t.chan 0).state) (step (duringWith (.zeroing 0 4) { channel .track with divergences := [a, 0] } strike))) =
    [some .suspended, some .acquire] := by decide +kernel

/-- With the far end inactive the target is 0: A at it and one below; with it active, Lx -100 and no estimate, Lr is -180 and the
target -60, below an A of -59; channel 1 in OFF. -/
theorem witness_SuppressorRamps :
    (∀ a : Int, (duringWith (.suppress 0) { channel .track with atten := a } (workOf 5)).AtPhase
      (flightWith (.suppress 0) { channel .track with atten := a } (workOf 5)) (.suppress 0)) ∧
    targetAttenuation false false (-120) (-240) 0 = 0 ∧ (-1 : Int) < 0 ∧
    residual (channel .track) (workOf 5) (-100) = -180 ∧ targetAttenuation false true (-120) (-240) (-180) = -60 ∧
    (-60 : Int) < -59 ∧ (channel .track).state ≠ .off ∧
    ((flightWith (.suppress 0) (channel .track) (workOf 5)).ctx 1).state = .off :=
  ⟨fun _ => witness_AtPhase _ _ _, by decide, by decide, by decide, by decide, by decide, by decide, by decide⟩

theorem witness_FirstFitPlacesDisjoint :
    ExtentsDisjoint [⟨1, 0, 1984⟩] ∧ (∀ e ∈ [(⟨1, 0, 1984⟩ : Extent)], e.chan ≠ 0) ∧ firstFit [⟨1, 0, 1984⟩] 64 = some 1984 ∧
    firstFit [⟨1, 0, 1984⟩] 65 = none := by
  unfold ExtentsDisjoint; decide

/-! ### Witnesses: the invariants -/

/-- Every channel but 0 of a state that has channel 0 alone is in OFF. -/
theorem having_chan (st : ChanState) (queue : List Nat) (c : Nat) :
    (State.having idle st queue).chan c = if c = 0 then channel st else .off := by
  rcases Nat.lt_or_ge c 16 with h | h
  · interval_cases c <;> rfl
  · have h0 : c ≠ 0 := by omega
    simp [State.having, State.chan, h, h0]

/-- A running engine with channel 0 in TRACK, and a HALT that waits. -/
def sound : State :=
  { State.having idle .track [0] with pending := [.halt] }

/-- The state after that HALT. -/
def halted : State :=
  { State.having idle .track [0] with engine := .halted }

theorem witness_MemoryStaysCanonical : sound.MemoryCanonical ∧ step sound = .next halted := ⟨rfl, rfl⟩

theorem witness_CountsStayInStep : sound.CountsAgree ∧ step sound = .next halted := by
  refine ⟨⟨.inl rfl, fun h => absurd h (by decide)⟩, rfl⟩

theorem witness_TableAndFaultsStaySound : sound.TableBounded ∧ sound.FaultsAgree ∧ step sound = .next halted :=
  ⟨by unfold State.TableBounded; decide, fun _ => ⟨rfl, rfl⟩, rfl⟩

theorem witness_QueueStaysExact : sound.ChannelsNamed ∧ sound.QueueExact ∧ step sound = .next halted := by
  refine ⟨⟨by decide, fun t h => (nomatch h), fun f h => (nomatch h)⟩, ⟨by decide, fun c => ?_⟩, rfl⟩
  rw [show sound.chan c = if c = 0 then channel .track else .off from having_chan .track [0] c]
  by_cases h : c = 0 <;> simp [h, sound, State.having, channel, Channel.configured, Channel.off, ChanState.adapts]

theorem witness_CapturesStayMarked : sound.CapturesAgree ∧ step sound = .next halted := by
  refine ⟨⟨fun c => ?_, fun c => ?_⟩, rfl⟩
  all_goals
    rw [show sound.chan c = if c = 0 then channel .track else .off from having_chan .track [0] c]
    by_cases h : c = 0 <;>
      simp [h, sound, State.having, idle, State.reset, channel, Channel.configured, Channel.off]

theorem witness_RangesKept : sound.WithinRanges ∧ step sound = .next halted := by
  have ranges : ∀ c, (sound.chan c).InRange := by
    intro c
    rw [show sound.chan c = if c = 0 then channel .track else .off from having_chan .track [0] c]
    by_cases h : c = 0 <;> simp only [h, if_true, if_false] <;> unfold Channel.InRange Tuning.InRange <;> decide
  have levels : sound.history.InRange sound.geo.farHold := by
    refine ⟨⟨fun r => ?_, fun r w h => ?_, List.length_replicate, fun p h => ?_⟩, ?_⟩
    · rw [show sound.history.rings[r] = List.replicate 64 .zero by fin_cases r <;> rfl,
        show sound.history.last[r] = List.replicate 128 0 by fin_cases r <;> rfl]
      exact ⟨List.length_replicate, sampleBlock_replicate 128 0 (by decide)⟩
    · rw [show sound.history.rings[r] = List.replicate 64 .zero by fin_cases r <;> rfl] at h
      exact nomatch List.eq_of_mem_replicate h
    · exact (List.eq_of_mem_replicate h).ge
    · unfold LevelInRange; decide
  exact ⟨⟨ranges, levels, by decide, fun f h => (nomatch h), fun e h => absurd h (List.not_mem_nil), fun t h => (nomatch h),
    fun t h => (nomatch h), fun f c k h => (nomatch h)⟩, rfl⟩

theorem witness_PoolStaysSound : sound.PoolSound ∧ step sound = .next halted := by
  refine ⟨⟨by unfold ExtentsDisjoint; decide, fun c => ?_, by decide, by decide, fun _ => by decide,
    fun e h => absurd h (List.not_mem_nil), fun t h => (nomatch h), fun f c k h => (nomatch h)⟩, rfl⟩
  rw [show sound.chan c = if c = 0 then channel .track else .off from having_chan .track [0] c]
  by_cases h : c = 0
  · subst h; exact ⟨fun h => absurd h (by decide), fun _ => by decide⟩
  · simp only [h, if_false]
    refine ⟨fun _ e he => ?_, fun h' => absurd rfl h'⟩
    have : e = ⟨0, 0, 4⟩ := by simpa [sound, State.having] using he
    subst this; exact fun h' => h h'.symm

end Sys2Proof.Tests
end

section
/-! Chapter 1 (R8, R9, R13, R15): the level function, the gain table and the smoothing step, tied to the formulas of the manual. -/

namespace Sys2Proof.Machine

/-! ### Powers of ten with a fractional exponent -/

/-- `10 ^ (-j / n)` is the real whose `n`th power is `1 / 10 ^ j`. -/
theorem tenRoot_pow (j : Nat) {n : Nat} (hn : n ≠ 0) : ((10 : ℝ) ^ (-(j : ℝ) / n)) ^ n * 10 ^ j = 1 := by
  have hn' : (n : ℝ) ≠ 0 := Nat.cast_ne_zero.mpr hn
  rw [← Real.rpow_natCast, ← Real.rpow_mul (by norm_num), div_mul_cancel₀ _ hn', Real.rpow_neg (by norm_num),
    Real.rpow_natCast]
  exact inv_mul_cancel₀ (by positivity)

theorem mul_tenRoot_pow (c j : Nat) {n : Nat} (hn : n ≠ 0) :
    ((c : ℝ) * (10 : ℝ) ^ (-(j : ℝ) / n)) ^ n * 10 ^ j = (c : ℝ) ^ n := by
  rw [mul_pow, mul_assoc, tenRoot_pow j hn, mul_one]

/-- The exact test of a bound from below: both sides raised to the `n`th power. -/
theorem mul_tenRoot_le_iff (c x j : Nat) {n : Nat} (hn : n ≠ 0) :
    (c : ℝ) * (10 : ℝ) ^ (-(j : ℝ) / n) ≤ x ↔ c ^ n ≤ x ^ n * 10 ^ j := by
  rw [← pow_le_pow_iff_left₀ (by positivity) (by positivity) hn,
    ← mul_le_mul_iff_left₀ (show (0 : ℝ) < 10 ^ j by positivity), mul_tenRoot_pow c j hn]
  exact_mod_cast Iff.rfl

/-- The exact test of a bound from above. -/
theorem le_mul_tenRoot_iff (c x j : Nat) {n : Nat} (hn : n ≠ 0) :
    (x : ℝ) ≤ c * (10 : ℝ) ^ (-(j : ℝ) / n) ↔ x ^ n * 10 ^ j ≤ c ^ n := by
  rw [← pow_le_pow_iff_left₀ (by positivity) (by positivity) hn,
    ← mul_le_mul_iff_left₀ (show (0 : ℝ) < 10 ^ j by positivity), mul_tenRoot_pow c j hn]
  exact_mod_cast Iff.rfl

/-! ### The level function (R9) -/

theorem tenfolds_le_fuel (target fuel x : Nat) : tenfolds target fuel x ≤ fuel := by
  induction fuel generalizing x with
  | zero => exact le_rfl
  | succ fuel ih =>
    unfold tenfolds
    split_ifs
    · exact Nat.zero_le _
    · exact Nat.succ_le_succ (ih _)

/-- Within the fuel, `j` factors of ten are enough exactly where they take `x` to the target. -/
theorem tenfolds_le_iff (target : Nat) {fuel j : Nat} (x : Nat) (hj : j < fuel) :
    tenfolds target fuel x ≤ j ↔ target ≤ x * 10 ^ j := by
  induction fuel generalizing x j with
  | zero => exact absurd hj (Nat.not_lt_zero j)
  | succ fuel ih =>
    unfold tenfolds
    by_cases hx : target ≤ x
    · have hgrow : x ≤ x * 10 ^ j := Nat.le_mul_of_pos_right x (by positivity)
      simp [hx, hx.trans hgrow]
    · rw [if_neg hx]
      cases j with
      | zero => simp [hx]
      | succ j => rw [Nat.succ_le_succ_iff, ih _ (Nat.lt_of_succ_lt_succ hj), pow_succ', mul_assoc]

theorem levelOfEnergy_range (e : Nat) : -480 ≤ levelOfEnergy e ∧ levelOfEnergy e ≤ 0 := by
  have h := tenfolds_le_fuel (fullScale ^ 40) 480 (e ^ 40)
  unfold levelOfEnergy
  omega

/-- The model's exact decision of R10: the level is at least `-j` where `e ^ 40 * 10 ^ j` reaches the full scale's power. -/
theorem neg_le_levelOfEnergy_iff (e : Nat) {j : Nat} (hj : j < 480) :
    -(j : Int) ≤ levelOfEnergy e ↔ fullScale ^ 40 ≤ e ^ 40 * 10 ^ j := by
  rw [levelOfEnergy, neg_le_neg_iff, Nat.cast_le, tenfolds_le_iff _ _ hj]

/-- R9's threshold of each level above the lowest. -/
theorem le_levelOfEnergy_iff (e : Nat) {k : Int} (hlow : -480 < k) (hhigh : k ≤ 0) :
    k ≤ levelOfEnergy e ↔ (2 : ℝ) ^ 53 * (10 : ℝ) ^ ((k : ℝ) / 40) ≤ (e : ℝ) := by
  obtain ⟨j, rfl⟩ : ∃ j : Nat, k = -(j : Int) := ⟨k.natAbs, by omega⟩
  have hscale : ((fullScale : Nat) : ℝ) = 2 ^ 53 := by norm_num [fullScale]
  rw [neg_le_levelOfEnergy_iff e (by omega), ← mul_tenRoot_le_iff fullScale e j (by norm_num), hscale]
  push_cast
  rfl

/-- The level is 0 at the full scale and above only. -/
theorem levelOfEnergy_eq_zero_iff (e : Nat) : levelOfEnergy e = 0 ↔ 2 ^ 53 ≤ e := by
  have h := neg_le_levelOfEnergy_iff e (j := 0) (by norm_num)
  rw [pow_zero, mul_one, Nat.pow_le_pow_iff_left (by norm_num)] at h
  exact (levelOfEnergy_range e).2.ge_iff_eq.symm.trans h

/-! ### The energy of a block (R8) -/

/-- One square is at most 2^46, and reaches it only at the lowest sample. -/
theorem sample_square_le {x : Int} (hlow : -8388608 ≤ x) (hhigh : x ≤ 8388607) : x.natAbs * x.natAbs ≤ 2 ^ 46 :=
  (Nat.mul_le_mul (show x.natAbs ≤ 2 ^ 23 by omega) (show x.natAbs ≤ 2 ^ 23 by omega)).trans_eq (by norm_num)

theorem sample_square_eq_iff {x : Int} (hhigh : x ≤ 8388607) : x.natAbs * x.natAbs = 2 ^ 46 ↔ x = -8388608 := by
  rw [show 2 ^ 46 = 8388608 * 8388608 by norm_num, Nat.mul_self_inj]
  omega

@[simp] theorem energy_nil : energy [] = 0 := rfl

@[simp] theorem energy_cons (x : Int) (block : List Int) :
    energy (x :: block) = x.natAbs * x.natAbs + energy block := rfl

theorem energy_eq_sum (block : List Int) : (energy block : Int) = (block.map (fun x => x * x)).sum := by
  induction block with
  | nil => rfl
  | cons x block ih => simp [ih]

theorem energy_le {block : List Int} (hb : ∀ x ∈ block, -8388608 ≤ x ∧ x ≤ 8388607) :
    energy block ≤ block.length * 2 ^ 46 := by
  induction block with
  | nil => exact Nat.zero_le _
  | cons x block ih =>
    obtain ⟨⟨hlow, hhigh⟩, hrest⟩ := List.forall_mem_cons.mp hb
    have hx := sample_square_le hlow hhigh
    have hblock := ih hrest
    rw [energy_cons, List.length_cons]
    omega

/-- The energy reaches its bound only where every square does. -/
theorem energy_full_iff {block : List Int} (hb : ∀ x ∈ block, -8388608 ≤ x ∧ x ≤ 8388607) :
    block.length * 2 ^ 46 ≤ energy block ↔ ∀ x ∈ block, x = -8388608 := by
  induction block with
  | nil => simp
  | cons x block ih =>
    obtain ⟨⟨hlow, hhigh⟩, hrest⟩ := List.forall_mem_cons.mp hb
    have hx := sample_square_le hlow hhigh
    have hblock := energy_le hrest
    rw [List.forall_mem_cons, ← ih hrest, ← sample_square_eq_iff hhigh, energy_cons, List.length_cons]
    omega

/-! ### The gain table (R15) -/

/-- The weights of an `n`-bit number, the highest first. -/
def bitWeights : Nat → List Nat
  | 0 => []
  | n + 1 => 2 ^ n :: bitWeights n

/-- The largest value at or above `g` that `p` takes, found bit by bit. -/
def bitSearch (p : Nat → Bool) (n g : Nat) : Nat :=
  (bitWeights n).foldl (fun g b => if p (g + b) then g + b else g) g

theorem bitSearch_succ (p : Nat → Bool) (n g : Nat) :
    bitSearch p (n + 1) g = bitSearch p n (if p (g + 2 ^ n) then g + 2 ^ n else g) := rfl

theorem gainOf_eq_bitSearch (a : Nat) : gainOf a = bitSearch (gainReaches a) 15 0 := rfl

theorem bitSearch_range (p : Nat → Bool) (n g : Nat) : g ≤ bitSearch p n g ∧ bitSearch p n g < g + 2 ^ n := by
  induction n generalizing g with
  | zero => exact ⟨le_rfl, Nat.lt_succ_self g⟩
  | succ n ih =>
    have hhigh := ih (g + 2 ^ n)
    have hlow := ih g
    rw [bitSearch_succ, pow_succ]
    split_ifs <;> omega

/-- For a property that falls with its argument and holds at `g`, the search finds the largest value of its range that has it. -/
theorem le_bitSearch_iff {p : Nat → Bool} (hp : ∀ m m', m ≤ m' → p m' → p m) (n : Nat) {g m : Nat} (hg : p g)
    (hm : m < g + 2 ^ n) : m ≤ bitSearch p n g ↔ p m := by
  induction n generalizing g with
  | zero =>
    have hmg : m ≤ g := by simpa using Nat.le_of_lt_succ hm
    exact ⟨fun _ => hp m g hmg hg, fun _ => hmg⟩
  | succ n ih =>
    rw [pow_succ] at hm
    rw [bitSearch_succ]
    by_cases hbit : p (g + 2 ^ n)
    · rw [if_pos hbit]
      exact ih hbit (by omega)
    · rw [if_neg hbit]
      by_cases hmid : m < g + 2 ^ n
      · exact ih hg hmid
      · have hbelow := (bitSearch_range p n g).2
        exact ⟨fun h => by omega, fun h => absurd (hp _ m (by omega) h) hbit⟩

theorem gainReaches_iff (a g : Nat) : gainReaches a g ↔ (2 * g - 1) ^ 80 * 10 ^ a ≤ 65536 ^ 80 := by
  simp only [gainReaches, decide_eq_true_eq]

/-- A smaller gain at a smaller attenuation is reached a fortiori. -/
theorem gainReaches_anti {a a' g g' : Nat} (ha : a ≤ a') (hg : g ≤ g') (h : gainReaches a' g') : gainReaches a g := by
  rw [gainReaches_iff] at h ⊢
  have hbase : (2 * g - 1) ^ 80 ≤ (2 * g' - 1) ^ 80 := Nat.pow_le_pow_left (by omega) 80
  exact (Nat.mul_le_mul hbase (Nat.pow_le_pow_right (by norm_num) ha)).trans h

theorem gainReaches_zero (a : Nat) : gainReaches a 0 := by
  simp [gainReaches_iff]

theorem gainOf_le (a : Nat) : gainOf a ≤ 32767 := by
  have h := (bitSearch_range (gainReaches a) 15 0).2
  rw [gainOf_eq_bitSearch]
  omega

theorem le_gainOf_iff (a : Nat) {g : Nat} (hg : g ≤ 32767) : g ≤ gainOf a ↔ gainReaches a g := by
  rw [gainOf_eq_bitSearch]
  exact le_bitSearch_iff (fun _ _ hm h => gainReaches_anti le_rfl hm h) 15 (gainReaches_zero a) (by omega)

theorem gainOf_antitone : Antitone gainOf := fun a _ ha =>
  (le_gainOf_iff a (gainOf_le _)).mpr (gainReaches_anti ha le_rfl ((le_gainOf_iff _ (gainOf_le _)).mp le_rfl))

/-- The value that R15 rounds, halves up. -/
noncomputable def roundedGain (atten : Int) : Int :=
  ⌊(32768 : ℝ) * (10 : ℝ) ^ ((atten : ℝ) / 80) + 1 / 2⌋

theorem roundedGain_nonneg (atten : Int) : 0 ≤ roundedGain atten :=
  Int.floor_nonneg.mpr (by positivity)

/-- The model's exact test is R15's rounding: `g` is at or below the rounded value where `g - 1/2` is at or below the value. -/
theorem le_roundedGain_iff (a g : Nat) : (g : Int) ≤ roundedGain (-(a : Int)) ↔ gainReaches a g := by
  cases g with
  | zero => exact iff_of_true (by simpa using roundedGain_nonneg _) (gainReaches_zero a)
  | succ g =>
    have hodd : 2 * (g + 1) - 1 = 2 * g + 1 := by omega
    rw [gainReaches_iff, ← le_mul_tenRoot_iff 65536 _ a (by norm_num), roundedGain, Int.le_floor, hodd]
    push_cast
    constructor <;> intro h <;> linarith

theorem gain_eq_min_roundedGain {atten : Int} (h : atten ≤ 0) : (gain atten : Int) = min 32767 (roundedGain atten) := by
  obtain ⟨a, rfl⟩ : ∃ a : Nat, atten = -(a : Int) := ⟨atten.natAbs, by omega⟩
  obtain ⟨r, hr⟩ := Int.eq_ofNat_of_zero_le (roundedGain_nonneg (-(a : Int)))
  have hreach : ∀ g ≤ 32767, (g ≤ gainOf a ↔ g ≤ r) := fun g hg => by
    rw [le_gainOf_iff a hg, ← le_roundedGain_iff, hr, Nat.cast_le]
  have hgain : gain (-(a : Int)) = gainOf a := by simp [gain]
  have hle := (hreach _ (gainOf_le a)).mp le_rfl
  have hge := (hreach (min 32767 r) (min_le_left _ _)).mpr (min_le_right _ _)
  have hmax := gainOf_le a
  rw [hgain, hr]
  omega

theorem gain_monotone : Monotone gain := fun _ _ h => gainOf_antitone (Int.toNat_le_toNat (neg_le_neg h))

/-! ### The smoothing step (R13) -/

theorem smooth_eq_floor (v t d : Int) (hd : 0 < d) : smooth v t d = v + ⌊((t : ℚ) - v) / d⌋ := by
  lift d to Nat using hd.le
  rw [smooth, ← Int.cast_sub, Int.cast_natCast, Rat.floor_intCast_div_natCast]

@[simp] theorem smooth_self (v d : Int) : smooth v v d = v := by
  simp [smooth]

/-- A step down moves by one at least and does not pass its target. -/
theorem smooth_down {v t d : Int} (hd : 0 < d) (h : t < v) : t ≤ smooth v t d ∧ smooth v t d ≤ v - 1 := by
  have hneg : (t - v) / d < 0 := Int.ediv_neg_of_neg_of_pos (by omega) hd
  have hlow : t - v ≤ (t - v) / d := Int.le_ediv_of_mul_le hd (by nlinarith)
  unfold smooth
  omega

/-- A step up does not pass its target. -/
theorem smooth_up {v t d : Int} (hd : 0 < d) (h : v < t) : v ≤ smooth v t d ∧ smooth v t d ≤ t := by
  have hpos : 0 ≤ (t - v) / d := Int.ediv_nonneg (by omega) hd.le
  have hhigh : (t - v) / d ≤ t - v := Int.ediv_le_self d (by omega)
  unfold smooth
  omega

/-- A step up over less than the divisor does not move. -/
theorem smooth_stays {v t d : Int} (h : v < t) (hnear : t - v < d) : smooth v t d = v := by
  rw [smooth, Int.ediv_eq_zero_of_lt (by omega) hnear, add_zero]

theorem smooth_between {v t d : Int} (hd : 0 < d) : min v t ≤ smooth v t d ∧ smooth v t d ≤ max v t := by
  rcases lt_trichotomy t v with h | rfl | h
  · have := smooth_down hd h
    omega
  · simp
  · have := smooth_up hd h
    omega

/-- Steps down reach their target: each takes one at least, so a distance of `n` takes `n` steps at most. -/
theorem smooth_iterate_reaches {t d : Int} (hd : 0 < d) (n : Nat) {v : Int} (hv : t ≤ v) (hn : v - t ≤ n) :
    (fun x => smooth x t d)^[n] v = t := by
  induction n generalizing v with
  | zero => exact le_antisymm (by simpa using hn) hv
  | succ n ih =>
    rw [Function.iterate_succ_apply]
    rcases hv.eq_or_lt with rfl | h
    · exact ih (by simp) (by simp)
    · obtain ⟨hlow, hdown⟩ := smooth_down hd h
      exact ih hlow (by omega)

end Sys2Proof.Machine

namespace Sys2Proof

open Sys2Proof.Machine

/-- Settles O38: the level's threshold test is R9's with both sides raised to the 40th power, and the energy reaches full scale only
where every square does. -/
theorem levelIsTheFloor : Obligations.LevelIsTheFloor := by
  refine ⟨fun e _ => ⟨(levelOfEnergy_range e).1, (levelOfEnergy_range e).2, fun _ => le_levelOfEnergy_iff e⟩,
    fun block hlen hb => ?_⟩
  have hfull : block.length * 2 ^ 46 = 2 ^ 53 := by rw [hlen]; norm_num
  exact ⟨rfl, energy_eq_sum block, hfull ▸ energy_le hb,
    (levelOfEnergy_eq_zero_iff _).trans (hfull ▸ energy_full_iff hb)⟩

/-- Settles O39: the bitwise search finds the largest gain that R15's rounding reaches, and a smaller attenuation reaches more. -/
theorem gainIsRounded : Obligations.GainIsRounded :=
  ⟨fun _ _ h => gain_eq_min_roundedGain h, fun _ _ _ h _ => gain_monotone h⟩

/-- Settles O40: the properties of the step up, the step down and the step at the target. -/
theorem smoothingStep : Obligations.SmoothingStep := by
  intro v t d hd
  refine ⟨smooth_eq_floor v t d hd, smooth_between hd, ?_, fun h => (smooth_down hd h).2, fun h => ?_, smooth_stays⟩
  · rintro rfl
    exact smooth_self _ d
  · exact ⟨(v - t).toNat, smooth_iterate_reaches hd _ h.le (by omega)⟩

end Sys2Proof
end

section
/-! Chapter 4 (R55 to R59): stage 4, the frame's own unit at that phase and the decision of one channel by the table of R59. -/

namespace Sys2Proof.Machine

/-! ### The frame's next unit -/

/-- With no command waiting and no intake in progress, the block's own progress is the frame's next unit. -/
theorem step_atPhase {s : State} {f : Flight} {phase : Phase} (h : s.AtPhase f phase) :
    step s = .next (settle (frameUnit f) s) := by
  obtain ⟨hpending, hworks, hintake, hflight, -, -⟩ := h
  have hprogress : progress s = frameUnit f s := by simp [progress, hintake, hflight]
  simp [step, execIdle, hpending, hworks, settle, hprogress]

/-- Stage 4 is one unit, which replaces the frame in flight alone. -/
theorem step_decide {s : State} {f : Flight} (h : s.AtPhase f .decide) :
    step s = .next (s.setFlight (some (f.decided s.history))) := by
  rw [step_atPhase h]
  obtain ⟨-, -, -, -, hphase, -⟩ := h
  simp [frameUnit, hphase, settle]

/-- Stage 4 decides each channel with its own context of the end of stage 1 (R55). -/
theorem decided_chanWork (f : Flight) (h : History) {c : Nat} (hc : c < 16) :
    (f.decided h).chanWork c = decideChannel (f.ctx c) h.farActive h.lx (f.chanWork c) := by
  simp [Flight.decided, Flight.chanWork, Flight.ctx, hc]

/-! ### The decision of one channel (R56 to R59) -/

theorem detects_iff (ctx : Channel) (far : Bool) (lm lx : Int) :
    detects ctx far lm lx = true ↔ far = true ∧ lx + ctx.coupling + ctx.tuning.mDt < lm := by
  simp [detects]

theorem decideChannel_off {ctx : Channel} (far : Bool) (lx : Int) (w : ChanWork) (h : ctx.state = .off) :
    decideChannel ctx far lx w = w := if_pos h

section
variable {ctx : Channel} {far : Bool} {lx : Int} {w : ChanWork}

/-- A detected block: the hangover starts at H, and near-end speech is present (R57, R59). -/
theorem decideChannel_detected (hon : ctx.state ≠ .off) (hd : detects ctx far w.lm lx = true) :
    decideChannel ctx far lx w = { w with hang := ctx.tuning.hang.toNat, eligible := false, nearEnd := true } := by
  simp [decideChannel, hon, hd, hangoverAfter, eligibleBlock, nearEndPresent]

/-- A block that is not detected: h falls by 1 to at least 0, eligibility asks h to have been 0, and presence asks it to be left above 0
(R57 to R59). -/
theorem decideChannel_undetected (hon : ctx.state ≠ .off) (hd : ¬ detects ctx far w.lm lx = true) :
    decideChannel ctx far lx w =
      { w with hang := ctx.hang - 1, eligible := decide (ctx.hang = 0) && far, nearEnd := decide (0 < ctx.hang - 1) } := by
  simp [decideChannel, hon, hd, hangoverAfter, eligibleBlock, nearEndPresent]

end

end Sys2Proof.Machine

namespace Sys2Proof

open Sys2Proof.Machine

/-- Settles O45: stage 4 replaces the frame alone, and of a channel not detected the hangover before the block, 0, 1 or more, selects among
the last three outcomes of R59's table. -/
theorem nearEndDecided : Obligations.NearEndDecided := by
  intro s f hat
  refine ⟨_, f.decided s.history, step_decide hat, rfl, rfl, fun c hc => ?_⟩
  rw [decided_chanWork f s.history hc]
  refine ⟨decideChannel_off _ _ _, fun hon => ?_⟩
  simp only [← detects_iff]
  refine ⟨decideChannel_detected hon, fun hd hh => ?_, fun hd hh => ?_, fun hd hh => ?_⟩
  · simp [decideChannel_undetected hon hd, hh]
  · simp [decideChannel_undetected hon hd, hh]
  · have hleft : 0 < (f.ctx c).hang - 1 := by omega
    have hbefore : (f.ctx c).hang ≠ 0 := by omega
    simp [decideChannel_undetected hon hd, hleft, hbefore]

end Sys2Proof
end

section
/-! Everything a step can do, said once: the changes of state that the part's work is made of, and the closure of them that each named
operation stays within. The invariants are proved of the single changes. -/

namespace Sys2Proof.Machine

/-! ### Work that moves along a relation -/

/-- From `s` the work `w` moves along `R`, whether it ends or faults, and where it ends `Q` holds of its answer and its state. -/
def Does {α : Type} (R : State → State → Prop) (w : Work α) (s : State) (Q : α → State → Prop) : Prop :=
  match w s with
  | .ok a t => Relation.ReflTransGen R s t ∧ Q a t
  | .error _ t => Relation.ReflTransGen R s t

section
variable {α β : Type} {R R' : State → State → Prop} {w : Work α} {s : State} {Q Q' : α → State → Prop}

theorem does_pure {a : α} (h : Q a s) : Does R (pure a) s Q := ⟨.refl, h⟩

theorem does_fail {f : EngineFault} : Does R (fail f) s Q := Relation.ReflTransGen.refl

theorem does_update {g : State → State} {Q : Unit → State → Prop} (h : Relation.ReflTransGen R s (g s)) (hq : Q () (g s)) :
    Does R (update g) s Q := ⟨h, hq⟩

theorem does_bind {g : α → Work β} {Q' : β → State → Prop} (hw : Does R w s Q) (hg : ∀ a t, Q a t → Does R (g a) t Q') :
    Does R (w >>= g) s Q' := by
  unfold Does at hw ⊢
  rw [work_bind]
  cases hws : w s with
  | error f t => simpa [hws] using hw
  | ok a t =>
    rw [hws] at hw
    obtain ⟨hst, hq⟩ := hw
    have hrest := hg a t hq
    unfold Does at hrest
    cases hgt : g a t with
    | error f u =>
      rw [hgt] at hrest
      simpa only [hgt] using hst.trans hrest
    | ok b u =>
      rw [hgt] at hrest
      simpa only [hgt] using And.intro (hst.trans hrest.1) hrest.2

@[simp] theorem does_getState_bind {g : State → Work β} {Q : β → State → Prop} :
    Does R (getState >>= g) s Q ↔ Does R (g s) s Q := by
  simp [Does]

theorem does_update_bind {c : State → State} {g : Unit → Work β} {Q : β → State → Prop} (h : Relation.ReflTransGen R s (c s))
    (hg : Does R (g ()) (c s) Q) : Does R (update c >>= g) s Q :=
  does_bind (Q := fun _ t => t = c s) (does_update h rfl) (fun _ _ e => e ▸ hg)

/-- A change and the work after it, taken together as one move. -/
theorem does_update_apply_bind {c : State → State} {v : Work α} {g : α → Work β} {Q : β → State → Prop} {a : α} {t : State}
    (hv : v (c s) = .ok a t) (hst : Relation.ReflTransGen R s t) (hg : Does R (g a) t Q) :
    Does R (update c >>= fun _ => v >>= g) s Q := by
  unfold Does at hg ⊢
  simp only [work_bind, update_apply, hv]
  cases hgt : g a t with
  | ok b u =>
    rw [hgt] at hg
    exact ⟨hst.trans hg.1, hg.2⟩
  | error f u =>
    rw [hgt] at hg
    exact hst.trans hg

theorem Does.imp (h : Does R w s Q) (hq : ∀ a t, Q a t → Q' a t) : Does R w s Q' := by
  unfold Does at h ⊢
  cases hw : w s with
  | ok a t =>
    rw [hw] at h
    exact ⟨h.1, hq a t h.2⟩
  | error f t =>
    rw [hw] at h
    exact h

theorem Does.mono (h : Does R w s Q) (hr : ∀ s t, R s t → R' s t) : Does R' w s Q := by
  unfold Does at h ⊢
  cases hw : w s with
  | ok a t =>
    rw [hw] at h
    exact ⟨Relation.ReflTransGen.mono hr _ _ h.1, h.2⟩
  | error f t =>
    rw [hw] at h
    exact Relation.ReflTransGen.mono hr _ _ h

theorem Does.ok (h : Does R w s Q) {a : α} {t : State} (e : w s = .ok a t) : Relation.ReflTransGen R s t ∧ Q a t := by
  simpa [Does, e] using h

theorem Does.error (h : Does R w s Q) {f : EngineFault} {t : State} (e : w s = .error f t) : Relation.ReflTransGen R s t := by
  simpa [Does, e] using h

/-- What the closure keeps holds where the work ends too. -/
theorem Does.and_reached (h : Does R w s Q) : Does R w s (fun a t => Q a t ∧ Relation.ReflTransGen R s t) := by
  unfold Does at h ⊢
  cases hw : w s with
  | ok a t =>
    rw [hw] at h
    exact ⟨h.1, h.2, h.1⟩
  | error f t =>
    rw [hw] at h
    exact h

theorem does_ite {c : Prop} [Decidable c] {v w : Work α} (hv : c → Does R v s Q) (hw : ¬ c → Does R w s Q) :
    Does R (if c then v else w) s Q := by
  split
  · exact hv ‹_›
  · exact hw ‹_›

end

/-! ### The changes of state -/

/-- `t` differs from `s` in fields alone that no count, state, table, queue, extent, transfer, flight or byte depends on. -/
def Aside (s t : State) : Prop :=
  t = { s with
    pending := t.pending, xbase := t.xbase, readData := t.readData, stepResult := t.stepResult, ignored := t.ignored,
    resetLow := t.resetLow, tickPending := t.tickPending, idleTotal := t.idleTotal, overloadTotal := t.overloadTotal,
    dropTotal := t.dropTotal, gapTotal := t.gapTotal, notice := t.notice, anchor := t.anchor, intake := t.intake,
    stepDue := t.stepDue, lock := t.lock, bus := t.bus, grants := t.grants, free := t.free, pool := t.pool }

/-- `t` differs from `s` in the four pending report counts alone, each within its limit if it has changed (R175). -/
def Tallied (s t : State) : Prop :=
  t = { s with pendIdle := t.pendIdle, pendOverload := t.pendOverload, pendDropped := t.pendDropped, pendGap := t.pendGap } ∧
  (t.pendIdle = s.pendIdle ∨ t.pendIdle ≤ 255) ∧ (t.pendOverload = s.pendOverload ∨ t.pendOverload ≤ 255) ∧
  (t.pendDropped = s.pendDropped ∨ t.pendDropped ≤ 255) ∧ (t.pendGap = s.pendGap ∨ t.pendGap ≤ 255)

/-- What a unit of the frame may make of a channel's work `v`, the context at the end of stage 1 being `x`: levels stay in range, and h is
kept, or set to H, or lies at or below the h the frame began with (R9, R57). -/
def ChanWork.Onward (x : Channel) (v w : ChanWork) : Prop :=
  (v.LevelsInRange → w.LevelsInRange) ∧ (w.hang = v.hang ∨ w.hang = x.tuning.hang.toNat ∨ w.hang ≤ x.hang)

/-- What a unit past stage 1, or an application within it, may make of the frame `f` in flight. -/
structure Flight.Onward (s : State) (f g : Flight) : Prop where
  count : g.count = f.count
  start : g.start = f.start
  phase : g.phase = f.phase ∨ (f.phase ≠ .apply ∧ g.phase ≠ .apply)
  channel : g.phase.channel = f.phase.channel ∨ g.phase.channel = 0 ∨ g.phase.channel < s.geo.mics
  zeroing : ∀ c k, g.phase = .zeroing c k → (∃ j, f.phase = .zeroing c j) ∨ (s.chan c).state ≠ .off
  work : ∀ c, (f.chanWork c).Onward (f.ctx c) (g.chanWork c)
  applying : f.phase = .apply → g.work = f.work

/-- The change that the application of `e` makes at once; none for the kinds that start a transfer (R33). -/
def Entry.immediate (e : Entry) : Option (State → State × Code × Word) :=
  match e.action with
  | .configure parts => some (fun s => applyConfigure s e.chan parts)
  | .release => some (fun s => applyRelease s e.chan)
  | .reset => some (fun s => applyReset s e.chan)
  | .freeze => some (fun s => applyFreeze s e.chan)
  | .thaw => some (fun s => applyThaw s e.chan)
  | .setWindow w => some (fun s => applySetWindow s e.chan w)
  | .setTuning mask values => some (fun s => applySetTuning s e.chan mask values)
  | .capture _ => none
  | .restore _ => none

/-- One change of state that the work of the part makes without touching T, D, the engine state or whether a frame is in flight. -/
inductive Move : State → State → Prop where
  | aside {s t : State} (h : Aside s t) : Move s t
  | write (s : State) (a : Nat) (bytes : List Byte) : Move s (s.setMem (writeBytes s.mem a bytes))
  | tally {s t : State} (h : Tallied s t) : Move s t
  | gap (s : State) (k : Nat) : Move s (s.countedGap k)
  | push (s : State) (k : Nat) (blocks : List (List Int)) (h : ∀ b ∈ blocks, SampleBlock 128 b) : Move s (s.pushed k blocks)
  | frame (s : State) (f g : Flight) (hf : s.flight = some f) (h : f.Onward s g) : Move s (s.setFlight (some g))
  | entered (s : State) (f : Flight) (hf : s.flight = some f) (hp : f.phase = .apply) :
      Move s (s.setFlight (some (f.entered s)))
  | parity (s : State) (c : Nat) : Move s (s.modChan c Channel.countParity)
  | attenuate (s : State) (f : Flight) (c : Nat) (hf : s.flight = some f) (hp : f.phase ≠ .apply) :
      Move s (s.modChan c (fun ctx => { ctx with
        atten := attenuationAfter (f.ctx c).tuning (s.chan c) (f.chanWork c) s.history.farActive s.history.lx s.geo.tRes }))
  | commit (s : State) (f : Flight) (c : Nat) (hf : s.flight = some f) (hp : f.phase = .commit c) (hc : s.commits f c = true)
      (hd : s.divergesIn f c = false) : Move s (s.commitChan c (s.stageSevenOf f c))
  | diverge (s : State) (f : Flight) (c k : Nat) (hf : s.flight = some f) (hp : f.phase = .zeroing c k) :
      Move s ((s.commitChan c ((s.stageSevenOf f c).diverged f.count)).requeueDiverged c ((s.stageSevenOf f c).diverged f.count))
  | rotate (s : State) (f : Flight) : Move s (s.setQueue (rotateQueue s.queue (s.walk f).granted))
  | takeEnd (s : State) (u : Transfer) (hu : s.transfer = some u) (hr : u.endReady = true) :
      Move s (((s.modChan u.chan (fun ctx => ctx.restored u)).toTail u.chan).setTransfer none)
  | endCapture (s : State) (u : Transfer) (hu : s.transfer = some u) (hd : u.direction = .capture) : Move s (s.endCapture u)
  | dropRestore (s : State) (u : Transfer) (hu : s.transfer = some u) (hd : u.direction = .restore) :
      Move s (s.setTransfer none)
  | abortRestore (s : State) (u : Transfer) (hu : s.transfer = some u) (hd : u.direction = .restore) :
      Move s ((s.resetChannel u.chan).setTransfer none)
  | transfer (s : State) (u v : Transfer) (hu : s.transfer = some u) (hd : v.direction = u.direction) (hc : v.chan = u.chan)
      (he : v.erle = u.erle) (hk : v.coupling = u.coupling) : Move s (s.setTransfer (some v))
  | beginCapture (s : State) (c : Nat) (u : Transfer) (hc : u.chan = c) (hfilters : (s.chan c).state.filters = true)
      (hfree : ∀ v, s.transfer = some v → v.direction = .restore) (hd : u.direction = .capture)
      (he : u.erle = (s.chan c).erle) (hk : u.coupling = (s.chan c).coupling) :
      Move s ((s.modChan c (fun ctx => { ctx with capture := true })).setTransfer (some u))
  | beginRestore (s : State) (c : Nat) (u : Transfer) (hc : u.chan = c) (hfilters : (s.chan c).state.filters = true)
      (hfree : ∀ v, s.transfer = some v → v.direction = .restore) (hd : u.direction = .restore)
      (he : -96 ≤ u.erle ∧ u.erle ≤ 240) (hk : -240 ≤ u.coupling ∧ u.coupling ≤ 48) :
      Move s (((s.modChan c Channel.enterRestoring).dequeue c).setTransfer (some u))
  | unlist (s : State) (e : Entry) : Move s (s.removeEntry e)
  | file (s : State) (r : Record) (d : Word) (action : Action) (hr : r.refusal s d = none) (ha : r.action = some action) :
      Move s (s.setTable (insertEntry (r.entry d action) s.table))
  | apply (s : State) (f : Flight) (e : Entry) (change : State → State × Code × Word) (hf : s.flight = some f)
      (hp : f.phase = .apply) (hw : s.frameWorks = true) (he : e ∈ s.table) (hm : e.chan < s.geo.mics)
      (hfree : endsTransfer s e = true → ∀ u, s.transfer = some u → u.chan ≠ e.chan) (hi : e.immediate = some change) :
      Move s (change (s.removeEntry e)).1

/-- One change of state of the work in RUNNING, STEP_WAIT and DRAINING: a `Move`, a step of T or D, or a frame taken or closed. -/
inductive Turn : State → State → Prop where
  | move {s t : State} (h : Move s t) : Turn s t
  | clock (s : State) (taken done : Word) : Turn s { s with taken := taken, done := done }
  | begin (s : State) (w1 : Word) (byStep : Bool) : Turn s (s.setFlight (some (Flight.begin s w1 byStep)))
  | close (s : State) : Turn s (s.setFlight none)

/-- One change of state of a step: a `Turn`, a change of the engine state, a fault raised, or a clearing. -/
inductive Act : State → State → Prop where
  | turn {s t : State} (h : Turn s t) : Act s t
  | engine (s : State) (v : EngineState) (hf : s.engine ≠ .faulted)
      (hr : v = .halted ∨ 1 ≤ s.geo.refs ∨ s.frameWorks = true) : Act s (s.setEngine v)
  | raise (s : State) (f : EngineFault) : Act s (s.raise f)
  | readFault (s : State) (data : Word) :
      Act s { s with readData := data, faultCode := .none, faultDetail := 0,
                     engine := if s.engine = .faulted then .halted else s.engine }
  | start (s : State) (p : Page) (he : s.engine = .halted) (hp : startFault s p = none) : Act s (s.startWith p)
  | clear (s : State) : Act s s.cleared

/-- Any number of moves. -/
abbrev Moves := Relation.ReflTransGen Move

/-- Any number of turns. -/
abbrev Turns := Relation.ReflTransGen Turn

/-- Any number of acts. -/
abbrev Acts := Relation.ReflTransGen Act

theorem Moves.turns {s t : State} (h : Moves s t) : Turns s t := Relation.ReflTransGen.mono (fun _ _ => Turn.move) _ _ h

theorem Turns.acts {s t : State} (h : Turns s t) : Acts s t := Relation.ReflTransGen.mono (fun _ _ => Act.turn) _ _ h

theorem Does.turns {α : Type} {w : Work α} {s : State} {Q : α → State → Prop} (h : Does Move w s Q) : Does Turn w s Q :=
  h.mono fun _ _ => Turn.move

theorem Does.acts {α : Type} {w : Work α} {s : State} {Q : α → State → Prop} (h : Does Turn w s Q) : Does Act w s Q :=
  h.mono fun _ _ => Act.turn

theorem Moves.one {s t : State} (h : Move s t) : Moves s t := .single h

theorem Moves.aside {s t : State} (h : Aside s t) : Moves s t := .single (.aside h)

theorem Turns.aside {s t : State} (h : Aside s t) : Turns s t := (Moves.aside h).turns

theorem Acts.aside {s t : State} (h : Aside s t) : Acts s t := (Turns.aside h).acts

/-- What every single act keeps is kept by every run of them. -/
theorem Acts.keep {P : State → Prop} (h : ∀ s t, Act s t → P s → P t) {s t : State} (hst : Acts s t) (hs : P s) : P t := by
  induction hst with
  | refl => exact hs
  | tail _ hact ih => exact h _ _ hact ih

end Sys2Proof.Machine
end

section
/-! The moves of the part's work up to the units of the frame, the mover and the intake: each named operation stays within `Move`. -/

namespace Sys2Proof.Machine

/-! ### Contexts -/

/-- Contexts depend on the channel table alone. -/
theorem chan_congr {s t : State} (h : t.channels = s.channels) (c : Nat) : t.chan c = s.chan c := by
  simp [State.chan, h]

section
variable (s : State) (c : Nat)

@[simp] theorem chan_setBus (v : List BusError) : (s.setBus v).chan c = s.chan c := rfl
@[simp] theorem chan_setMem (v : List Host.Cell) : (s.setMem v).chan c = s.chan c := rfl
@[simp] theorem chan_setNotice (v : Bool) : (s.setNotice v).chan c = s.chan c := rfl
@[simp] theorem chan_setFlight (v : Option Flight) : (s.setFlight v).chan c = s.chan c := rfl
@[simp] theorem chan_setTransfer (v : Option Transfer) : (s.setTransfer v).chan c = s.chan c := rfl
@[simp] theorem chan_setTable (v : List Entry) : (s.setTable v).chan c = s.chan c := rfl
@[simp] theorem chan_setQueue (v : List Nat) : (s.setQueue v).chan c = s.chan c := rfl
@[simp] theorem chan_setPool (v : List (Nat × Slot)) : (s.setPool v).chan c = s.chan c := rfl
@[simp] theorem chan_setHistory (v : History) : (s.setHistory v).chan c = s.chan c := rfl
@[simp] theorem chan_setFree (v : Nat) : (s.setFree v).chan c = s.chan c := rfl
@[simp] theorem chan_setEngine (v : EngineState) : (s.setEngine v).chan c = s.chan c := rfl
@[simp] theorem chan_dequeue (d : Nat) : (s.dequeue d).chan c = s.chan c := rfl
@[simp] theorem chan_toHead (d : Nat) : (s.toHead d).chan c = s.chan c := rfl
@[simp] theorem chan_toTail (d : Nat) : (s.toTail d).chan c = s.chan c := rfl
@[simp] theorem chan_releaseExtent (d : Nat) : (s.releaseExtent d).chan c = s.chan c := rfl
@[simp] theorem chan_shrinkExtent (d n : Nat) : (s.shrinkExtent d n).chan c = s.chan c := rfl
@[simp] theorem chan_zeroSlots (b n : Nat) : (s.zeroSlots b n).chan c = s.chan c := rfl
@[simp] theorem chan_setSlot (i : Nat) (v : Slot) : (s.setSlot i v).chan c = s.chan c := rfl

/-- The context of one channel replaced: channels above 15 have none. -/
theorem chan_setChan (d : Nat) (ctx : Channel) : (s.setChan d ctx).chan c = if c = d ∧ d < 16 then ctx else s.chan c := by
  unfold State.chan State.setChan
  by_cases hc : c = d
  · subst hc
    by_cases h : c < 16 <;> simp [h]
  · rw [Vector.getElem?_setIfInBounds_ne (Ne.symm hc)]
    simp [hc]

theorem chan_setChan_same {ctx : Channel} (h : c < 16) : (s.setChan c ctx).chan c = ctx := by
  simp [chan_setChan, h]

theorem chan_setChan_other {d : Nat} {ctx : Channel} (h : c ≠ d) : (s.setChan d ctx).chan c = s.chan c := by
  simp [chan_setChan, h]

theorem chan_modChan (d : Nat) (g : Channel → Channel) :
    (s.modChan d g).chan c = if c = d ∧ d < 16 then g (s.chan c) else s.chan c := by
  rw [State.modChan_eq, chan_setChan]
  by_cases h : c = d
  · simp [h]
  · simp [h]

/-- A number above 15 reads as a channel in OFF. -/
theorem chan_of_le (h : 16 ≤ c) : s.chan c = .off := by
  simp [State.chan, h]

theorem lt_of_state_ne_off (h : (s.chan c).state ≠ .off) : c < 16 := by
  by_contra hc
  exact h (by rw [chan_of_le s c (Nat.not_lt.mp hc)]; rfl)

theorem ctx_of_le (f : Flight) (h : 16 ≤ c) : f.ctx c = .off := by
  simp [Flight.ctx, h]

end

/-! ### What a move leaves unchanged -/

theorem aside_setPool (s : State) (p : List (Nat × Slot)) : Aside s (s.setPool p) := rfl

/-- An application that completes at once changes channels, extents, the pool and the queue alone (R33). -/
theorem immediate_eq {e : Entry} {change : State → State × Code × Word} (h : e.immediate = some change) (s : State) :
    ∃ channels alloc pool queue,
      (change s).1 = { s with channels := channels, alloc := alloc, pool := pool, queue := queue } := by
  unfold Entry.immediate at h
  cases ha : e.action with
  | configure parts =>
    simp only [ha, Option.some.injEq] at h
    subst h
    simp only [applyConfigure, configureOff, configureOn]
    split
    · split
      · exact ⟨_, _, _, _, rfl⟩
      · split <;> exact ⟨_, _, _, _, rfl⟩
    · split_ifs <;> exact ⟨_, _, _, _, rfl⟩
  | release =>
    simp only [ha, Option.some.injEq] at h
    subst h
    simp only [applyRelease]
    split <;> exact ⟨_, _, _, _, rfl⟩
  | reset =>
    simp only [ha, Option.some.injEq] at h
    subst h
    simp only [applyReset]
    split <;> exact ⟨_, _, _, _, rfl⟩
  | freeze =>
    simp only [ha, Option.some.injEq] at h
    subst h
    simp only [applyFreeze, withState]
    split <;> exact ⟨_, _, _, _, rfl⟩
  | thaw =>
    simp only [ha, Option.some.injEq] at h
    subst h
    simp only [applyThaw, withState, State.enqueueThawed]
    split
    · split <;> exact ⟨_, _, _, _, rfl⟩
    all_goals exact ⟨_, _, _, _, rfl⟩
  | setWindow w =>
    simp only [ha, Option.some.injEq] at h
    subst h
    simp only [applySetWindow]
    split <;> exact ⟨_, _, _, _, rfl⟩
  | setTuning mask values =>
    simp only [ha, Option.some.injEq] at h
    subst h
    simp only [applySetTuning]
    split_ifs <;> exact ⟨_, _, _, _, rfl⟩
  | capture index => simp [ha] at h
  | restore index => simp [ha] at h

/-- The queue's update at a committed divergence event changes the queue alone. -/
theorem requeueDiverged_eq (s : State) (c : Nat) (new : Channel) :
    ∃ q, s.requeueDiverged c new = s.setQueue q := by
  unfold State.requeueDiverged
  split <;> exact ⟨_, rfl⟩

theorem resetChannel_fields (s : State) (c : Nat) :
    ∃ channels pool queue, s.resetChannel c = { s with channels := channels, pool := pool, queue := queue } :=
  ⟨_, _, _, rfl⟩

@[simp] theorem resetChannel_transfer (s : State) (c : Nat) : (s.resetChannel c).transfer = s.transfer := by
  simp [State.resetChannel_eq, State.modChan_eq, State.zeroExtent, State.zeroSlots_eq]

/-- A reset touches one context, to which it gives the values of R69. -/
theorem resetChannel_chan (s : State) (c d : Nat) :
    (s.resetChannel c).chan d = if d = c ∧ c < 16 then (s.chan d).resetValues else s.chan d := by
  simp [State.resetChannel_eq, chan_modChan, State.zeroExtent]

theorem countedGap_fields (s : State) (k : Nat) :
    ∃ h n g p, s.countedGap k = { s with history := h, free := n, gapTotal := g, pendGap := p } := by
  by_cases hk : k = 0
  · exact ⟨s.history, s.free, s.gapTotal, s.pendGap, by rw [hk, State.countedGap_zero]⟩
  · exact ⟨_, _, _, _, s.countedGap_eq k hk⟩

theorem pushed_fields (s : State) (k : Nat) (blocks : List (List Int)) :
    ∃ h n g p, s.pushed k blocks = { s with history := h, free := n, gapTotal := g, pendGap := p } := by
  obtain ⟨h, n, g, p, he⟩ := countedGap_fields s k
  rw [State.pushed_eq, he]
  exact ⟨_, _, _, _, rfl⟩

/-- A move keeps the frame counts, the engine state, the geometry and the fault, and whether a frame is in flight and its count. -/
def SameClock (s t : State) : Prop :=
  t.taken = s.taken ∧ t.done = s.done ∧ t.engine = s.engine ∧ t.geo = s.geo ∧ t.faultCode = s.faultCode ∧
  t.faultDetail = s.faultDetail ∧ t.flight.map Flight.count = s.flight.map Flight.count

theorem Move.sameClock {s t : State} (h : Move s t) : SameClock s t := by
  cases h with
  | aside h => rw [h]; exact ⟨rfl, rfl, rfl, rfl, rfl, rfl, rfl⟩
  | tally h => rw [h.1]; exact ⟨rfl, rfl, rfl, rfl, rfl, rfl, rfl⟩
  | gap k =>
    obtain ⟨_, _, _, _, he⟩ := countedGap_fields s k
    simp [he, SameClock]
  | push k blocks =>
    obtain ⟨_, _, _, _, he⟩ := pushed_fields s k blocks
    simp [he, SameClock]
  | frame f g hf h => simp [SameClock, hf, h.count]
  | entered f hf => simp [SameClock, hf, Flight.entered]
  | diverge f c k =>
    obtain ⟨_, he⟩ := requeueDiverged_eq (s.commitChan c ((s.stageSevenOf f c).diverged f.count)) c
      ((s.stageSevenOf f c).diverged f.count)
    rw [he]
    simp [SameClock, State.commitChan_eq]
  | apply f e change hf hp hw he hm hfree hi =>
    obtain ⟨_, _, _, _, heq⟩ := immediate_eq hi (s.removeEntry e)
    rw [heq]
    simp [SameClock, State.removeEntry_eq]
  | abortRestore u =>
    obtain ⟨_, _, _, heq⟩ := resetChannel_fields s u.chan
    simp [heq, SameClock]
  | endCapture u => simp [SameClock, State.endCapture, State.modChan_eq]
  | unlist e => simp [SameClock, State.removeEntry_eq]
  | _ => simp [SameClock, State.modChan_eq, State.commitChan_eq]

theorem Moves.sameClock {s t : State} (h : Moves s t) : SameClock s t := by
  induction h with
  | refl => exact ⟨rfl, rfl, rfl, rfl, rfl, rfl, rfl⟩
  | tail _ hmove ih =>
    obtain ⟨a, b, c, d, e, f, g⟩ := ih
    obtain ⟨a', b', c', d', e', f', g'⟩ := hmove.sameClock
    exact ⟨a'.trans a, b'.trans b, c'.trans c, d'.trans d, e'.trans e, f'.trans f, g'.trans g⟩

theorem frameWorks_congr {s t : State} (h : t.engine = s.engine) : t.frameWorks = s.frameWorks := by
  simp [State.frameWorks, h]

theorem Turn.engine {s t : State} (h : Turn s t) : t.engine = s.engine := by
  cases h with
  | move h => exact h.sameClock.2.2.1
  | _ => rfl

/-- No turn touches the engine state. -/
theorem Turns.engine {s t : State} (h : Turns s t) : t.engine = s.engine := by
  induction h with
  | refl => rfl
  | tail _ hturn ih => exact hturn.engine.trans ih

/-! ### Accesses of shared memory -/

/-- Work that moves, and of the state touches shared memory, the bus and notice-pending alone. -/
def BusWork {α : Type} (w : Work α) : Prop :=
  ∀ s, Does Move w s (fun _ t => BusOnly s t)

section
variable {α β : Type}

theorem busWork_pure (a : α) : BusWork (pure a : Work α) := fun s => does_pure (BusOnly.refl s)

theorem busWork_bind {w : Work α} {g : α → Work β} (hw : BusWork w) (hg : ∀ a, BusWork (g a)) : BusWork (w >>= g) :=
  fun s => does_bind (hw s) fun a t ht => (hg a t).imp fun _ _ hu => ht.trans hu

theorem busWork_getState_bind {g : State → Work β} (hg : ∀ s, BusWork (g s)) : BusWork (getState >>= g) :=
  fun s => does_getState_bind.mpr (hg s s)

theorem busWork_ite {c : Prop} [Decidable c] {v w : Work α} (hv : BusWork v) (hw : BusWork w) :
    BusWork (if c then v else w) := by
  split
  · exact hv
  · exact hw

end

theorem readWord_busWork (a : Nat) : BusWork (readWord a) := by
  intro s
  have hbus := readWord_busOnly a s
  rcases readWord_cases a s with ⟨b, h⟩ | h
  · simp only [leaves, h] at hbus
    simpa only [Does, h] using And.intro (Moves.aside (t := s.setBus b) rfl) hbus
  · simpa only [Does, h] using Relation.ReflTransGen.refl

theorem writeLanes_busWork (a : Nat) (bytes : List Byte) : BusWork (writeLanes a bytes) := by
  intro s
  have hbus := writeLanes_busOnly a bytes s
  rcases writeLanes_cases a bytes s with ⟨b, h⟩ | h
  · simp only [leaves, h] at hbus
    have hmoves : Moves s ((s.setBus b).setMem (writeBytes s.mem a bytes)) :=
      (Moves.aside (t := s.setBus b) rfl).tail (.write (s.setBus b) a bytes)
    simpa only [Does, h] using And.intro hmoves hbus
  · simpa only [Does, h] using Relation.ReflTransGen.refl

theorem writeWord_busWork (a : Nat) (w : Word) : BusWork (writeWord a w) := writeLanes_busWork a _

theorem readWords_busWork (a n : Nat) : BusWork (readWords a n) := by
  induction n generalizing a with
  | zero => exact busWork_pure _
  | succ n ih =>
    exact busWork_bind (readWord_busWork a) fun _ => busWork_bind (ih _) fun _ => busWork_pure _

theorem writeWords_busWork (a : Nat) (ws : List Word) : BusWork (writeWords a ws) := by
  induction ws generalizing a with
  | nil => exact busWork_pure _
  | cons w ws ih => exact busWork_bind (writeWord_busWork a w) fun _ => ih _

theorem noticeIf_busWork (asked : Bool) : BusWork (noticeIf asked) := by
  intro s
  have hbus := noticeIf_busOnly asked s
  simp only [leaves, noticeIf_apply] at hbus
  simpa only [Does, noticeIf_apply] using And.intro (Moves.aside (t := s.setNotice (s.notice || asked)) rfl) hbus

theorem complete_busWork (address : Word) (code : Code) (sequence result : Word) (notify : Bool) :
    BusWork (complete address code sequence result notify) :=
  busWork_bind (writeWord_busWork _ _) fun _ => busWork_bind (writeWord_busWork _ _) fun _ =>
    busWork_bind (writeWord_busWork _ _) fun _ => busWork_bind (writeLanes_busWork _ _) fun _ => noticeIf_busWork _

theorem completeTransfer_busWork (t : Transfer) (code : Code) (result : Word) : BusWork (completeTransfer t code result) :=
  busWork_getState_bind fun _ => complete_busWork _ _ _ _ _

theorem writeTaken_busWork : BusWork writeTaken := busWork_getState_bind fun _ => writeWord_busWork _ _

theorem writeDone_busWork (d : Word) : BusWork (writeDone d) := busWork_getState_bind fun _ => writeWord_busWork _ _

theorem writeIdleTotal_busWork : BusWork writeIdleTotal := busWork_getState_bind fun _ => writeWord_busWork _ _

theorem writeOverloadTotal_busWork : BusWork writeOverloadTotal := busWork_getState_bind fun _ => writeWord_busWork _ _

theorem writeDropTotal_busWork : BusWork writeDropTotal := busWork_getState_bind fun _ => writeWord_busWork _ _

theorem writeGapTotal_busWork : BusWork writeGapTotal := busWork_getState_bind fun _ => writeWord_busWork _ _

theorem writeGapTotalAfter_busWork (k : Nat) : BusWork (writeGapTotalAfter k) :=
  busWork_ite (busWork_pure _) writeGapTotal_busWork

theorem writeStatus_busWork (n : Word) (status : SlotStatus) : BusWork (writeStatus n status) :=
  busWork_getState_bind fun _ => writeLanes_busWork _ _

theorem writeValidity_busWork (a : Word) (v : Validity) : BusWork (writeValidity a v) := writeWord_busWork _ _

theorem readRecord_busWork (a : Word) : BusWork (readRecord a) :=
  busWork_bind (readWords_busWork _ _) fun _ => busWork_pure _

theorem readDirEntry_busWork (index words : Nat) : BusWork (readDirEntry index words) :=
  busWork_getState_bind fun _ => busWork_ite (busWork_bind (readWords_busWork _ _) fun _ => busWork_pure _) (busWork_pure _)

theorem readRefBlocks_busWork (g : Geometry) (seq : Word) (r n : Nat) : BusWork (readRefBlocks g seq r n) := by
  induction n generalizing r with
  | zero => exact busWork_pure _
  | succ n ih => exact busWork_bind (readWords_busWork _ _) fun _ => busWork_bind (ih _) fun _ => busWork_pure _

theorem candidate_busWork : BusWork candidate := by
  refine busWork_getState_bind fun s => ?_
  split
  · exact busWork_pure _
  · exact readWord_busWork _

/-- What work on the bus leaves of the state: all but shared memory, the bus and notice-pending. -/
theorem BusWork.does {α : Type} {w : Work α} (h : BusWork w) (s : State) {Q : α → State → Prop}
    (hq : ∀ a b m n, Q a (((s.setBus b).setMem m).setNotice n)) : Does Move w s Q :=
  (h s).imp fun a _ ⟨b, m, n, e⟩ => e ▸ hq a b m n

/-- Work on the bus, and then more. -/
theorem BusWork.then {α β : Type} {w : Work α} (h : BusWork w) {s : State} {g : α → Work β} {Q : β → State → Prop}
    (hq : ∀ a b m n, Does Move (g a) (((s.setBus b).setMem m).setNotice n) Q) : Does Move (w >>= g) s Q :=
  does_bind (h s) fun a _ ⟨b, m, n, e⟩ => e ▸ hq a b m n

/-! ### The pool -/

theorem does_readSlot (i : Nat) (s : State) : Does Move (readSlot i) s (fun _ t => ∃ p, t = s.setPool p) := by
  rcases readSlot_cases i s with ⟨-, h⟩ | ⟨-, h⟩
  · simpa only [Does, h] using And.intro Relation.ReflTransGen.refl ⟨s.pool, rfl⟩
  · have hmoves : Moves s (s.setSlot i .zero) := Moves.aside (aside_setPool s _)
    simpa only [Does, h] using And.intro hmoves ⟨_, rfl⟩

/-! ### The frame in flight -/

theorem ChanWork.Onward.refl (x : Channel) (w : ChanWork) : w.Onward x w := ⟨id, .inl rfl⟩

theorem chanWork_setWork (f : Flight) (c d : Nat) (w : ChanWork) :
    (f.setWork c w).chanWork d = if d = c ∧ c < 16 then w else f.chanWork d := by
  unfold Flight.chanWork Flight.setWork
  by_cases hd : d = c
  · subst hd
    by_cases hc : d < 16 <;> simp [hc]
  · rw [Vector.getElem?_setIfInBounds_ne (Ne.symm hd)]
    simp [hd]

/-- A unit past stage 1 that keeps every channel's work but one. -/
theorem onward_setWork {s : State} {f g : Flight} {c : Nat} {w : ChanWork} (hc : g.count = f.count) (hs : g.start = f.start)
    (hf : f.phase ≠ .apply) (hg : g.phase ≠ .apply)
    (hchan : g.phase.channel = f.phase.channel ∨ g.phase.channel = 0 ∨ g.phase.channel < s.geo.mics)
    (hz : ∀ c k, g.phase ≠ .zeroing c k) (hwork : g.work = (f.setWork c w).work) (hw : (f.chanWork c).Onward (f.ctx c) w) :
    f.Onward s g where
  count := hc
  start := hs
  phase := .inr ⟨hf, hg⟩
  channel := hchan
  zeroing c k h := absurd h (hz c k)
  work d := by
    have hd : g.chanWork d = (f.setWork c w).chanWork d := by simp [Flight.chanWork, hwork]
    rw [hd, chanWork_setWork]
    split
    · obtain ⟨rfl, -⟩ := ‹d = c ∧ c < 16›
      exact hw
    · exact ChanWork.Onward.refl _ _
  applying h := absurd h hf

/-- A unit past stage 1 that keeps every channel's work. -/
theorem onward_of_work {s : State} {f g : Flight} (hc : g.count = f.count) (hs : g.start = f.start)
    (hf : f.phase ≠ .apply) (hg : g.phase ≠ .apply)
    (hchan : g.phase.channel = f.phase.channel ∨ g.phase.channel = 0 ∨ g.phase.channel < s.geo.mics)
    (hz : ∀ c k, g.phase = .zeroing c k → (∃ j, f.phase = .zeroing c j) ∨ (s.chan c).state ≠ .off) (hwork : g.work = f.work) :
    f.Onward s g where
  count := hc
  start := hs
  phase := .inr ⟨hf, hg⟩
  channel := hchan
  zeroing := hz
  work d := by
    have hd : g.chanWork d = f.chanWork d := by simp [Flight.chanWork, hwork]
    rw [hd]
    exact ChanWork.Onward.refl _ _
  applying h := absurd h hf

/-- A frame that stays at its unit and keeps every channel's work. -/
theorem onward_of_phase {s : State} {f g : Flight} (hc : g.count = f.count) (hs : g.start = f.start) (hp : g.phase = f.phase)
    (hwork : g.work = f.work) : f.Onward s g where
  count := hc
  start := hs
  phase := .inl hp
  channel := .inl (by rw [hp])
  zeroing c k h := .inl ⟨k, hp ▸ h⟩
  work d := by
    have hd : g.chanWork d = f.chanWork d := by simp [Flight.chanWork, hwork]
    rw [hd]
    exact ChanWork.Onward.refl _ _
  applying _ := hwork

/-- The channel of the unit after a stage's channel is one below M. -/
theorem afterChannel_channel (c mics : Nat) (stage : Nat → Phase) (next : Phase) (hs : ∀ d, (stage d).channel = d)
    (hn : next.channel = 0) : (afterChannel c mics stage next).channel = 0 ∨ (afterChannel c mics stage next).channel < mics := by
  unfold afterChannel
  split
  · exact .inr (by rwa [hs])
  · exact .inl hn

/-- The unit after a stage's channel is one of that stage or the next stage. -/
theorem afterChannel_cases (c mics : Nat) (stage : Nat → Phase) (next : Phase) {P : Phase → Prop} (hs : P (stage (c + 1)))
    (hn : P next) : P (afterChannel c mics stage next) := by
  unfold afterChannel
  split
  · exact hs
  · exact hn

theorem does_setFlight {s : State} {f g : Flight} {Q : Unit → State → Prop} (hf : s.flight = some f) (h : f.Onward s g)
    (hq : Q () (s.setFlight (some g))) : Does Move (setFlight g) s Q :=
  does_update (.single (.frame s f g hf h)) hq

theorem noteFailedCapture_moves (s : State) (c : Nat) : Moves s (s.noteFailedCapture c) := by
  unfold State.noteFailedCapture
  cases hf : s.flight with
  | none => exact .single (.aside (by cases s; subst hf; rfl))
  | some f => exact .single (.frame s f _ hf (onward_of_phase rfl rfl rfl rfl))

end Sys2Proof.Machine
end

section
/-! The units of the mover, of stage 1 and of the frame in flight, each within `Move`. -/

namespace Sys2Proof.Machine

/-! ### Ending a transfer (R161 to R166) -/

/-- An early end of a capture leaves no transfer, and the frame in flight and the table as they were. -/
theorem does_endCaptureEarly (s : State) (u : Transfer) (code : Code) (result : Word) (hu : s.transfer = some u)
    (hd : u.direction = .capture) :
    Does Move (endCaptureEarly u code result) s
      (fun _ t => t.transfer = none ∧ t.flight = s.flight ∧ t.table = s.table) :=
  does_update_bind (.single (.endCapture s u hu hd)) <|
    (writeValidity_busWork _ _).then fun _ _ _ _ => (completeTransfer_busWork _ _ _).does _ fun _ _ _ _ => by
      simp [State.endCapture, State.modChan_eq]

/-- A capture that a parity failure ends is noted in the frame in flight (R93). -/
theorem does_endCaptureFailed (s : State) (u : Transfer) (j : Nat) (hu : s.transfer = some u)
    (hd : u.direction = .capture) :
    Does Move (endCaptureFailed u j) s (fun _ t => t.flight = (s.noteFailedCapture u.chan).flight) :=
  does_update_bind (noteFailedCapture_moves s u.chan) <|
    (does_endCaptureEarly _ u _ _ (by simpa [noteFailedCapture_eq] using hu) hd).imp fun _ _ h => h.2.1

theorem does_endByApplication (s : State) (u : Transfer) (hu : s.transfer = some u) :
    Does Move (endByApplication u) s (fun _ t => t.transfer = none ∧ t.flight = s.flight ∧ t.table = s.table) := by
  unfold endByApplication
  cases hd : u.direction with
  | capture => exact does_endCaptureEarly s u _ _ hu hd
  | restore =>
    exact does_update_bind (.single (.dropRestore s u hu hd)) <|
      (completeTransfer_busWork _ _ _).does _ fun _ _ _ _ => by simp

theorem does_endByAbort (s : State) (u : Transfer) (hu : s.transfer = some u) :
    Does Move (endByAbort u) s (fun _ _ => True) := by
  unfold endByAbort
  cases hd : u.direction with
  | capture => exact (does_endCaptureEarly s u _ _ hu hd).imp fun _ _ _ => trivial
  | restore =>
    exact does_update_bind (.single (.abortRestore s u hu hd)) <|
      (completeTransfer_busWork _ _ _).does _ fun _ _ _ _ => trivial

theorem does_takeReadyEnd (s : State) : Does Move takeReadyEnd s (fun _ t => t.flight = s.flight) := by
  unfold takeReadyEnd
  rw [does_getState_bind]
  cases hu : s.transfer with
  | none => exact does_pure rfl
  | some u =>
    refine does_ite (fun hr => ?_) (fun _ => does_pure rfl)
    exact does_update_bind (.single (.takeEnd s u hu hr)) <|
      (completeTransfer_busWork _ _ _).does _ fun _ _ _ _ => by simp [State.modChan_eq]

/-! ### The mover (R156, R158, R160) -/

theorem access_capture {u : Transfer} {a : MoverAccess} (h : u.access = some a) (ha : a = .captureRead ∨ a = .validWrite) :
    u.direction = .capture := by
  unfold Transfer.access at h
  cases hd : u.direction with
  | capture => rfl
  | restore =>
    simp only [hd] at h
    rcases ha with rfl | rfl <;> split_ifs at h <;> cases h

theorem does_setTransfer {s : State} {u v : Transfer} (hu : s.transfer = some u) (hd : v.direction = u.direction)
    (hc : v.chan = u.chan) (he : v.erle = u.erle) (hk : v.coupling = u.coupling) :
    Does Move (update fun s => s.setTransfer (some v)) s (fun _ _ => True) :=
  does_update (.single (.transfer s u v hu hd hc he hk)) trivial

theorem does_captureRead (s : State) (u : Transfer) (hu : s.transfer = some u) (hd : u.direction = .capture) :
    Does Move (captureRead u) s (fun _ _ => True) := by
  unfold captureRead
  rw [does_getState_bind]
  refine does_bind (does_readSlot _ s) ?_
  rintro r _ ⟨p, rfl⟩
  refine does_ite (fun _ => ?_) (fun _ => does_setTransfer hu rfl rfl rfl rfl)
  exact does_update_bind (.single (.parity _ u.chan))
    ((does_endCaptureFailed _ u _ (by simpa [State.modChan_eq] using hu) hd).imp fun _ _ _ => trivial)

theorem does_captureMovedWrite (s : State) (u : Transfer) (hu : s.transfer = some u) :
    Does Move (captureMovedWrite u) s (fun _ _ => True) := by
  refine does_bind (Q := fun _ t => t.transfer = some u) ?_ (fun _ t ht => does_setTransfer ht rfl rfl rfl rfl)
  unfold Does
  rw [onFault_apply]
  rcases writeWord_cases (u.slotAddr.toNat + 0x10) (BitVec.ofNat 32 (u.progress + u.segment)) s with ⟨b, h⟩ | h
  · have hdoes := writeWord_busWork (u.slotAddr.toNat + 0x10) (BitVec.ofNat 32 (u.progress + u.segment)) s
    simpa only [h] using And.intro (hdoes.ok h).1 (show ((s.setBus b).setMem _).transfer = some u from hu)
  · simpa only [h] using Relation.ReflTransGen.single (Move.transfer s u { u with moveDue := true } hu rfl rfl rfl rfl)

theorem does_moverUnit (s : State) (u : Transfer) (a : MoverAccess) (hu : s.transfer = some u) (ha : u.access = some a) :
    Does Move (moverUnit u a) s (fun _ _ => True) := by
  cases a with
  | captureRead => exact does_captureRead s u hu (access_capture ha (.inl rfl))
  | dataWrite => exact (writeWords_busWork _ _).then fun _ _ _ _ => does_setTransfer hu rfl rfl rfl rfl
  | movedWrite => exact does_captureMovedWrite s u hu
  | validWrite =>
    exact (writeValidity_busWork _ _).then fun _ b m n =>
      does_update_bind (.single (.endCapture _ u hu (access_capture ha (.inr rfl))))
        ((completeTransfer_busWork _ _ _).does _ fun _ _ _ _ => trivial)
  | dataRead => exact (readWords_busWork _ _).then fun _ _ _ _ => does_setTransfer hu rfl rfl rfl rfl
  | restoreWrite =>
    refine does_update ?_ trivial
    refine Relation.ReflTransGen.tail (Moves.aside (aside_setPool s _)) (.transfer (s.setPool _) u _ hu ?_ ?_ ?_ ?_) <;>
      split <;> rfl

theorem does_runSegment (n : Nat) (s : State) : Does Move (runSegment n) s (fun _ _ => True) := by
  induction n generalizing s with
  | zero => exact does_pure trivial
  | succ n ih =>
    unfold runSegment
    rw [does_getState_bind]
    cases hu : s.transfer with
    | none => exact does_pure trivial
    | some u =>
      cases ha : u.access with
      | none => simpa only [ha] using does_pure trivial
      | some a =>
        simp only [ha]
        refine does_ite (Q := fun _ _ => True) (fun _ => does_pure trivial) fun _ => ?_
        refine does_bind (does_moverUnit s u a hu ha) fun _ t _ => ?_
        rw [does_getState_bind]
        exact does_ite (Q := fun _ _ => True) (fun _ => ih t) (fun _ => does_pure trivial)

/-! ### Applications of stage 1 (R32 to R35) -/

/-- The effect of an entry that completes at application, its channel below M. -/
theorem applyAction_immediate {seq : Word} {e : Entry} {change : State → State × Code × Word} {s : State}
    (hm : e.chan < s.geo.mics) (hi : e.immediate = some change) :
    applyAction seq e s = .ok (some (change s).2) (change s).1 := by
  unfold Entry.immediate at hi
  cases ha : e.action with
  | capture index => simp [ha] at hi
  | restore index => simp [ha] at hi
  | _ =>
    simp only [ha, Option.some.injEq] at hi
    simp [applyAction, applyNow, ha, Nat.not_le.mpr hm, hi]

/-- An entry whose channel is M or above is refused and changes nothing (R144). -/
theorem applyAction_refused {seq : Word} {e : Entry} {s : State} (hm : s.geo.mics ≤ e.chan) :
    applyAction seq e s = .ok (some (.badChannel, BitVec.ofNat 32 e.chan)) s := by
  simp [applyAction, hm]

/-- The state that ends no transfer of another channel's, and lets none stand that the application ends (R103, R162). -/
theorem does_endTransferFor (s : State) (e : Entry) :
    Does Move (endTransferFor e) s (fun _ t => t.flight = s.flight ∧ t.table = s.table ∧
      (endsTransfer t e = true → ∀ u, t.transfer = some u → u.chan ≠ e.chan)) := by
  unfold endTransferFor
  rw [does_getState_bind]
  cases hu : s.transfer with
  | none => exact does_pure ⟨rfl, rfl, fun _ u h => by simp [hu] at h⟩
  | some u =>
    refine does_ite (fun _ => ?_) (fun hc => does_pure ⟨rfl, rfl, fun he v hv hvc => ?_⟩)
    · exact (does_endByApplication s u hu).imp fun _ t ⟨hnone, hflight, htable⟩ =>
        ⟨hflight, htable, fun _ v hv => by simp [hnone] at hv⟩
    · obtain rfl : u = v := Option.some.inj (hu.symm.trans hv)
      exact hc ⟨hvc, he⟩

theorem captureRefusal_none {s : State} {c index : Nat} {d : DirEntry} (h : captureRefusal s c index d = none) :
    (s.chan c).state.filters = true ∧ ∀ v, s.transfer = some v → v.direction = .restore := by
  cases hv : s.transfer with
  | none =>
    simp only [captureRefusal, State.busyTransfer, stateRefusal, hv] at h
    split_ifs at h
    exact ⟨by assumption, by simp⟩
  | some v =>
    simp only [captureRefusal, State.busyTransfer, stateRefusal, hv] at h
    split_ifs at h
    exact ⟨by assumption, fun w hw => Option.some.inj hw ▸ (‹v.direction = .restore ∧ v.chan = c› : _ ∧ _).1⟩

theorem restoreRefusal_none {s : State} {c : Nat} (h : restoreRefusal s c = none) :
    (s.chan c).state.filters = true ∧ ∀ v, s.transfer = some v → v.direction = .restore := by
  cases hv : s.transfer with
  | none =>
    simp only [restoreRefusal, State.busyTransfer, stateRefusal, hv] at h
    split_ifs at h
    exact ⟨by assumption, by simp⟩
  | some v =>
    simp only [restoreRefusal, State.busyTransfer, stateRefusal, hv] at h
    split_ifs at h
    exact ⟨by assumption, fun w hw => Option.some.inj hw ▸ (‹v.direction = .restore ∧ v.chan = c› : _ ∧ _).1⟩

theorem does_applyCapture (s : State) (seq : Word) (e : Entry) (index : Nat) :
    Does Move (applyCapture seq e index) s (fun _ t => t.flight = s.flight) := by
  refine (readDirEntry_busWork _ _).then fun entry b m n => ?_
  cases entry with
  | none => exact does_pure (by simp)
  | some d =>
    simp only [does_getState_bind]
    cases hr : captureRefusal (((s.setBus b).setMem m).setNotice n) e.chan index d with
    | some r => exact does_pure (by simp)
    | none =>
      obtain ⟨hfilters, hfree⟩ := captureRefusal_none hr
      refine (writeWords_busWork _ _).then fun _ b' m' n' => does_update_bind ?_ (does_pure (by simp [State.modChan_eq]))
      exact .single (.beginCapture _ e.chan _ rfl (by simpa using hfilters) (by simpa using hfree) rfl (by simp) (by simp))

theorem clamp_range {lo hi : Int} (h : lo ≤ hi) (v : Int) : lo ≤ clamp v lo hi ∧ clamp v lo hi ≤ hi := by
  unfold clamp
  split_ifs <;> omega

theorem does_applyRestore (s : State) (e : Entry) (index : Nat) :
    Does Move (applyRestore e index) s (fun _ t => t.flight = s.flight) := by
  refine (readDirEntry_busWork _ _).then fun entry b m n => ?_
  cases entry with
  | none => exact does_pure (by simp)
  | some d =>
    simp only [does_getState_bind]
    cases hr : restoreRefusal (((s.setBus b).setMem m).setNotice n) e.chan with
    | some r => exact does_pure (by simp)
    | none =>
      obtain ⟨hfilters, hfree⟩ := restoreRefusal_none hr
      refine (readWords_busWork _ _).then fun ws b' m' n' => ?_
      split
      · exact does_pure (by simp)
      · refine does_update_bind ?_ (does_pure (by simp [State.modChan_eq]))
        refine .single (.beginRestore _ e.chan _ rfl (by simpa using hfilters) (by simpa using hfree) rfl ?_ ?_)
        · exact clamp_range (by decide) _
        · exact clamp_range (by decide) _

/-- What an application does once its channel's transfer, if it ends one, has ended: the frame in flight stays (R33). -/
theorem does_application (s : State) (f : Flight) (e : Entry) (hf : s.flight = some f) (hp : f.phase = .apply)
    (hw : s.frameWorks = true) (he : e ∈ s.table)
    (hfree : e.chan < s.geo.mics → endsTransfer s e = true → ∀ u, s.transfer = some u → u.chan ≠ e.chan) :
    Does Move (do
      update fun s => s.removeEntry e
      let outcome ← applyAction f.count e
      match outcome with
      | some r => complete e.addr (lateCode e.late r.1) f.count r.2 e.notify
      | none => pure ()) s (fun _ t => t.flight = s.flight) := by
  have hcomplete : ∀ (outcome : Option (Code × Word)) (t : State), Does Move (match outcome with
      | some r => complete e.addr (lateCode e.late r.1) f.count r.2 e.notify
      | none => pure ()) t (fun _ u => u.flight = t.flight) := by
    intro outcome t
    cases outcome with
    | none => exact does_pure rfl
    | some r => exact (complete_busWork _ _ _ _ _).does _ fun _ _ _ _ => by simp
  have hflight : (s.removeEntry e).flight = s.flight := by simp [State.removeEntry_eq]
  by_cases hm : e.chan < s.geo.mics
  · cases hi : e.immediate with
    | some change =>
      have hmove : Move s (change (s.removeEntry e)).1 := .apply s f e change hf hp hw he hm (hfree hm) hi
      have hchange : (change (s.removeEntry e)).1.flight = s.flight := by
        obtain ⟨_, _, _, _, heq⟩ := immediate_eq hi (s.removeEntry e)
        rw [heq]
        exact hflight
      have happly := applyAction_immediate (seq := f.count) (s := s.removeEntry e) hm hi
      exact does_update_apply_bind happly (.single hmove) ((hcomplete (some _) _).imp fun _ _ h => h.trans hchange)
    | none =>
      refine does_update_bind (.single (.unlist s e)) ?_
      have haction : Does Move (applyAction f.count e) (s.removeEntry e) (fun _ u => u.flight = s.flight) := by
        unfold applyAction
        rw [does_getState_bind]
        refine does_ite (fun _ => does_pure hflight) fun _ => ?_
        unfold Entry.immediate at hi
        cases ha : e.action with
        | capture index => exact (does_applyCapture _ _ _ _).imp fun _ _ h => h.trans hflight
        | restore index => exact (does_applyRestore _ _ _).imp fun _ _ h => h.trans hflight
        | _ => simp [ha] at hi
      exact does_bind haction fun outcome u hu => (hcomplete outcome u).imp fun _ _ h => h.trans hu
  · refine does_update_bind (.single (.unlist s e)) ?_
    have haction : Does Move (applyAction f.count e) (s.removeEntry e) (fun _ u => u.flight = s.flight) := by
      have hrefused := applyAction_refused (seq := f.count) (e := e) (s := s.removeEntry e) (Nat.not_lt.mp hm)
      simpa only [Does, hrefused] using And.intro Relation.ReflTransGen.refl hflight
    exact does_bind haction fun outcome u hu => (hcomplete outcome u).imp fun _ _ h => h.trans hu

/-- One application, whole: the frame in flight stays (R32, R33). -/
theorem does_applyEntry (s : State) (f : Flight) (e : Entry) (hf : s.flight = some f) (hp : f.phase = .apply)
    (hw : s.frameWorks = true) (he : e ∈ s.table) : Does Move (applyEntry f.count e) s (fun _ t => t.flight = s.flight) := by
  unfold applyEntry
  rw [does_getState_bind]
  refine does_ite (fun hm => ?_) (fun hm => does_application s f e hf hp hw he (fun h => absurd h hm))
  refine does_bind (does_endTransferFor s e).and_reached fun _ t ⟨⟨hflight, htable, hfree⟩, hmoves⟩ => ?_
  obtain ⟨-, -, hengine, -⟩ := Moves.sameClock hmoves
  exact (does_application t f e (hflight.trans hf) hp ((frameWorks_congr hengine).trans hw) (htable ▸ he)
    (fun _ => hfree)).imp fun _ _ h => h.trans hflight

end Sys2Proof.Machine
end

section
/-! The units of the frame in flight and of the intake, each within `Move`. -/

namespace Sys2Proof.Machine

/-! ### Samples and levels -/

theorem level_inRange (block : List Int) : LevelInRange (level block) := levelOfEnergy_range _

theorem levelInRange_lowest : LevelInRange (-480) := ⟨le_rfl, by norm_num⟩

theorem sampleOf_range (w : Word) : -8388608 ≤ sampleOf w ∧ sampleOf w ≤ 8388607 := clamp_range (by decide) _

theorem sampleBlock_sampleOf {ws : List Word} {n : Nat} (h : ws.length = n) : SampleBlock n (ws.map sampleOf) := by
  refine ⟨by simpa using h, fun v hv => ?_⟩
  obtain ⟨w, -, rfl⟩ := List.mem_map.mp hv
  exact sampleOf_range w

theorem readWords_length {a n : Nat} {s t : State} {ws : List Word} (h : readWords a n s = .ok ws t) : ws.length = n := by
  rcases readWords_cases a n s with ⟨b, h'⟩ | ⟨b, k, h'⟩
  · obtain ⟨rfl, -⟩ : memWords s.mem a n = ws ∧ s.setBus b = t := by simpa [h'] using h
    exact memWords_length _ _ _
  · simp [h'] at h

/-- The blocks of the references are read on the bus, each of 128 words (R174). -/
theorem does_readRefBlocks (g : Geometry) (seq : Word) (r n : Nat) (s : State) :
    Does Move (readRefBlocks g seq r n) s (fun blocks t => BusOnly s t ∧ ∀ ws ∈ blocks, ws.length = 128) := by
  induction n generalizing r s with
  | zero => exact does_pure ⟨BusOnly.refl s, by simp⟩
  | succ n ih =>
    have hread : Does Move (readWords (g.refBlock seq r) Config.blockLength) s
        (fun ws t => BusOnly s t ∧ ws.length = 128) := by
      have h := readWords_busWork (g.refBlock seq r) Config.blockLength s
      unfold Does at h ⊢
      split at h
      · exact ⟨h.1, h.2, readWords_length ‹_›⟩
      · exact h
    refine does_bind hread fun ws t ⟨hst, hlen⟩ => ?_
    refine does_bind (ih (r + 1) t) fun rest u ⟨htu, hrest⟩ => does_pure ⟨hst.trans htu, ?_⟩
    simpa using ⟨hlen, hrest⟩

/-! ### Stages 1 to 4 -/

theorem does_applyUnit (s : State) (f : Flight) (hf : s.flight = some f) (hp : f.phase = .apply) (hw : s.frameWorks = true) :
    Does Move (applyUnit f) s (fun _ _ => True) := by
  unfold applyUnit
  rw [does_getState_bind]
  cases he : s.dueEntry f.count with
  | none => exact does_update (.single (.entered s f hf hp)) trivial
  | some e =>
    refine does_bind (does_applyEntry s f e hf hp hw (List.mem_of_find?_eq_some he)) fun _ t ht => ?_
    exact does_setFlight (ht.trans hf) (onward_of_phase rfl rfl rfl rfl) trivial

theorem does_pushUnit (s : State) (f : Flight) (hf : s.flight = some f) (hp : f.phase = .push) :
    Does Move (pushUnit f) s (fun _ _ => True) := by
  unfold pushUnit
  rw [does_getState_bind]
  refine does_bind (does_readRefBlocks _ _ _ _ s) ?_
  rintro blocks _ ⟨⟨b, m, n, rfl⟩, hlen⟩
  refine does_update_bind (.single (.push _ _ _ ?_)) ?_
  · intro block hblock
    obtain ⟨ws, hws, rfl⟩ := List.mem_map.mp hblock
    exact sampleBlock_sampleOf (hlen ws hws)
  · refine (writeGapTotalAfter_busWork _).then fun _ b' m' n' => ?_
    obtain ⟨_, _, _, _, heq⟩ := pushed_fields (((s.setBus b).setMem m).setNotice n) f.gap
      (blocks.map (fun ws => ws.map sampleOf))
    refine does_setFlight (f := f) (by rw [heq]; simpa using hf)
      (onward_of_work rfl rfl (by simp [hp]) (by simp) (.inr (.inl rfl)) (by simp) rfl) trivial

theorem workWithout_levels (off : Bool) (mic : List Int) (clipped : Bool) : (workWithout off mic clipped).LevelsInRange := by
  refine ⟨level_inRange mic, levelInRange_lowest, ?_, levelInRange_lowest⟩
  unfold workWithout
  split
  · exact levelInRange_lowest
  · exact level_inRange mic

theorem workWith_levels (mic : List Int) (clipped : Bool) (y : List Int) (parity : Bool) :
    (workWith mic clipped y parity).LevelsInRange :=
  ⟨level_inRange _, level_inRange _, level_inRange _, levelInRange_lowest⟩

theorem does_estimateUnit (s : State) (f : Flight) (c : Nat) (hf : s.flight = some f) (hp : f.phase = .estimate c) :
    Does Move (estimateUnit f c) s (fun _ _ => True) := by
  unfold estimateUnit
  rw [does_getState_bind]
  refine (readWords_busWork _ _).then fun words b m n => ?_
  have hwork : (f.chanWork c).Onward (f.ctx c)
      (workWithout (decide ((f.ctx c).state = .off)) (words.map sampleOf) (words.any clampsWord)) :=
    ⟨fun _ => workWithout_levels _ _ _, .inr (.inr (Nat.zero_le _))⟩
  refine does_ite (fun _ => ?_) (fun _ => ?_)
  · exact does_setFlight (f := f) (by simpa using hf)
      (onward_setWork rfl rfl (by simp [hp]) (by simp) (.inl (by simp [hp, Phase.channel])) (by simp) rfl hwork) trivial
  · refine does_setFlight (f := f) (by simpa using hf)
      (onward_setWork rfl rfl (by simp [hp]) ?_ (.inr ?_) ?_ rfl hwork) trivial
    · exact afterChannel_cases (P := fun p => p ≠ .apply) _ _ _ _ (by simp) (by simp)
    · simpa using afterChannel_channel c s.geo.mics .estimate .decide (fun _ => rfl) rfl
    · exact afterChannel_cases (P := fun p => ∀ c k, p ≠ .zeroing c k) _ _ _ _ (by simp) (by simp)

theorem noteFailedCapture_phase (s : State) (c : Nat) :
    (s.noteFailedCapture c).flight.map Flight.phase = s.flight.map Flight.phase := by
  cases hf : s.flight <;> simp [noteFailedCapture_eq, hf]

theorem does_engineFoundParity (c j : Nat) (s : State) :
    Does Move (engineFoundParity c j) s (fun _ t => t.flight.map Flight.phase = s.flight.map Flight.phase) := by
  refine does_update_bind (.single (.parity s c)) ?_
  rw [does_getState_bind]
  cases hu : (s.modChan c Channel.countParity).transfer with
  | none => exact does_pure (by simp [State.modChan_eq])
  | some u =>
    refine does_ite (fun h => ?_) (fun _ => does_pure (by simp [State.modChan_eq]))
    refine (does_endCaptureFailed _ u j hu h.2.1).imp fun _ t ht => ?_
    rw [ht, noteFailedCapture_phase]
    simp [State.modChan_eq]

theorem does_filterRead (s : State) (f : Flight) (c left : Nat) (hf : s.flight = some f) (hp : f.phase = .filter c) :
    Does Move (filterRead f c left) s (fun _ _ => True) := by
  have hlast : ∀ (r : List Word × Bool) (t : State), t.flight.map Flight.phase = s.flight.map Flight.phase →
      Does Move (update fun t => t.setFlight (t.flight.map fun g =>
        g.afterRead c r (f.asksAfterRead c s.geo.mics left))) t (fun _ _ => True) := by
    intro r t ht
    refine does_update ?_ trivial
    rw [hf] at ht
    cases hg : t.flight with
    | none => simp [hg] at ht
    | some g =>
      have hgp : g.phase = .filter c := by simpa [hg, hp] using ht
      exact .single (.frame t g _ hg (onward_setWork rfl rfl (by simp [hgp]) (by simp [Flight.afterRead, Flight.setWork, hgp])
        (.inl rfl) (by simp [Flight.afterRead, Flight.setWork, hgp]) rfl ⟨fun h => h, .inl rfl⟩))
  unfold filterRead
  rw [does_getState_bind]
  refine does_bind (does_readSlot _ s) ?_
  rintro r _ ⟨p, rfl⟩
  refine does_ite (fun _ => ?_) (fun _ => hlast r _ (by simp))
  exact does_bind (does_engineFoundParity c _ _) fun _ t ht => hlast r t (by simpa using ht)

theorem does_freshUse (s : State) : Does Move freshUse s (fun _ t => t = s.setFree (s.free + 1)) :=
  ⟨Moves.aside rfl, rfl⟩

theorem does_formEstimate (s : State) (f : Flight) (c : Nat) (hf : s.flight = some f) (hp : f.phase = .filter c) :
    Does Move (formEstimate f c) s (fun _ _ => True) := by
  unfold formEstimate
  rw [does_getState_bind]
  refine does_bind (does_freshUse s) ?_
  rintro n _ rfl
  refine does_setFlight (f := f) (by simpa using hf) (onward_setWork rfl rfl (by simp [hp]) ?_ (.inr ?_) ?_ rfl
    ⟨fun _ => workWith_levels _ _ _ _, .inr (.inr (Nat.zero_le _))⟩) trivial
  · exact afterChannel_cases (P := fun p => p ≠ .apply) _ _ _ _ (by simp) (by simp)
  · simpa using afterChannel_channel c s.geo.mics .estimate .decide (fun _ => rfl) rfl
  · exact afterChannel_cases (P := fun p => ∀ c k, p ≠ .zeroing c k) _ _ _ _ (by simp) (by simp)

theorem does_filterUnit (s : State) (f : Flight) (c : Nat) (hf : s.flight = some f) (hp : f.phase = .filter c) :
    Does Move (filterUnit f c) s (fun _ _ => True) := by
  unfold filterUnit
  rw [does_getState_bind]
  exact does_ite (fun _ => does_formEstimate s f c hf hp) (fun _ => does_filterRead s f c _ hf hp)

/-- The work of every channel, changed by its number. -/
theorem chanWork_mapFinIdx (f : Flight) (g : Nat → ChanWork → ChanWork) (c : Nat) :
    { f with work := f.work.mapFinIdx (fun c w _ => g c w) }.chanWork c = if c < 16 then g c (f.chanWork c) else .none := by
  unfold Flight.chanWork
  by_cases hc : c < 16 <;> simp [hc]

theorem onward_decideChannel (x : Channel) (far : Bool) (lx : Int) (w : ChanWork) : w.Onward x (decideChannel x far lx w) := by
  unfold decideChannel
  split
  · exact ChanWork.Onward.refl x w
  · refine ⟨fun h => h, ?_⟩
    dsimp only [hangoverAfter]
    split
    · exact .inr (.inl rfl)
    · exact .inr (.inr (Nat.sub_le _ _))

/-- A unit past stage 1 that changes every channel's work, by its number. -/
theorem onward_mapFinIdx {s : State} {f g : Flight} (step : Nat → ChanWork → ChanWork) (hc : g.count = f.count)
    (hs : g.start = f.start) (hf : f.phase ≠ .apply) (hg : g.phase ≠ .apply) (hchan : g.phase.channel = 0)
    (hz : ∀ c k, g.phase ≠ .zeroing c k) (hwork : g.work = f.work.mapFinIdx (fun c w _ => step c w))
    (hw : ∀ c, (f.chanWork c).Onward (f.ctx c) (step c (f.chanWork c))) : f.Onward s g where
  count := hc
  start := hs
  phase := .inr ⟨hf, hg⟩
  channel := .inr (.inl hchan)
  zeroing c k h := absurd h (hz c k)
  work c := by
    have hgc : g.chanWork c = if c < 16 then step c (f.chanWork c) else .none := by
      rw [← chanWork_mapFinIdx]
      simp [Flight.chanWork, hwork]
    rw [hgc]
    split
    · exact hw c
    · exact ⟨fun _ => ⟨levelInRange_lowest, levelInRange_lowest, levelInRange_lowest, levelInRange_lowest⟩,
        .inr (.inr (Nat.zero_le _))⟩
  applying h := absurd h hf

/-! ### Stages 5 to 8 -/

theorem does_walkUnit (s : State) (f : Flight) (hf : s.flight = some f) (hp : f.phase = .walk) :
    Does Move (walkUnit f) s (fun _ _ => True) := by
  refine does_update (Relation.ReflTransGen.tail (.single (.rotate s f)) (.frame _ f _ (by simpa using hf) ?_)) trivial
  exact onward_mapFinIdx (fun c w => { w with granted := (s.walk f).granted.contains c, deferred := (s.walk f).deferred.contains c })
    rfl rfl (by simp [hp]) (by simp [Flight.walked]) rfl (by simp [Flight.walked]) rfl (fun c => ⟨fun h => h, .inl rfl⟩)

theorem does_adaptSlot (s : State) (ctx : Channel) (err : List Int) (c j : Nat) :
    Does Move (adaptSlot ctx err c j) s (fun _ t => t.flight = s.flight) := by
  unfold adaptSlot
  rw [does_getState_bind]
  have hlast : ∀ (r : List Word × Bool) (t : State), t.flight = s.flight → Does Move (do
      let n ← freshUse
      update fun t => t.writeSlot ((s.extent c).base + j)
        (updatedParts n (stepSize ctx) s.history.power (s.history.paired s.geo.refs j) err r.1)
      pure r.2) t (fun _ t => t.flight = s.flight) := by
    intro r t ht
    refine does_bind (does_freshUse t) ?_
    rintro n _ rfl
    exact does_update_bind (Moves.aside (aside_setPool _ _)) (does_pure (by simpa [State.writeSlot_eq] using ht))
  refine does_bind (does_readSlot _ s) ?_
  rintro r _ ⟨p, rfl⟩
  refine does_ite (fun _ => ?_) (fun _ => hlast r _ (by simp))
  exact does_update_bind (.single (.parity _ c)) (hlast r _ (by simp [State.modChan_eq]))

theorem does_adaptUnit (s : State) (f : Flight) (todo : List (Nat × Nat)) (hf : s.flight = some f)
    (hp : f.phase = .adapt todo) : Does Move (adaptUnit f todo) s (fun _ _ => True) := by
  cases todo with
  | nil =>
    exact does_setFlight hf (onward_of_work rfl rfl (by simp [hp]) (by simp [Flight.at]) (.inr (.inl rfl))
      (by simp [Flight.at]) rfl) trivial
  | cons cj rest =>
    obtain ⟨c, j⟩ := cj
    refine does_bind (does_adaptSlot s _ _ c j) fun failed t ht => ?_
    exact does_setFlight (ht.trans hf) (onward_setWork rfl rfl (by simp [hp]) (by simp) (.inr (.inl rfl)) (by simp) rfl
      ⟨fun h => h, .inl rfl⟩) trivial

theorem afterCommit_ne_apply (c mics : Nat) : afterCommit c mics ≠ .apply :=
  afterChannel_cases (P := fun p => p ≠ .apply) _ _ _ _ (by simp) (by simp)

theorem afterCommit_ne_zeroing (c mics : Nat) : ∀ d k, afterCommit c mics ≠ .zeroing d k :=
  afterChannel_cases (P := fun p => ∀ d k, p ≠ .zeroing d k) _ _ _ _ (by simp) (by simp)

/-- Stage 7 of a channel done, the frame goes on to the unit after its commit. -/
theorem onward_afterCommit {s : State} {f g : Flight} {c : Nat} (hc : g.count = f.count) (hs : g.start = f.start)
    (hf : f.phase ≠ .apply) (hg : g.phase = afterCommit c s.geo.mics) (hwork : g.work = f.work) : f.Onward s g :=
  onward_of_work hc hs hf (hg ▸ afterCommit_ne_apply c _)
    (.inr (hg ▸ afterChannel_channel c s.geo.mics .commit (.suppress 0) (fun _ => rfl) rfl))
    (fun d k h => absurd (hg.symm.trans h) (afterCommit_ne_zeroing c _ d k)) hwork

theorem does_commitUnit (s : State) (f : Flight) (c : Nat) (hf : s.flight = some f) (hp : f.phase = .commit c) :
    Does Move (commitUnit f c) s (fun _ _ => True) := by
  refine does_update ?_ trivial
  dsimp only
  have hpa : f.phase ≠ .apply := by simp [hp]
  split
  · rename_i hd
    have hc : s.commits f c = true := ((divergesIn_iff s f c).mp hd).1
    have hoff : (s.chan c).state ≠ .off := by
      simp only [State.commits, Bool.and_eq_true, decide_eq_true_eq] at hc
      rw [hc.2]
      exact hc.1
    refine .single (.frame s f _ hf (onward_of_work rfl rfl hpa (by simp [Flight.at])
      (.inl (by simp [Flight.at, hp, Phase.channel])) (fun d k h => .inr ?_) rfl))
    obtain ⟨rfl, -⟩ : c = d ∧ 0 = k := by simpa [Flight.at] using h
    exact hoff
  · rename_i hd
    split
    · rename_i hc
      refine Relation.ReflTransGen.tail (.single (.commit s f c hf hp hc (by simpa using hd))) (.frame _ f _ ?_ ?_)
      · simpa [State.commitChan_eq] using hf
      · exact onward_afterCommit (c := c) rfl rfl hpa (by simp [Flight.at, State.commitChan_eq]) rfl
    · exact .single (.frame s f _ hf (onward_afterCommit rfl rfl hpa rfl rfl))

theorem does_zeroingUnit (s : State) (f : Flight) (c k : Nat) (hf : s.flight = some f) (hp : f.phase = .zeroing c k) :
    Does Move (zeroingUnit f c k) s (fun _ _ => True) := by
  refine does_update ?_ trivial
  have hpa : f.phase ≠ .apply := by simp [hp]
  split
  · have hslot : Moves s (s.setSlot ((s.extent c).base + k) .zero) := Moves.aside (aside_setPool s _)
    refine hslot.tail (.frame _ f _ (by simpa using hf) ?_)
    refine onward_of_work rfl rfl hpa (by simp) (.inl (by simp [hp, Phase.channel])) (fun d j h => .inl ⟨k, ?_⟩) rfl
    obtain ⟨rfl, -⟩ : c = d ∧ k + 1 = j := by simpa using h
    exact hp
  · obtain ⟨_, heq⟩ := requeueDiverged_eq (s.commitChan c ((s.stageSevenOf f c).diverged f.count)) c
      ((s.stageSevenOf f c).diverged f.count)
    refine Relation.ReflTransGen.tail (.single (.diverge s f c k hf hp)) (.frame _ f _ ?_ ?_)
    · rw [heq]
      simpa [State.commitChan_eq] using hf
    · refine onward_afterCommit (c := c) rfl rfl hpa ?_ rfl
      rw [heq]
      simp [Flight.at, State.commitChan_eq]

theorem withOutput_onward (x : Channel) (off : Bool) (a : Int) (w : ChanWork) : w.Onward x (withOutput off a w) :=
  ⟨fun ⟨hm, hy, he, _⟩ => ⟨hm, hy, he, level_inRange _⟩, .inl rfl⟩

theorem does_suppressUnit (s : State) (f : Flight) (c : Nat) (hf : s.flight = some f) (hp : f.phase = .suppress c) :
    Does Move (suppressUnit f c) s (fun _ _ => True) := by
  refine does_update ?_ trivial
  dsimp only
  have hpa : f.phase ≠ .apply := by simp [hp]
  have honward : ∀ (t : State) (off : Bool) (a : Int), t.geo = s.geo → f.Onward t
      ((f.setWork c (withOutput off a (f.chanWork c))).at (afterChannel c s.geo.mics .suppress (.output 0))) := by
    intro t off a ht
    refine onward_setWork rfl rfl hpa ?_ (.inr ?_) ?_ rfl (withOutput_onward _ _ _ _)
    · exact afterChannel_cases (P := fun p => p ≠ .apply) _ _ _ _ (by simp) (by simp)
    · rw [ht]
      exact afterChannel_channel c s.geo.mics .suppress (.output 0) (fun _ => rfl) rfl
    · exact afterChannel_cases (P := fun p => ∀ d k, p ≠ .zeroing d k) _ _ _ _ (by simp) (by simp)
  split
  · exact .single (.frame s f _ hf (honward s _ _ rfl))
  · exact Relation.ReflTransGen.tail (.single (.attenuate s f c hf hpa))
      (.frame _ f _ (by simpa [State.modChan_eq] using hf) (honward _ _ _ (by simp [State.modChan_eq])))

/-! ### The write-back (R174) -/

theorem does_outputUnit (s : State) (f : Flight) (c : Nat) (hf : s.flight = some f) (hp : f.phase = .output c) :
    Does Move (outputUnit f c) s (fun _ _ => True) := by
  unfold outputUnit
  rw [does_getState_bind]
  refine (writeWords_busWork _ _).then fun _ b m n => ?_
  refine does_setFlight (f := f) (by simpa using hf) (onward_of_work rfl rfl (by simp [hp]) ?_ (.inr ?_) ?_ rfl) trivial
  · exact afterChannel_cases (P := fun p => p ≠ .apply) _ _ _ _ (by simp) (by simp)
  · simpa [Flight.at] using afterChannel_channel c s.geo.mics .output .report (fun _ => rfl) rfl
  · intro d k h
    exact absurd h (afterChannel_cases (P := fun p => p ≠ .zeroing d k) _ _ _ _ (by simp) (by simp))

theorem writeRecords_busWork (f : Flight) (c n : Nat) : BusWork (writeRecords f c n) := by
  induction n generalizing c with
  | zero => exact busWork_pure _
  | succ n ih => exact busWork_getState_bind fun _ => busWork_bind (writeWords_busWork _ _) fun _ => ih _

theorem does_reportUnit (s : State) (f : Flight) (hf : s.flight = some f) (hp : f.phase = .report) :
    Does Move (reportUnit f) s (fun _ _ => True) := by
  unfold reportUnit
  rw [does_getState_bind]
  refine (writeWords_busWork _ _).then fun _ b m n => does_update_bind (.single (.tally ⟨rfl, ?_⟩)) ?_
  · exact ⟨.inr (Nat.zero_le _), .inr (Nat.zero_le _), .inr (Nat.zero_le _), .inr (Nat.zero_le _)⟩
  · refine (writeRecords_busWork _ _ _).then fun _ b' m' n' => ?_
    exact does_setFlight (f := f) (by simpa using hf) (onward_of_work rfl rfl (by simp [hp]) (by simp [Flight.at])
      (.inr (.inl rfl)) (by simp [Flight.at]) rfl) trivial

theorem does_statusUnit (s : State) (f : Flight) (hf : s.flight = some f) (hp : f.phase = .status) :
    Does Move (statusUnit f) s (fun _ _ => True) :=
  (writeStatus_busWork _ _).then fun _ _ _ _ =>
    does_setFlight (f := f) (by simpa using hf) (onward_of_work rfl rfl (by simp [hp]) (by simp [Flight.at])
      (.inr (.inl rfl)) (by simp [Flight.at]) rfl) trivial

/-- Every unit of the frame in flight stays within moves (R30, R174). -/
theorem does_frameUnit (s : State) (f : Flight) (hf : s.flight = some f) (hw : s.frameWorks = true) :
    Does Move (frameUnit f) s (fun _ _ => True) := by
  unfold frameUnit
  cases hp : f.phase with
  | apply => exact does_applyUnit s f hf hp hw
  | push => exact does_pushUnit s f hf hp
  | estimate c => exact does_estimateUnit s f c hf hp
  | filter c => exact does_filterUnit s f c hf hp
  | decide =>
    exact does_update (.single (.frame s f _ hf (onward_mapFinIdx
      (fun c w => decideChannel (f.ctx c) s.history.farActive s.history.lx w) rfl rfl (by simp [hp]) (by simp [Flight.decided])
      rfl (by simp [Flight.decided]) rfl (fun c => onward_decideChannel _ _ _ _)))) trivial
  | walk => exact does_walkUnit s f hf hp
  | adapt todo => exact does_adaptUnit s f todo hf hp
  | commit c => exact does_commitUnit s f c hf hp
  | zeroing c k => exact does_zeroingUnit s f c k hf hp
  | suppress c => exact does_suppressUnit s f c hf hp
  | output c => exact does_outputUnit s f c hf hp
  | report => exact does_reportUnit s f hf hp
  | status => exact does_statusUnit s f hf hp
  | count => exact does_pure trivial

end Sys2Proof.Machine
end

section
/-! The intake, the cycle check, the end of a frame, the engine's actions and the step: every step stays within `Act`. -/

namespace Sys2Proof.Machine

/-! ### The intake (R134 to R152) -/

theorem does_cancelStep (r : Record) (d : Word) (s : State) : Does Move (cancelStep r d) s (fun _ _ => True) := by
  unfold cancelStep
  rw [does_getState_bind]
  split
  · exact (complete_busWork _ _ _ _ _).then fun _ _ _ _ => does_update_bind (.single (.unlist _ _))
      ((complete_busWork _ _ _ _ _).does _ fun _ _ _ _ => trivial)
  · exact (complete_busWork _ _ _ _ _).does _ fun _ _ _ _ => trivial

theorem does_lockStep (r : Record) (d : Word) (s : State) : Does Move (lockStep r d) s (fun _ _ => True) := by
  unfold lockStep
  rw [does_getState_bind]
  exact does_update_bind (Moves.aside rfl) ((complete_busWork _ _ _ _ _).does _ fun _ _ _ _ => trivial)

theorem does_recordStep (r : Record) (d : Word) (s : State) : Does Move (recordStep r d) s (fun _ _ => True) := by
  unfold recordStep
  rw [does_getState_bind]
  cases hr : r.refusal s d with
  | some refusal => exact (complete_busWork _ _ _ _ _).does _ fun _ _ _ _ => trivial
  | none =>
    cases ha : r.action with
    | some action => exact does_update (.single (.file s r d action hr ha)) trivial
    | none => exact does_ite (fun _ => does_cancelStep r d s) (fun _ => does_lockStep r d s)

theorem does_look (s : State) : Does Move look s (fun _ _ => True) := by
  refine candidate_busWork.then fun a b m n => ?_
  rw [does_getState_bind]
  refine does_ite (fun _ => does_pure trivial) fun _ => does_ite (fun _ => does_fail) fun _ => ?_
  refine (readRecord_busWork a).then fun r b' m' n' => does_ite (fun _ => ?_) (fun _ => does_pure trivial)
  exact (writeLanes_busWork _ _).then fun _ _ _ _ => does_update_bind (Moves.aside rfl) (does_pure trivial)

theorem does_setIntake (s : State) (v : Option Intake) : Does Move (update fun s => s.setIntake v) s (fun _ _ => True) :=
  does_update (Moves.aside rfl) trivial

theorem does_closeIntake (s : State) : Does Move closeIntake s (fun _ _ => True) := does_setIntake s none

theorem does_intakeUnit (s : State) : Does Move intakeUnit s (fun _ _ => True) := by
  unfold intakeUnit
  rw [does_getState_bind]
  cases hi : s.intake with
  | none => exact does_pure trivial
  | some i =>
    cases hr : i.inHand with
    | some r =>
      simp only [hr]
      exact does_bind (does_recordStep _ _ s) fun _ t _ =>
        does_ite (Q := fun _ _ => True) (fun _ => does_closeIntake t) (fun _ => does_setIntake t _)
    | none =>
      simp only [hr]
      refine does_bind (does_look s) fun found t _ => ?_
      cases found with
      | none => exact does_closeIntake t
      | some r => exact does_setIntake t _

theorem does_beginIntake (s : State) : Does Move beginIntake s (fun _ _ => True) := does_update (Moves.aside rfl) trivial

theorem does_runIntake (n : Nat) (s : State) : Does Move (runIntake n) s (fun _ _ => True) := by
  induction n generalizing s with
  | zero => exact does_pure trivial
  | succ n ih =>
    unfold runIntake
    rw [does_getState_bind]
    split
    · exact does_pure trivial
    · exact does_bind (does_intakeUnit s) fun _ t _ => ih t

theorem does_cutIntake (s : State) : Does Move cutIntake s (fun _ _ => True) := by
  unfold cutIntake
  rw [does_getState_bind]
  cases hi : s.intake with
  | none => exact does_pure trivial
  | some i =>
    cases hr : i.inHand with
    | none =>
      simp only [hr]
      exact does_closeIntake s
    | some r =>
      simp only [hr]
      exact does_bind (does_recordStep _ _ s) fun _ t _ => does_closeIntake t

/-! ### The cycle check (R171 to R173) -/

theorem saturatingAdd_le (n k : Nat) : saturatingAdd Config.pendingLimit n k ≤ 255 := Nat.min_le_left _ _

theorem BusWork.turns {α β : Type} {w : Work α} (h : BusWork w) {s : State} {g : α → Work β} {Q : β → State → Prop}
    (hg : ∀ a t, Does Turn (g a) t Q) : Does Turn (w >>= g) s Q :=
  does_bind (h s).turns fun a t _ => hg a t

theorem does_idleCheck (byStep : Bool) (s : State) : Does Move (idleCheck byStep) s (fun _ _ => True) := by
  refine does_ite (fun _ => does_update (Moves.aside rfl) trivial) (fun _ => does_update_bind (c := fun s => { s with
    idleTotal := s.idleTotal + 1, pendIdle := saturatingAdd Config.pendingLimit s.pendIdle 1 }) ?_
    (writeIdleTotal_busWork.does _ fun _ _ _ _ => trivial))
  exact (Moves.aside (t := { s with idleTotal := s.idleTotal + 1 }) rfl).tail
    (.tally ⟨rfl, .inr (saturatingAdd_le _ _), .inl rfl, .inl rfl, .inl rfl⟩)

theorem does_busyTick (s : State) : Does Move busyTick s (fun _ _ => True) := by
  unfold busyTick
  rw [does_getState_bind]
  refine does_ite (fun _ => does_update_bind (c := fun s => { s with
    overloadTotal := s.overloadTotal + 1, pendOverload := saturatingAdd Config.pendingLimit s.pendOverload 1 }) ?_
    (writeOverloadTotal_busWork.does _ fun _ _ _ _ => trivial)) (fun _ => does_update (Moves.aside rfl) trivial)
  exact (Moves.aside (t := { s with overloadTotal := s.overloadTotal + 1 }) rfl).tail
    (.tally ⟨rfl, .inl rfl, .inr (saturatingAdd_le _ _), .inl rfl, .inl rfl⟩)

theorem does_countedGapPush (k : Nat) (s : State) : Does Move (countedGapPush k) s (fun _ _ => True) :=
  does_update_bind (.single (.gap s k)) ((writeGapTotalAfter_busWork k).does _ fun _ _ _ _ => trivial)

theorem does_dropFrames (d : Nat) (s : State) : Does Turn (dropFrames d) s (fun _ _ => True) := by
  refine does_update_bind ?_ ?_
  · exact ((Relation.ReflTransGen.single (Turn.clock s (s.taken + BitVec.ofNat 32 d) (s.done + BitVec.ofNat 32 d))).tail
      (.move (.aside (t := { s with taken := s.taken + BitVec.ofNat 32 d, done := s.done + BitVec.ofNat 32 d,
                                    dropTotal := s.dropTotal + BitVec.ofNat 32 d }) rfl))).tail
      (.move (.tally ⟨rfl, .inl rfl, .inl rfl, .inr (saturatingAdd_le _ _), .inl rfl⟩))
  · refine writeTaken_busWork.turns fun _ t => does_getState_bind.mpr ?_
    exact (writeDone_busWork _).turns fun _ u => writeDropTotal_busWork.turns fun _ v => (does_countedGapPush d v).turns

theorem turns_setDone (s : State) (d : Word) : Turns s (s.setDone d) := .single (.clock s s.taken d)

theorem does_advanceDone (s : State) : Does Turn advanceDone s (fun _ _ => True) := by
  unfold advanceDone
  rw [does_getState_bind]
  exact (writeDone_busWork _).turns fun _ t => does_update (turns_setDone t _) trivial

theorem does_mismatchFrame (notify byStep : Bool) (s : State) : Does Turn (mismatchFrame notify byStep) s (fun _ _ => True) := by
  refine does_bind (does_countedGapPush 1 s).turns fun _ t _ => does_getState_bind.mpr ?_
  refine (writeStatus_busWork _ _).turns fun _ u => does_bind (does_advanceDone u) fun _ v _ => ?_
  refine (noticeIf_busWork notify).turns fun _ w => does_ite (fun _ => ?_) (fun _ => does_pure trivial)
  exact does_update (Turns.aside rfl) trivial

theorem does_takeFrame (byStep : Bool) (s : State) : Does Turn (takeFrame byStep) s (fun _ _ => True) := by
  refine does_update_bind (.single (.clock s (s.done + 1) s.done)) ?_
  refine writeTaken_busWork.turns fun _ t => does_getState_bind.mpr ?_
  refine (readWords_busWork _ _).turns fun header u => does_ite (fun _ => ?_) (fun _ => does_mismatchFrame _ _ u)
  exact does_update (.single (.begin u _ byStep)) trivial

theorem does_cycleCheck (byStep : Bool) (s : State) : Does Turn (cycleCheck byStep) s (fun _ _ => True) := by
  refine does_bind (does_takeReadyEnd s).turns fun _ t _ => does_getState_bind.mpr ?_
  refine (readWord_busWork _).turns fun fill u => does_getState_bind.mpr ?_
  refine does_ite (fun _ => (does_idleCheck byStep u).turns) fun _ => ?_
  exact does_ite (fun _ => does_bind (does_dropFrames _ u) fun _ v _ => does_takeFrame byStep v) (fun _ => does_takeFrame byStep u)

/-! ### Runs of units -/

theorem does_stageUnit (s : State) (hw : s.frameWorks = true) : Does Move stageUnit s (fun _ _ => True) := by
  unfold stageUnit
  rw [does_getState_bind]
  cases hf : s.flight with
  | none => exact does_pure trivial
  | some f => exact does_ite (fun _ => does_pure trivial) (fun _ => does_frameUnit s f hf hw)

/-- A unit of the frame leaves the engine state, and with it whether the frame works. -/
theorem Does.frameWorks {α : Type} {w : Work α} {s : State} {Q : α → State → Prop} (h : Does Turn w s Q)
    (hw : s.frameWorks = true) : Does Turn w s (fun a t => Q a t ∧ t.frameWorks = true) :=
  h.and_reached.imp fun _ _ ⟨hq, ht⟩ => ⟨hq, (frameWorks_congr (Turns.engine ht)).trans hw⟩

theorem does_runStages (n : Nat) (s : State) (hw : s.frameWorks = true) : Does Turn (runStages n) s (fun _ _ => True) := by
  induction n generalizing s with
  | zero => exact does_pure trivial
  | succ n ih =>
    unfold runStages
    rw [does_getState_bind]
    cases hf : s.flight with
    | none => exact does_pure trivial
    | some f =>
      refine does_ite (fun _ => does_pure trivial) fun _ => ?_
      exact does_bind ((does_frameUnit s f hf hw).turns.frameWorks hw) fun _ t ht => ih t ht.2

theorem does_runToCount (n : Nat) (s : State) (hw : s.frameWorks = true) : Does Turn (runToCount n) s (fun _ _ => True) := by
  induction n generalizing s with
  | zero => exact does_pure trivial
  | succ n ih =>
    unfold runToCount
    rw [does_getState_bind]
    cases hf : s.flight with
    | none => exact does_pure trivial
    | some f =>
      refine does_ite (fun _ => does_pure trivial) fun _ => ?_
      exact does_bind ((does_frameUnit s f hf hw).turns.frameWorks hw) fun _ t ht => ih t ht.2

theorem does_runPlan (plan : List Party) (due : Bool) (s : State) (hw : s.frameWorks = true) :
    Does Turn (runPlan plan due) s (fun _ _ => True) := by
  induction plan generalizing due s with
  | nil => exact does_pure trivial
  | cons p rest ih =>
    cases p with
    | intake => exact does_bind ((does_intakeUnit s).turns.frameWorks hw) fun _ t ht => ih due t ht.2
    | frame =>
      refine does_ite (fun _ => ?_) (fun _ => ?_)
      · exact does_bind ((does_cycleCheck false s).frameWorks hw) fun _ t ht => ih false t ht.2
      · exact does_bind ((does_stageUnit s hw).turns.frameWorks hw) fun _ t ht => ih false t ht.2

/-- The last part of a tick: the check, if it is still due, and the stages. -/
theorem does_tickEnd (due finish : Bool) (s : State) (hw : s.frameWorks = true) : Does Turn (do
    if due then cycleCheck false else pure ()
    if finish then runStagesFor none else pure ()) s (fun _ _ => True) := by
  have hstages : ∀ t : State, t.frameWorks = true →
      Does Turn (if finish then runStagesFor none else pure ()) t (fun _ _ => True) := fun t ht =>
    does_ite (fun _ => does_runStages _ t ht) (fun _ => does_pure trivial)
  refine does_ite (fun _ => ?_) (fun _ => hstages s hw)
  exact does_bind ((does_cycleCheck false s).frameWorks hw) fun _ t ht => hstages t ht.2

theorem does_tickWork (timing : TickTiming) (s : State) (hw : s.frameWorks = true) :
    Does Turn (tickWork timing) s (fun _ _ => True) := by
  unfold tickWork
  rw [does_getState_bind]
  have hrest : ∀ t : State, t.frameWorks = true → Does Turn (do
      beginIntake
      let due ← runPlan timing.plan (!s.frameBusy)
      if timing.finish then finishIntake else pure ()
      if due then cycleCheck false else pure ()
      if timing.finish then runStagesFor none else pure ()) t (fun _ _ => True) := by
    intro t ht
    refine does_bind ((does_beginIntake t).turns.frameWorks ht) fun _ u hu => ?_
    refine does_bind ((does_runPlan timing.plan _ u hu.2).frameWorks hu.2) fun due v hv => ?_
    refine does_ite (fun _ => ?_) (fun _ => does_tickEnd due _ v hv.2)
    exact does_bind ((does_runIntake _ v).turns.frameWorks hv.2) fun _ w hw' => does_tickEnd due _ w hw'.2
  refine does_ite (fun _ => ?_) (fun _ => hrest s hw)
  exact does_bind ((does_busyTick s).turns.frameWorks hw) fun _ t ht => hrest t ht.2

theorem does_stepCheck (s : State) : Does Turn stepCheck s (fun _ _ => True) :=
  does_update_bind (Turns.aside rfl) (does_cycleCheck true _)

theorem does_progress (s : State) (hw : s.frameWorks = true) : Does Turn progress s (fun _ _ => True) := by
  unfold progress
  rw [does_getState_bind]
  refine does_ite (fun _ => (does_intakeUnit s).turns) fun _ => ?_
  cases hf : s.flight with
  | some f => exact (does_frameUnit s f hf hw).turns
  | none => exact does_ite (fun _ => does_stepCheck s) (fun _ => does_pure trivial)

theorem does_runStep (n : Nat) (s : State) (hw : s.frameWorks = true) : Does Turn (runStep n) s (fun _ _ => True) := by
  induction n generalizing s with
  | zero => exact does_pure trivial
  | succ n ih =>
    unfold runStep
    rw [does_getState_bind]
    refine does_ite (fun _ => ?_) (fun _ => does_pure trivial)
    exact does_bind ((does_progress s hw).frameWorks hw) fun _ t ht => ih t ht.2

theorem does_stepWork (units : Option Nat) (s : State) (hw : s.frameWorks = true) :
    Does Turn (stepWork units) s (fun _ _ => True) := by
  refine does_update_bind (Turns.aside rfl) ?_
  refine does_bind ((does_beginIntake _).turns.frameWorks ?_) fun _ t ht => does_runStep _ t ht.2
  exact (frameWorks_congr (by simp)).trans hw

/-! ### The end of a frame (R174, R183) -/

theorem does_closeFrame (f : Flight) (s : State) : Does Turn (closeFrame f) s (fun _ _ => True) := by
  refine does_bind (does_advanceDone s) fun _ t _ => (noticeIf_busWork _).turns fun _ u => does_update ?_ trivial
  exact Relation.ReflTransGen.tail (.single (.close u)) (.move (.aside rfl))

theorem does_afterFrame (units : Option Nat) (s : State) (hw : s.frameWorks = true) :
    Does Act (afterFrame units) s (fun _ _ => True) := by
  unfold afterFrame
  rw [does_getState_bind]
  refine does_ite (fun hd => ?_) fun _ => Does.acts ?_
  · exact does_update (.single (.engine s .halted (by simp [hd]) (.inl rfl))) trivial
  · refine does_bind ((does_takeReadyEnd s).turns.frameWorks hw) fun _ t ht => ?_
    refine does_ite (fun _ => ?_) (fun _ => does_pure trivial)
    refine does_update_bind (Turns.aside rfl) ?_
    refine does_bind ((does_cycleCheck false _).frameWorks ?_) fun _ u hu => does_runStages _ u hu.2
    exact (frameWorks_congr (by simp)).trans ht.2

theorem does_endFrame (units : Option Nat) (s : State) (hw : s.frameWorks = true) :
    Does Act (endFrame units) s (fun _ _ => True) := by
  refine does_bind ((does_runToCount _ s hw).frameWorks hw).acts fun _ t ht => does_getState_bind.mpr ?_
  cases hf : t.flight with
  | none => exact does_pure trivial
  | some f =>
    refine does_ite (fun _ => ?_) (fun _ => does_pure trivial)
    exact does_bind ((does_closeFrame f t).frameWorks ht.2).acts fun _ u hu => does_afterFrame units u hu.2

/-! ### START, HALT and ABORT (R181, R183) -/

theorem withFault_busWork {α : Type} {w : Work α} (h : BusWork w) (f : EngineFault) : BusWork (withFault w f) := by
  intro s
  have hs := h s
  unfold Does withFault at *
  cases hw : w s with
  | ok a t => simpa [hw] using hs
  | error g t => simpa [hw] using hs

theorem readPage_busWork : BusWork readPage :=
  busWork_getState_bind fun _ => busWork_bind (withFault_busWork (readWords_busWork _ _) _) fun _ =>
    busWork_bind (withFault_busWork (readWord_busWork _) _) fun _ => busWork_pure _

/-- A page that passes check 4 gives an R of 1 to 4 (R181). -/
theorem refs_of_startFault_none {s : State} {p : Page} (h : startFault s p = none) : 1 ≤ p.nat 4 ∧ p.nat 4 ≤ 4 := by
  have hg : geometryFault s p = none := by
    unfold startFault at h
    split at h
    · simp at h
    · assumption
  unfold geometryFault at hg
  split_ifs at hg
  omega

theorem resumeMover_moves (s : State) : Moves s s.resumeMover := by
  unfold State.resumeMover
  cases hu : s.transfer with
  | none => exact .single (.aside (by cases s; subst hu; rfl))
  | some u => exact .single (.transfer s u u.resumed hu rfl rfl rfl rfl)

theorem does_startWork (enters : EngineState) (s : State) (he : s.engine = .halted) :
    Does Act (startWork enters) s (fun _ _ => True) := by
  unfold startWork
  rw [does_getState_bind]
  refine does_ite (fun _ => does_fail) fun _ => ?_
  refine does_bind (readPage_busWork s).turns.acts ?_
  rintro p _ ⟨b, m, n, rfl⟩
  rw [does_getState_bind]
  split
  · exact does_fail
  · rename_i hp
    refine does_update_bind (.single (.start _ p (by simpa using he) hp)) ?_
    have hbus : ∀ {w : Work Unit} {g : Unit → Work Unit} {t : State}, BusWork w →
        (∀ u : State, BusOnly t u → Does Act (g ()) u (fun _ _ => True)) → Does Act (w >>= g) t (fun _ _ => True) :=
      fun hw hg => does_bind (hw _).turns.acts fun _ u hu => hg u hu
    refine hbus writeTaken_busWork fun _ h1 => hbus writeIdleTotal_busWork fun _ h2 =>
      hbus writeOverloadTotal_busWork fun _ h3 => hbus writeDropTotal_busWork fun _ h4 => hbus writeGapTotal_busWork fun t h5 => ?_
    obtain ⟨b', m', n', rfl⟩ := (((h1.trans h2).trans h3).trans h4).trans h5
    refine does_update_bind ?_ ((does_takeReadyEnd _).turns.acts.imp fun _ _ _ => trivial)
    refine Relation.ReflTransGen.trans (.single (.engine _ enters ?_ (.inr (.inl ?_)))) (resumeMover_moves _).turns.acts
    · simp [State.startWith_eq, he]
    · simpa [State.startWith_eq, Page.geometry] using (refs_of_startFault_none hp).1

/-- The frame ended by ABORT: the transfer is left to the rest of it (R164, R176). -/
theorem does_abortFrame (f : Flight) (s : State) : Does Turn (abortFrame f) s (fun _ t => t.transfer = s.transfer) := by
  have hbus : ∀ {w : Work Unit} {g : Unit → Work Unit} {t : State}, BusWork w →
      (∀ u : State, BusOnly t u → Does Turn (g ()) u (fun _ v => v.transfer = s.transfer)) →
      Does Turn (w >>= g) t (fun _ v => v.transfer = s.transfer) :=
    fun hw hg => does_bind (hw _).turns fun _ u hu => hg u hu
  refine hbus (writeStatus_busWork _ _) fun t ht => does_getState_bind.mpr ?_
  refine hbus (writeDone_busWork _) fun u hu => does_update_bind (turns_setDone u _) ?_
  refine hbus (noticeIf_busWork _) fun v hv => does_update (.single (.close v)) ?_
  obtain ⟨_, _, _, rfl⟩ := ht.trans hu
  obtain ⟨_, _, _, rfl⟩ := hv
  simp

theorem does_abortWork (s : State) (he : s.engine ≠ .faulted) : Does Act abortWork s (fun _ _ => True) := by
  have hlast : ∀ t : State, Turns s t → Does Act
      (update fun s => ((s.setTickPending false).setStepDue false).setEngine .halted) t (fun _ _ => True) := fun t ht =>
    does_update (Relation.ReflTransGen.tail (Acts.aside (s := t) (t := (t.setTickPending false).setStepDue false) rfl)
      (.engine _ .halted (by simpa [ht.engine] using he) (.inl rfl))) trivial
  have htransfer : ∀ t : State, Turns s t → t.transfer = s.transfer → Does Act (do
      match s.transfer with
      | some t => endByAbort t
      | none => pure ()
      update fun s => ((s.setTickPending false).setStepDue false).setEngine .halted) t (fun _ _ => True) := by
    intro t hst ht
    cases hu : s.transfer with
    | none => exact hlast t hst
    | some u =>
      exact does_bind (does_endByAbort t u (ht.trans hu)).turns.and_reached.acts fun _ v hv => hlast v (hst.trans hv.2)
  unfold abortWork
  rw [does_getState_bind]
  cases hf : s.flight with
  | none => exact htransfer s .refl rfl
  | some f => exact does_bind (does_abortFrame f s).and_reached.acts fun _ t ht => htransfer t ht.2 ht.1

/-! ### The step -/

/-- What work leaves, a fault raised where it faults, is reached by acts. -/
theorem settle_acts {α : Type} {w : Work α} {s : State} {Q : α → State → Prop} (h : Does Act w s Q) : Acts s (settle w s) := by
  unfold settle
  cases hw : w s with
  | ok a t => exact (h.ok hw).1
  | error f t => exact (h.error hw).tail (.raise t f)

theorem heed_acts (s : State) : Acts s s.heed := Acts.aside rfl

theorem ignore_acts (s : State) : Acts s s.ignore := Acts.aside rfl

theorem afterCut_acts (s : State) (act : State → State) (h : ∀ t : State, t.engine = s.engine → Acts t (act t)) :
    Acts s (afterCut s act) := by
  unfold afterCut
  have hcut := (does_cutIntake s).turns
  cases hw : cutIntake s with
  | ok a t =>
    have hst := (hcut.ok hw).1
    exact ((Turns.acts hst).trans (heed_acts t)).trans (h t.heed (by simpa using Turns.engine hst))
  | error f t => exact ((hcut.acts.error hw).tail (.raise t f)).trans (ignore_acts _)

theorem halt_acts (s : State) (he : s.engine = .running ∨ s.engine = .stepWait) : Acts s s.halt := by
  rw [State.halt_eq]
  refine Relation.ReflTransGen.tail (Acts.aside (s := s) (t := (s.setTickPending false).setStepDue false) rfl)
    (.engine _ _ ?_ (.inr (.inr ?_)))
  · rcases he with he | he <;> simp [he]
  · rcases he with he | he <;> simp [State.frameWorks, he]

theorem attempt_acts (s : State) (units : Option Nat) (a : EngineAction) : Acts s (s.attempt units a) := by
  unfold State.attempt
  split
  · rename_i htakes
    cases a with
    | start => exact (heed_acts s).trans (settle_acts (does_startWork .running _ (by simpa [State.takes] using htakes)))
    | startStepped => exact (heed_acts s).trans (settle_acts (does_startWork .stepWait _ (by simpa [State.takes] using htakes)))
    | step =>
      have hengine : s.engine = .stepWait := by simp [State.takes] at htakes; exact htakes.1
      exact (heed_acts s).trans (settle_acts (does_stepWork units _ (by simp [State.frameWorks, hengine])).acts)
    | halt => exact afterCut_acts s _ fun t ht => halt_acts t (by simpa [State.takes, ht] using htakes)
    | abort =>
      refine afterCut_acts s _ fun t ht => settle_acts (does_abortWork t ?_)
      rw [ht]
      intro hfaulted
      simp [State.takes, hfaulted] at htakes
    | softReset => exact .single (.clear s)
    | ackNotice => exact (heed_acts s).trans (Acts.aside rfl)
  · exact ignore_acts s

theorem moveSegment_acts (d : Direction) (s : State) : Acts s (moveSegment d s) := by
  unfold moveSegment
  split
  · split
    · exact (Acts.aside (t := s.setGrants s.grants.tail) rfl).trans
        (settle_acts (does_runSegment _ _).turns.acts)
    · exact .refl
  · exact .refl

/-- Every command stays within acts. -/
theorem exec_acts (i : Instr) (s t : State) (h : exec i s = .next t) : Acts s t := by
  have haside : ∀ {t u : State}, Acts s t → Aside t u → Acts s u := fun h hu => h.trans (Acts.aside hu)
  cases i with
  | powerOn =>
    obtain rfl : _ = t := Host.Outcome.next.inj h
    exact haside (.single (.clear s)) rfl
  | resetN level =>
    cases level with
    | low =>
      obtain rfl : _ = t := Host.Outcome.next.inj h
      exact haside (.single (.clear s)) rfl
    | high =>
      obtain rfl : _ = t := Host.Outcome.next.inj h
      exact haside .refl rfl
  | resetClearingEnd =>
    simp only [exec, execResetClearingEnd] at h
    split at h
    · rename_i hc
      obtain rfl := Host.Outcome.next.inj h
      exact .single (.engine s .halted (by simp [hc.1]) (.inl rfl))
    · obtain rfl := Host.Outcome.next.inj h
      exact .refl
  | xbaseWrite value =>
    simp only [exec, execXbaseWrite] at h
    split at h
    · obtain rfl := Host.Outcome.next.inj h
      exact haside .refl rfl
    · obtain rfl := Host.Outcome.next.inj h
      exact ignore_acts s
  | registerWriteNoEffect register value =>
    cases register <;> obtain rfl := Host.Outcome.next.inj h <;> exact .refl
  | efaultRead =>
    simp only [exec, execEfaultRead] at h
    split at h
    · rename_i he
      obtain rfl := Host.Outcome.next.inj h
      simpa [he] using Relation.ReflTransGen.single (Act.readFault s s.efault)
    · rename_i he
      obtain rfl := Host.Outcome.next.inj h
      simpa [he] using Relation.ReflTransGen.single (Act.readFault s 0)
  | start => exact Host.Outcome.next.inj h ▸ attempt_acts s none .start
  | startStepped => exact Host.Outcome.next.inj h ▸ attempt_acts s none .startStepped
  | step units => exact Host.Outcome.next.inj h ▸ attempt_acts s units .step
  | halt => exact Host.Outcome.next.inj h ▸ attempt_acts s none .halt
  | abort => exact Host.Outcome.next.inj h ▸ attempt_acts s none .abort
  | softReset => exact Host.Outcome.next.inj h ▸ attempt_acts s none .softReset
  | ackNotice => exact Host.Outcome.next.inj h ▸ attempt_acts s none .ackNotice
  | ectlValueIgnored value =>
    simp only [exec, execEctlValueIgnored] at h
    split at h
    · exact Host.Outcome.next.inj h ▸ attempt_acts s none _
    · exact Host.Outcome.next.inj h ▸ ignore_acts s
  | blktick timing =>
    simp only [exec, execBlktick] at h
    split at h
    · rename_i he
      exact Host.Outcome.next.inj h ▸ settle_acts (does_tickWork timing s (by simp [State.frameWorks, he])).acts
    · exact Host.Outcome.next.inj h ▸ .refl
  | captureSegment => exact Host.Outcome.next.inj h ▸ moveSegment_acts .capture s
  | restoreSegment => exact Host.Outcome.next.inj h ▸ moveSegment_acts .restore s
  | restoreEnd =>
    simp only [exec, execRestoreEnd] at h
    split at h
    · exact Host.Outcome.next.inj h ▸ settle_acts (does_takeReadyEnd s).turns.acts
    · exact Host.Outcome.next.inj h ▸ .refl
  | frameCycleEnd units =>
    simp only [exec, execFrameCycleEnd] at h
    split at h
    · rename_i hc
      exact Host.Outcome.next.inj h ▸ settle_acts (does_endFrame units s hc.1)
    · exact Host.Outcome.next.inj h ▸ .refl
  | storageUpset slot part value =>
    simp only [exec, execStorageUpset] at h
    split at h
    · obtain rfl := Host.Outcome.next.inj h
      exact haside .refl (aside_setPool s _)
    · exact Host.Outcome.next.inj h ▸ .refl

/-- Every step stays within acts. -/
theorem step_acts {s t : State} (h : step s = .next t) : Acts s t := by
  unfold step at h
  split at h
  · unfold execIdle at h
    split at h
    · rename_i hw
      exact Host.Outcome.next.inj h ▸ settle_acts (does_progress s hw).acts
    · exact Host.Outcome.next.inj h ▸ .refl
  · rename_i rest _
    exact (Acts.aside (s := s) (t := { s with pending := rest }) rfl).trans (exec_acts _ _ _ h)

/-- What every single act keeps, every step keeps. -/
theorem step_keeps {P : State → Prop} (hact : ∀ s t, Act s t → P s → P t) {s t : State} (hs : P s) (h : step s = .next t) :
    P t :=
  Acts.keep hact (step_acts h) hs

end Sys2Proof.Machine
end

section
/-! The invariants of shared memory, the table, the fault, the queue and the capture flags: each single change keeps them. -/

namespace Sys2Proof.Machine

/-! ### Shared memory (R178) -/

theorem Move.memory {s t : State} (h : Move s t) : t.mem = s.mem ∨ ∃ a bytes, t.mem = writeBytes s.mem a bytes := by
  cases h with
  | write a bytes => exact .inr ⟨a, bytes, rfl⟩
  | aside h => exact .inl (by rw [h])
  | tally h => exact .inl (by rw [h.1])
  | gap k =>
    obtain ⟨_, _, _, _, he⟩ := countedGap_fields s k
    exact .inl (by rw [he])
  | push k blocks =>
    obtain ⟨_, _, _, _, he⟩ := pushed_fields s k blocks
    exact .inl (by rw [he])
  | diverge f c k =>
    obtain ⟨_, he⟩ := requeueDiverged_eq (s.commitChan c ((s.stageSevenOf f c).diverged f.count)) c
      ((s.stageSevenOf f c).diverged f.count)
    exact .inl (by rw [he]; simp [State.commitChan_eq])
  | apply f e change hf hp hw he hm hfree hi =>
    obtain ⟨_, _, _, _, heq⟩ := immediate_eq hi (s.removeEntry e)
    exact .inl (by rw [heq]; simp [State.removeEntry_eq])
  | abortRestore u =>
    obtain ⟨_, _, _, heq⟩ := resetChannel_fields s u.chan
    exact .inl (by simp [heq])
  | endCapture u => exact .inl (by simp [State.endCapture, State.modChan_eq])
  | unlist e => exact .inl (by simp [State.removeEntry_eq])
  | _ => exact .inl (by simp [State.modChan_eq, State.commitChan_eq])

theorem Act.keeps_memory {s t : State} (h : Act s t) (hs : s.MemoryCanonical) : t.MemoryCanonical := by
  unfold State.MemoryCanonical at *
  cases h with
  | turn h =>
    cases h with
    | move h =>
      rcases h.memory with hm | ⟨a, bytes, hm⟩
      · rwa [hm]
      · rw [hm]
        exact writeBytes_wf _ _ _ hs
    | _ => exact hs
  | _ => exact hs

/-! ### The action table and the fault (R143, R184) -/

theorem insertEntry_length (e : Entry) (table : List Entry) : (insertEntry e table).length = table.length + 1 := by
  induction table with
  | nil => rfl
  | cons f fs ih =>
    unfold insertEntry
    split <;> simp [ih]

theorem mem_insertEntry {e x : Entry} {table : List Entry} : x ∈ insertEntry e table ↔ x = e ∨ x ∈ table := by
  induction table with
  | nil => simp [insertEntry]
  | cons f fs ih =>
    unfold insertEntry
    split
    · simp only [List.mem_cons, ih]
      tauto
    · simp

/-- Every record that stands for an action is of a kind that names a channel (R139, R143). -/
theorem action_namesChannel {r : Record} {action : Action} (h : r.action = some action) : namesChannel r.kind.toNat = true := by
  unfold Record.action at h
  split at h <;> simp_all [namesChannel]

/-- A record that is not refused and stands for an action has its parameters in range and finds room in the table (R141, R142). -/
theorem refusal_none {s : State} {r : Record} {d : Word} {action : Action} (hr : r.refusal s d = none)
    (ha : r.action = some action) : r.paramFault = none ∧ s.table.length < 8 := by
  have hk := action_namesChannel ha
  unfold Record.refusal at hr
  cases hp : r.paramFault with
  | some offset =>
    simp only [hk, hp, true_and] at hr
    split_ifs at hr
  | none =>
    simp only [hk, hp, true_and] at hr
    split_ifs at hr with h1 h2 h3 hroom
    exact ⟨rfl, by simpa [Config.tableSize] using hroom⟩

/-- What a move may make of the table: kept, an entry taken out, or an entry filed whose record was not refused. -/
theorem Move.table {s t : State} (h : Move s t) :
    t.table = s.table ∨ (∃ e, t.table = s.table.erase e) ∨
      ∃ (r : Record) (d : Word) (action : Action), r.refusal s d = none ∧ r.action = some action ∧ t.table = insertEntry (r.entry d action) s.table := by
  cases h with
  | file r d action hr ha => exact .inr (.inr ⟨r, d, action, hr, ha, rfl⟩)
  | unlist e => exact .inr (.inl ⟨e, by simp [State.removeEntry_eq]⟩)
  | aside h => exact .inl (by rw [h])
  | tally h => exact .inl (by rw [h.1])
  | gap k =>
    obtain ⟨_, _, _, _, he⟩ := countedGap_fields s k
    exact .inl (by rw [he])
  | push k blocks =>
    obtain ⟨_, _, _, _, he⟩ := pushed_fields s k blocks
    exact .inl (by rw [he])
  | diverge f c k =>
    obtain ⟨_, he⟩ := requeueDiverged_eq (s.commitChan c ((s.stageSevenOf f c).diverged f.count)) c
      ((s.stageSevenOf f c).diverged f.count)
    exact .inl (by rw [he]; simp [State.commitChan_eq])
  | apply f e change hf hp hw he hm hfree hi =>
    obtain ⟨_, _, _, _, heq⟩ := immediate_eq hi (s.removeEntry e)
    exact .inr (.inl ⟨e, by rw [heq]; simp [State.removeEntry_eq]⟩)
  | abortRestore u =>
    obtain ⟨_, _, _, heq⟩ := resetChannel_fields s u.chan
    exact .inl (by simp [heq])
  | endCapture u => exact .inl (by simp [State.endCapture, State.modChan_eq])
  | _ => exact .inl (by simp [State.modChan_eq, State.commitChan_eq])

theorem Act.keeps_table {s t : State} (h : Act s t) (hs : s.TableBounded) : t.TableBounded := by
  unfold State.TableBounded at *
  have hmove : ∀ {t : State}, Move s t → t.table.length ≤ Config.tableSize := by
    intro t h
    rcases h.table with ht | ⟨e, ht⟩ | ⟨r, d, action, hr, ha, ht⟩
    · rwa [ht]
    · rw [ht]
      exact (List.length_erase_le).trans hs
    · rw [ht, insertEntry_length]
      exact (refusal_none hr ha).2
  cases h with
  | turn h =>
    cases h with
    | move h => exact hmove h
    | _ => exact hs
  | clear => exact Nat.zero_le _
  | _ => exact hs

theorem Act.keeps_faults {s t : State} (h : Act s t) (hs : s.FaultsAgree) : t.FaultsAgree := by
  intro ht
  cases h with
  | turn h =>
    have hengine := h.engine
    cases h with
    | move h =>
      obtain ⟨-, -, -, -, hcode, hdetail, -⟩ := h.sameClock
      rw [hcode, hdetail]
      exact hs (hengine ▸ ht)
    | _ => exact hs ht
  | engine v hf => exact hs hf
  | raise f => exact absurd rfl ht
  | readFault data => exact ⟨rfl, rfl⟩
  | start p => exact hs ht
  | clear => exact ⟨rfl, rfl⟩

/-! ### The schedule queue (R110) -/

section
variable {s t : State} {c : Nat}

theorem queueExact_congr (h : s.QueueExact) (hq : t.queue = s.queue)
    (hc : ∀ c, (t.chan c).state.adapts = (s.chan c).state.adapts) : t.QueueExact := by
  obtain ⟨hnodup, hmem⟩ := h
  exact ⟨hq ▸ hnodup, fun c => by rw [hq, hc]; exact hmem c⟩

/-- A channel that leaves the adapting states leaves the queue. -/
theorem queueExact_out (h : s.QueueExact) (hq : t.queue = s.queue.filter (fun d => decide (d ≠ c)))
    (ho : ∀ d, d ≠ c → t.chan d = s.chan d) (hc : (t.chan c).state.adapts = false) : t.QueueExact := by
  obtain ⟨hnodup, hmem⟩ := h
  refine ⟨hq ▸ hnodup.filter _, fun d => ?_⟩
  rw [hq, List.mem_filter, decide_eq_true_eq]
  by_cases hd : d = c
  · subst hd
    simp [hc]
  · simp [ho d hd, hmem d, hd]

/-- A channel that enters an adapting state enters the queue at its head. -/
theorem queueExact_head (h : s.QueueExact) (hq : t.queue = c :: s.queue.filter (fun d => decide (d ≠ c)))
    (ho : ∀ d, d ≠ c → t.chan d = s.chan d) (hc : (t.chan c).state.adapts = true) : t.QueueExact := by
  obtain ⟨hnodup, hmem⟩ := h
  refine ⟨?_, fun d => ?_⟩
  · rw [hq]
    exact List.nodup_cons.mpr ⟨by simp, hnodup.filter _⟩
  · rw [hq, List.mem_cons, List.mem_filter, decide_eq_true_eq]
    by_cases hd : d = c
    · subst hd
      simp [hc]
    · simp [ho d hd, hmem d, hd]

/-- A channel that enters an adapting state enters the queue at its tail. -/
theorem queueExact_tail (h : s.QueueExact) (hq : t.queue = s.queue.filter (fun d => decide (d ≠ c)) ++ [c])
    (ho : ∀ d, d ≠ c → t.chan d = s.chan d) (hc : (t.chan c).state.adapts = true) : t.QueueExact := by
  obtain ⟨hnodup, hmem⟩ := h
  refine ⟨?_, fun d => ?_⟩
  · rw [hq]
    exact List.nodup_append.mpr ⟨hnodup.filter _, by simp, by simp +contextual⟩
  · rw [hq, List.mem_append, List.mem_filter, decide_eq_true_eq]
    by_cases hd : d = c
    · subst hd
      simp [hc]
    · simp [ho d hd, hmem d, hd]

end

theorem applyConfigure_queueExact {s : State} {c parts : Nat} (hc : c < 16) (h : s.QueueExact) :
    (applyConfigure s c parts).1.QueueExact := by
  unfold applyConfigure
  split
  · unfold configureOff
    dsimp only
    split
    · refine queueExact_head h (c := c) (by simp [State.allocate, State.zeroSlots_eq]) (fun d hd => ?_) ?_
      · simp [chan_setChan, hd, State.allocate]
        rfl
      · simp [chan_setChan, hc, Channel.configured, ChanState.adapts]
    · split <;> exact h
  · unfold configureOn
    dsimp only
    split_ifs
    · exact h
    · exact h
    · exact h
    · refine queueExact_congr h (by simp [State.modChan_eq]) fun d => ?_
      rw [chan_modChan]
      split
      · simp [Channel.shrunk]
      · simp

theorem applyRelease_queueExact {s : State} {c : Nat} (hc : c < 16) (h : s.QueueExact) :
    (applyRelease s c).1.QueueExact := by
  unfold applyRelease
  split
  · exact h
  · refine queueExact_out h (c := c) (by simp) (fun d hd => by simp [chan_setChan, hd]) ?_
    simp [chan_setChan, hc, Channel.off, ChanState.adapts]

theorem resetChannel_queueExact {s : State} {c : Nat} (hc : c < 16) (h : s.QueueExact) : (s.resetChannel c).QueueExact := by
  refine queueExact_head h (c := c) (by simp [State.resetChannel_eq, State.modChan_eq, State.zeroExtent, State.zeroSlots_eq])
    (fun d hd => ?_) ?_
  · simp [State.resetChannel_eq, chan_modChan, hd, State.zeroExtent]
  · simp [State.resetChannel_eq, chan_modChan, hc, Channel.resetValues, ChanState.adapts]

theorem applyReset_queueExact {s : State} {c : Nat} (hc : c < 16) (h : s.QueueExact) : (applyReset s c).1.QueueExact := by
  unfold applyReset
  split
  · exact h
  · exact resetChannel_queueExact hc h

theorem frozen_queueExact {s : State} {c : Nat} (prior : PriorState) (hc : c < 16) (h : s.QueueExact) :
    ((s.modChan c (fun ctx => ctx.frozen prior)).dequeue c).QueueExact := by
  refine queueExact_out h (c := c) (by simp [State.modChan_eq]) (fun d hd => by simp [chan_modChan, hd]) ?_
  simp [chan_modChan, hc, Channel.frozen, ChanState.adapts]

theorem applyFreeze_queueExact {s : State} {c : Nat} (hc : c < 16) (h : s.QueueExact) : (applyFreeze s c).1.QueueExact := by
  unfold applyFreeze withState
  cases (s.chan c).state with
  | acquire => exact frozen_queueExact .acquire hc h
  | track => exact frozen_queueExact .track hc h
  | _ => exact h

theorem priorOf_adapts (prior : Option PriorState) : (priorOf prior).adapts = true := by
  rcases prior with _ | _ | _ <;> rfl

theorem applyThaw_queueExact {s : State} {c : Nat} (hc : c < 16) (h : s.QueueExact) : (applyThaw s c).1.QueueExact := by
  unfold applyThaw withState
  cases (s.chan c).state with
  | held =>
    have hadapts : ((s.modChan c Channel.thawed).chan c).state.adapts = true := by
      simp [chan_modChan, hc, Channel.thawed, priorOf_adapts]
    have hother : ∀ d, d ≠ c → (s.modChan c Channel.thawed).chan d = s.chan d := fun d hd => by simp [chan_modChan, hd]
    dsimp only [State.enqueueThawed]
    split
    · exact queueExact_tail h (c := c) (by simp [State.modChan_eq]) (fun d hd => by simpa using hother d hd) (by simpa using hadapts)
    · exact queueExact_head h (c := c) (by simp [State.modChan_eq]) (fun d hd => by simpa using hother d hd) (by simpa using hadapts)
  | _ => exact h

/-- A change of a context that keeps its state. -/
theorem modChan_queueExact {s : State} {c : Nat} {g : Channel → Channel} (hg : ∀ x, (g x).state = x.state)
    (h : s.QueueExact) : (s.modChan c g).QueueExact := by
  refine queueExact_congr h (by simp [State.modChan_eq]) fun d => ?_
  rw [chan_modChan]
  split
  · rw [hg]
  · rfl

theorem immediate_queueExact {s : State} {e : Entry} {change : State → State × Code × Word} (hi : e.immediate = some change)
    (hc : e.chan < 16) (h : s.QueueExact) : (change s).1.QueueExact := by
  unfold Entry.immediate at hi
  cases ha : e.action with
  | capture index => simp [ha] at hi
  | restore index => simp [ha] at hi
  | configure parts =>
    obtain rfl : _ = change := by simpa [ha] using hi
    exact applyConfigure_queueExact hc h
  | release =>
    obtain rfl : _ = change := by simpa [ha] using hi
    exact applyRelease_queueExact hc h
  | reset =>
    obtain rfl : _ = change := by simpa [ha] using hi
    exact applyReset_queueExact hc h
  | freeze =>
    obtain rfl : _ = change := by simpa [ha] using hi
    exact applyFreeze_queueExact hc h
  | thaw =>
    obtain rfl : _ = change := by simpa [ha] using hi
    exact applyThaw_queueExact hc h
  | setWindow w =>
    obtain rfl : _ = change := by simpa [ha] using hi
    dsimp only [applySetWindow]
    split
    · exact h
    · exact modChan_queueExact (fun _ => rfl) h
  | setTuning mask values =>
    obtain rfl : _ = change := by simpa [ha] using hi
    dsimp only [applySetTuning]
    split_ifs
    · exact h
    · exact h
    · exact modChan_queueExact (fun _ => rfl) h

@[simp] theorem measureStep_state (x : Channel) (lx : Int) (w : ChanWork) : (measureStep x lx w).state = x.state := by
  unfold measureStep
  split <;> rfl

@[simp] theorem strikeStep_state (x : Channel) (w : ChanWork) : (strikeStep x w).state = x.state := by
  unfold strikeStep
  split <;> rfl

/-- A dwell test changes the state at the limit, and otherwise the dwell alone (R82, R83). -/
theorem dwellTest_cases (x : Channel) (q : Bool) (limit : Int) (next : ChanState) :
    dwellTest x q limit next = { x with state := next, dwell := 0 } ∨
      ((if q then x.dwell + 1 else 0 : Nat) : Int) < limit ∧
        dwellTest x q limit next = { x with dwell := if q then x.dwell + 1 else 0 } := by
  by_cases h : limit ≤ ((if q then x.dwell + 1 else 0 : Nat) : Int)
  · exact .inl (if_pos h)
  · exact .inr ⟨not_le.mp h, if_neg h⟩

theorem dwellTest_state (x : Channel) (q : Bool) (limit : Int) (next : ChanState) :
    (dwellTest x q limit next).state = next ∨ (dwellTest x q limit next).state = x.state := by
  rcases dwellTest_cases x q limit next with h | ⟨-, h⟩
  · exact .inl (by rw [h])
  · exact .inr (by rw [h])

/-- The dwell tests move a channel between ACQUIRE and TRACK alone (R82, R83). -/
theorem dwellStep_state (x : Channel) (w : ChanWork) :
    (dwellStep x w).state = x.state ∨
      x.state.adapts = true ∧ (dwellStep x w).state.adapts = true ∧ (dwellStep x w).state ≠ .off := by
  unfold dwellStep
  split
  · cases hs : x.state with
    | acquire => rcases dwellTest_state x (decide (x.tuning.tConv ≤ x.erle)) x.tuning.dConv .track with h | h <;>
        simp [h, hs, ChanState.adapts]
    | track => rcases dwellTest_state x (decide (x.erle < x.tuning.tConv - 24)) x.tuning.dRecheck .acquire with h | h <;>
        simp [h, hs, ChanState.adapts]
    | _ => exact .inl hs
  · exact .inl rfl

theorem stageSeven_state (x : Channel) (lx : Int) (w : ChanWork) :
    (stageSeven x lx w).state = x.state ∨
      x.state.adapts = true ∧ (stageSeven x lx w).state.adapts = true ∧ (stageSeven x lx w).state ≠ .off := by
  have h := dwellStep_state (measureStep x lx w) w
  rw [measureStep_state] at h
  simpa only [stageSeven, strikeStep_state] using h

theorem stageSeven_adapts (x : Channel) (lx : Int) (w : ChanWork) : (stageSeven x lx w).state.adapts = x.state.adapts := by
  rcases stageSeven_state x lx w with h | ⟨hx, h, -⟩
  · rw [h]
  · rw [h, hx]

/-- The walk grants channels of the queue, in its order (R113). -/
theorem walkQueue_granted_sublist (candidate : Nat → Bool) (cost : Nat → Nat) (queue : List Nat) (budget : Nat) :
    (walkQueue candidate cost queue budget).granted.Sublist queue := by
  induction queue generalizing budget with
  | nil => exact List.nil_sublist _
  | cons c cs ih =>
    unfold walkQueue
    split_ifs
    · exact (ih _).cons_cons c
    · exact List.nil_sublist _
    · exact (ih _).cons c

/-- The rotation keeps the members of the queue, each once (R115). -/
theorem rotateQueue_spec {queue granted : List Nat} (hn : queue.Nodup) (hg : granted.Sublist queue) :
    (rotateQueue queue granted).Nodup ∧ ∀ c, c ∈ rotateQueue queue granted ↔ c ∈ queue := by
  unfold rotateQueue
  refine ⟨List.nodup_append.mpr ⟨hn.filter _, hn.sublist hg, ?_⟩, fun c => ?_⟩
  · rintro a ha b hb rfl
    simp only [List.mem_filter, Bool.not_eq_true', List.contains_eq_mem, decide_eq_false_iff_not] at ha
    exact ha.2 hb
  · by_cases hc : c ∈ granted
    · simp [hc, hg.subset hc]
    · simp [hc]

theorem diverged_state (x : Channel) (n : Word) : (x.diverged n).state = .suspended ∨ (x.diverged n).state = .acquire := by
  dsimp only [Channel.diverged]
  split
  · exact .inl rfl
  · exact .inr rfl

/-- What the channel numbers in use depend on. -/
theorem channelsNamed_congr {s t : State} (h : s.ChannelsNamed) (hg : t.geo = s.geo) (hu : t.transfer = s.transfer)
    (hf : t.flight = s.flight) : t.ChannelsNamed := by
  unfold State.ChannelsNamed at *
  rwa [hg, hu, hf]

/-- A move keeps the channel numbers in use below 16, and the queue exact. -/
theorem Move.keeps_queue {s t : State} (h : Move s t) (hn : s.ChannelsNamed) (hq : s.QueueExact) :
    t.ChannelsNamed ∧ t.QueueExact := by
  have hn' := hn
  obtain ⟨hmics, htransfer, hflight⟩ := hn'
  have hsame : ∀ {u : State}, u.geo = s.geo → u.transfer = s.transfer → u.flight = s.flight → u.queue = s.queue →
      u.channels = s.channels → u.ChannelsNamed ∧ u.QueueExact := fun hg hu hf hqueue hc =>
    ⟨channelsNamed_congr hn hg hu hf, queueExact_congr hq hqueue fun c => by rw [chan_congr hc]⟩
  cases h with
  | aside h => rw [h]; exact hsame rfl rfl rfl rfl rfl
  | write a bytes => exact hsame rfl rfl rfl rfl rfl
  | tally h => rw [h.1]; exact hsame rfl rfl rfl rfl rfl
  | gap k =>
    obtain ⟨_, _, _, _, he⟩ := countedGap_fields s k
    rw [he]
    exact hsame rfl rfl rfl rfl rfl
  | push k blocks =>
    obtain ⟨_, _, _, _, he⟩ := pushed_fields s k blocks
    rw [he]
    exact hsame rfl rfl rfl rfl rfl
  | frame f g hf h =>
    refine ⟨⟨hmics, htransfer, fun g' hg' => ?_⟩, queueExact_congr hq rfl fun _ => rfl⟩
    obtain rfl := Option.some.inj hg'
    have hfc := hflight f hf
    rcases h.channel with hc | hc | hc <;> omega
  | entered f hf hp =>
    refine ⟨⟨hmics, htransfer, fun g' hg' => ?_⟩, queueExact_congr hq rfl fun _ => rfl⟩
    obtain rfl := Option.some.inj hg'
    exact Nat.zero_lt_succ _
  | parity c =>
    exact ⟨channelsNamed_congr hn (by simp [State.modChan_eq]) (by simp [State.modChan_eq]) (by simp [State.modChan_eq]),
      modChan_queueExact (fun _ => rfl) hq⟩
  | attenuate f c =>
    exact ⟨channelsNamed_congr hn (by simp [State.modChan_eq]) (by simp [State.modChan_eq]) (by simp [State.modChan_eq]),
      modChan_queueExact (fun _ => rfl) hq⟩
  | commit f c hf hp hc hd =>
    refine ⟨channelsNamed_congr hn (by simp [State.commitChan_eq]) (by simp [State.commitChan_eq])
      (by simp [State.commitChan_eq]), queueExact_congr hq (by simp [State.commitChan_eq]) fun d => ?_⟩
    have hstate : (s.chan c).state = (f.ctx c).state := by
      simp only [State.commits, Bool.and_eq_true, decide_eq_true_eq] at hc
      exact hc.2
    unfold State.commitChan
    rw [chan_modChan]
    split
    · obtain ⟨rfl, -⟩ := ‹d = c ∧ c < 16›
      simp only [Channel.commit, State.stageSevenOf, stageSeven_adapts, hstate]
    · rfl
  | diverge f c k hf hp =>
    have hc : c < 16 := by simpa [hp, Phase.channel] using hflight f hf
    obtain ⟨_, he⟩ := requeueDiverged_eq (s.commitChan c ((s.stageSevenOf f c).diverged f.count)) c
      ((s.stageSevenOf f c).diverged f.count)
    refine ⟨channelsNamed_congr hn (by rw [he]; simp [State.commitChan_eq]) (by rw [he]; simp [State.commitChan_eq])
      (by rw [he]; simp [State.commitChan_eq]), ?_⟩
    have hother : ∀ d, d ≠ c → (s.commitChan c ((s.stageSevenOf f c).diverged f.count)).chan d = s.chan d := fun d hd => by
      simp [State.commitChan_eq, chan_setChan, hd]
    have hself : ((s.commitChan c ((s.stageSevenOf f c).diverged f.count)).chan c).state =
        ((s.stageSevenOf f c).diverged f.count).state := by
      simp [State.commitChan_eq, chan_setChan, hc, Channel.commit]
    unfold State.requeueDiverged
    split
    · rename_i hsus
      refine queueExact_out hq (c := c) (by simp [State.commitChan_eq]) (fun d hd => by simpa using hother d hd) ?_
      rw [chan_dequeue, hself, hsus]
      rfl
    · rename_i hsus
      refine queueExact_head hq (c := c) (by simp [State.commitChan_eq]) (fun d hd => by simpa using hother d hd) ?_
      rw [chan_toHead, hself, (diverged_state _ _).resolve_left hsus]
      rfl
  | rotate f =>
    obtain ⟨hnodup, hmem⟩ := rotateQueue_spec hq.1 (walkQueue_granted_sublist (s.candidateIn f)
      (fun c => adaptationCost s.geo.refs (f.ctx c)) s.queue (Config.budget - f.cost))
    exact ⟨channelsNamed_congr hn rfl rfl rfl, hnodup, fun c => (hmem c).trans (hq.2 c)⟩
  | takeEnd u hu hr =>
    refine ⟨⟨by simpa [State.modChan_eq] using hmics, by simp, by simpa [State.modChan_eq] using hflight⟩, ?_⟩
    refine queueExact_tail hq (c := u.chan) (by simp [State.modChan_eq]) (fun d hd => by simp [chan_modChan, hd]) ?_
    simp [chan_modChan, htransfer u hu, Channel.restored, ChanState.adapts]
  | endCapture u hu hd =>
    refine ⟨⟨by simpa [State.endCapture, State.modChan_eq] using hmics, by simp [State.endCapture],
      by simpa [State.endCapture, State.modChan_eq] using hflight⟩, ?_⟩
    exact queueExact_congr (modChan_queueExact (c := u.chan) (g := fun ctx => { ctx with capture := false }) (fun _ => rfl) hq)
      rfl fun _ => rfl
  | dropRestore u => exact ⟨⟨hmics, by simp, hflight⟩, queueExact_congr hq rfl fun _ => rfl⟩
  | abortRestore u hu hd =>
    obtain ⟨_, _, _, heq⟩ := resetChannel_fields s u.chan
    exact ⟨⟨by simpa [heq] using hmics, by simp, by simpa [heq] using hflight⟩,
      queueExact_congr (resetChannel_queueExact (htransfer u hu) hq) rfl fun _ => rfl⟩
  | transfer u v hu hd hc =>
    refine ⟨⟨hmics, fun w hw => ?_, hflight⟩, queueExact_congr hq rfl fun _ => rfl⟩
    obtain rfl := Option.some.inj hw
    rw [hc]
    exact htransfer u hu
  | beginCapture c u hc hfilters =>
    have hlt : c < 16 := lt_of_state_ne_off s c (fun hoff => by simp [hoff, ChanState.filters] at hfilters)
    refine ⟨⟨by simpa [State.modChan_eq] using hmics, fun w hw => ?_, by simpa [State.modChan_eq] using hflight⟩, ?_⟩
    · obtain rfl := Option.some.inj hw
      rwa [hc]
    · exact queueExact_congr (modChan_queueExact (c := c) (g := fun ctx => { ctx with capture := true }) (fun _ => rfl) hq)
        rfl fun _ => rfl
  | beginRestore c u hc hfilters =>
    have hlt : c < 16 := lt_of_state_ne_off s c (fun hoff => by simp [hoff, ChanState.filters] at hfilters)
    refine ⟨⟨by simpa [State.modChan_eq] using hmics, fun w hw => ?_, by simpa [State.modChan_eq] using hflight⟩, ?_⟩
    · obtain rfl := Option.some.inj hw
      rwa [hc]
    · refine queueExact_out hq (c := c) (by simp [State.modChan_eq]) (fun d hd => by simp [chan_modChan, hd]) ?_
      simp [chan_modChan, hlt, Channel.enterRestoring, ChanState.adapts]
  | unlist e => exact hsame rfl rfl rfl rfl rfl
  | file r d action => exact hsame rfl rfl rfl rfl rfl
  | apply f e change hf hp hw he hm hfree hi =>
    have hremoved : (s.removeEntry e).QueueExact := queueExact_congr hq rfl fun _ => rfl
    refine ⟨?_, immediate_queueExact hi (by omega) hremoved⟩
    obtain ⟨_, _, _, _, heq⟩ := immediate_eq hi (s.removeEntry e)
    rw [heq]
    exact channelsNamed_congr hn rfl rfl rfl

/-- A page that passes check 3 names at most 16 channels (R181). -/
theorem mics_of_startFault_none {s : State} {p : Page} (h : startFault s p = none) : p.nat 3 ≤ 16 := by
  have hg : geometryFault s p = none := by
    unfold startFault at h
    split at h
    · simp at h
    · assumption
  unfold geometryFault at hg
  split_ifs at hg
  omega

theorem cleared_chan (s : State) (c : Nat) : s.cleared.chan c = .off := by
  unfold State.chan State.cleared State.reset
  by_cases hc : c < 16 <;> simp [hc]

theorem Act.keeps_queue {s t : State} (h : Act s t) (hs : s.ChannelsNamed ∧ s.QueueExact) :
    t.ChannelsNamed ∧ t.QueueExact := by
  obtain ⟨hn, hq⟩ := hs
  have hn' := hn
  obtain ⟨hmics, htransfer, hflight⟩ := hn'
  cases h with
  | turn h =>
    cases h with
    | move h => exact h.keeps_queue hn hq
    | clock taken done => exact ⟨hn, hq⟩
    | begin w1 byStep =>
      refine ⟨⟨hmics, htransfer, fun g hg => ?_⟩, queueExact_congr hq rfl fun _ => rfl⟩
      obtain rfl := Option.some.inj hg
      exact Nat.zero_lt_succ _
    | close => exact ⟨⟨hmics, htransfer, by simp⟩, queueExact_congr hq rfl fun _ => rfl⟩
  | engine v => exact ⟨hn, hq⟩
  | raise f => exact ⟨⟨hmics, htransfer, by simp⟩, queueExact_congr hq rfl fun _ => rfl⟩
  | readFault data => exact ⟨hn, hq⟩
  | start p he hp => exact ⟨⟨mics_of_startFault_none hp, htransfer, hflight⟩, queueExact_congr hq rfl fun _ => rfl⟩
  | clear =>
    refine ⟨⟨hmics, by simp [State.cleared, State.reset], by simp [State.cleared, State.reset]⟩, ?_, fun c => ?_⟩
    · exact List.nodup_nil
    · rw [cleared_chan]
      simp [State.cleared, State.reset, Channel.off, ChanState.adapts]

end Sys2Proof.Machine

namespace Sys2Proof

open Sys2Proof.Machine

/-- Settles O54: of all changes a write of bytes alone touches shared memory, and it keeps the canonical form. -/
theorem memoryStaysCanonical : Obligations.MemoryStaysCanonical :=
  fun _ _ hs h => step_keeps (P := State.MemoryCanonical) (fun _ _ => Act.keeps_memory) hs h

/-- Settles O56: an entry is filed only below 8 of them, and the engine state leaves FAULTED by the read that clears the fault. -/
theorem tableAndFaultsStaySound : Obligations.TableAndFaultsStaySound :=
  fun _ _ ht hf h => ⟨step_keeps (P := State.TableBounded) (fun _ _ => Act.keeps_table) ht h,
    step_keeps (P := State.FaultsAgree) (fun _ _ => Act.keeps_faults) hf h⟩

/-- Settles O57: each change moves a channel into or out of the queue as it moves it into or out of ACQUIRE and TRACK. -/
theorem queueStaysExact : Obligations.QueueStaysExact :=
  fun _ _ hn hq h =>
    step_keeps (P := fun s => s.ChannelsNamed ∧ s.QueueExact) (fun _ _ => Act.keeps_queue) ⟨hn, hq⟩ h

end Sys2Proof
end

section
/-! The capture flags (R66, R156): each single change keeps a flag set exactly while the mover captures its channel. -/

namespace Sys2Proof.Machine

/-- The mover captures channel `c`. -/
def State.Captures (s : State) (c : Nat) : Prop :=
  ∃ u, s.transfer = some u ∧ u.direction = .capture ∧ u.chan = c

section
variable {s t : State}

theorem captures_congr (h : s.CapturesAgree) (hu : ∀ c, t.Captures c ↔ s.Captures c)
    (hc : ∀ c, (t.chan c).capture = (s.chan c).capture)
    (hoff : ∀ c, (t.chan c).state = .off → (s.chan c).state = .off ∨ (t.chan c).capture = false) : t.CapturesAgree := by
  obtain ⟨hflag, hnone⟩ := h
  refine ⟨fun c => ?_, fun c ht => ?_⟩
  · rw [hc]
    exact (hflag c).trans (hu c).symm
  · rcases hoff c ht with h | h
    · rw [hc]
      exact hnone c h
    · exact h

theorem captures_same (h : s.CapturesAgree) (hu : t.transfer = s.transfer) (hc : t.channels = s.channels) :
    t.CapturesAgree :=
  captures_congr h (fun c => by unfold State.Captures; rw [hu]) (fun c => by rw [chan_congr hc])
    (fun c hoff => .inl (by rwa [chan_congr hc] at hoff))

/-- A change of one context that keeps its flag, and does not turn it off unless the flag is clear. -/
theorem captures_modChan {c : Nat} {g : Channel → Channel} (h : s.CapturesAgree) (hg : (g (s.chan c)).capture = (s.chan c).capture)
    (hoff : (g (s.chan c)).state = .off → (s.chan c).state = .off) : (s.modChan c g).CapturesAgree := by
  refine captures_congr h (fun d => by unfold State.Captures; rw [State.modChan_eq, State.setChan_transfer]) (fun d => ?_)
    (fun d => ?_)
  · rw [chan_modChan]
    split
    · obtain ⟨rfl, -⟩ := ‹d = c ∧ c < 16›
      exact hg
    · rfl
  · rw [chan_modChan]
    split
    · obtain ⟨rfl, -⟩ := ‹d = c ∧ c < 16›
      exact fun hd => .inl (hoff hd)
    · exact .inl

/-- With no capture in flight every flag is clear. -/
theorem capture_false_of_free (h : s.CapturesAgree) {c : Nat} (hfree : ¬ s.Captures c) : (s.chan c).capture = false := by
  by_contra hc
  exact hfree ((h.1 c).mp (by simpa using hc))

/-- The context of a channel that the mover does not capture replaced by one with a clear flag. -/
theorem captures_setChan {c : Nat} {x : Channel} (h : s.CapturesAgree) (hfree : ¬ s.Captures c) (hx : x.capture = false) :
    (s.setChan c x).CapturesAgree := by
  have hclear := capture_false_of_free h hfree
  refine captures_congr h (fun d => by unfold State.Captures; rw [State.setChan_transfer]) (fun d => ?_) (fun d => ?_)
  · rw [chan_setChan]
    split
    · obtain ⟨rfl, -⟩ := ‹d = c ∧ c < 16›
      rw [hx, hclear]
    · rfl
  · rw [chan_setChan]
    split
    · exact fun _ => .inr hx
    · exact .inl

/-- The mover becomes idle, or takes up a restore, where it did not capture. -/
theorem captures_setTransfer {v : Option Transfer} (h : s.CapturesAgree) (hs : ∀ c, ¬ s.Captures c)
    (hv : ∀ u, v = some u → u.direction = .restore) : (s.setTransfer v).CapturesAgree := by
  refine captures_congr h (fun c => iff_of_false ?_ (hs c)) (fun _ => rfl) (fun _ => .inl)
  rintro ⟨u, hu, hd, -⟩
  rw [State.setTransfer_transfer] at hu
  simp [hv u hu] at hd

end

theorem not_captures_of_restore {s : State} {u : Transfer} (hu : s.transfer = some u) (hd : u.direction = .restore) (c : Nat) :
    ¬ s.Captures c := by
  rintro ⟨v, hv, hvd, -⟩
  obtain rfl : u = v := Option.some.inj (hu.symm.trans hv)
  simp [hd] at hvd

theorem not_captures_of_free {s : State} (hfree : ∀ v, s.transfer = some v → v.direction = .restore) (c : Nat) :
    ¬ s.Captures c := by
  rintro ⟨v, hv, hvd, -⟩
  simp [hfree v hv] at hvd

/-- The flags depend on the contexts and the transfer alone. -/
theorem captures_of_eq {s t : State} (h : s.CapturesAgree) (hu : t.transfer = s.transfer) (hc : ∀ c, t.chan c = s.chan c) :
    t.CapturesAgree :=
  captures_congr h (fun c => by unfold State.Captures; rw [hu]) (fun c => by rw [hc]) (fun c hoff => .inl (by rwa [hc] at hoff))

theorem not_captures_of_off {s : State} (h : s.CapturesAgree) {c : Nat} (hoff : (s.chan c).state = .off) : ¬ s.Captures c := by
  intro hc
  have := (h.1 c).mpr hc
  rw [h.2 c hoff] at this
  simp at this

theorem resetChannel_capturesAgree {s : State} {c : Nat} (h : s.CapturesAgree) (hfree : ¬ s.Captures c) :
    (s.resetChannel c).CapturesAgree := by
  refine captures_of_eq (captures_setChan (x := (s.chan c).resetValues) h hfree rfl) (by simp) fun d => ?_
  rw [resetChannel_chan, chan_setChan]
  split
  · obtain ⟨rfl, -⟩ := ‹d = c ∧ c < 16›
    rfl
  · rfl

theorem applyConfigure_capturesAgree {s : State} {c parts : Nat} (h : s.CapturesAgree) :
    (applyConfigure s c parts).1.CapturesAgree := by
  unfold applyConfigure
  split
  · rename_i hoff
    unfold configureOff
    dsimp only
    split
    · refine captures_of_eq (captures_setChan (x := .configured parts) h (not_captures_of_off h hoff) rfl)
        (by simp [State.allocate, State.zeroSlots_eq]) fun d => ?_
      rw [chan_toHead, chan_setChan, chan_setChan, State.allocate, chan_zeroSlots]
      rfl
    · split <;> exact h
  · unfold configureOn
    dsimp only
    split_ifs
    · exact h
    · exact h
    · exact h
    · refine captures_of_eq (captures_modChan (g := fun ctx => ctx.shrunk parts) (c := c) h rfl id) (by simp [State.modChan_eq])
        fun d => ?_
      rw [chan_modChan, chan_modChan, chan_shrinkExtent]

theorem applyFreeze_capturesAgree {s : State} {c : Nat} (h : s.CapturesAgree) : (applyFreeze s c).1.CapturesAgree := by
  have hfrozen : ∀ p, ((s.modChan c (fun ctx => ctx.frozen p)).dequeue c).CapturesAgree := fun p =>
    captures_of_eq (captures_modChan (g := fun ctx => ctx.frozen p) (c := c) h rfl (by simp [Channel.frozen]))
      (by simp) fun d => by simp
  unfold applyFreeze withState
  cases (s.chan c).state with
  | acquire => exact hfrozen .acquire
  | track => exact hfrozen .track
  | _ => exact h

theorem applyThaw_capturesAgree {s : State} {c : Nat} (h : s.CapturesAgree) : (applyThaw s c).1.CapturesAgree := by
  unfold applyThaw withState
  cases (s.chan c).state with
  | held =>
    have hoff : ∀ x : Channel, x.thawed.state ≠ .off := fun x hx => by
      have := priorOf_adapts x.prior
      rw [show priorOf x.prior = .off from hx] at this
      simp [ChanState.adapts] at this
    have hthawed := captures_modChan (g := Channel.thawed) (c := c) h rfl (fun hx => absurd hx (hoff _))
    dsimp only [State.enqueueThawed]
    split
    · exact captures_of_eq hthawed (by simp) fun d => by simp
    · exact captures_of_eq hthawed (by simp) fun d => by simp
  | _ => exact h

/-- An application that completes at once keeps the flags, the transfer it ends having ended. -/
theorem immediate_capturesAgree {s : State} {e : Entry} {change : State → State × Code × Word} (hi : e.immediate = some change)
    (hfree : endsTransfer s e = true → ¬ s.Captures e.chan) (h : s.CapturesAgree) : (change s).1.CapturesAgree := by
  unfold Entry.immediate at hi
  cases ha : e.action with
  | capture index => simp [ha] at hi
  | restore index => simp [ha] at hi
  | configure parts =>
    obtain rfl : _ = change := by simpa [ha] using hi
    exact applyConfigure_capturesAgree h
  | release =>
    obtain rfl : _ = change := by simpa [ha] using hi
    dsimp only [applyRelease]
    split
    · exact h
    · rename_i hoff
      refine captures_of_eq (captures_setChan (x := .off) h (hfree (by simp [endsTransfer, ha, hoff])) rfl) (by simp) fun d => ?_
      rw [chan_setChan, chan_setChan, chan_dequeue, chan_releaseExtent]
  | reset =>
    obtain rfl : _ = change := by simpa [ha] using hi
    dsimp only [applyReset]
    split
    · exact h
    · rename_i hoff
      exact resetChannel_capturesAgree h (hfree (by simp [endsTransfer, ha, hoff]))
  | freeze =>
    obtain rfl : _ = change := by simpa [ha] using hi
    exact applyFreeze_capturesAgree h
  | thaw =>
    obtain rfl : _ = change := by simpa [ha] using hi
    exact applyThaw_capturesAgree h
  | setWindow w =>
    obtain rfl : _ = change := by simpa [ha] using hi
    dsimp only [applySetWindow]
    split
    · exact h
    · exact captures_modChan h rfl id
  | setTuning mask values =>
    obtain rfl : _ = change := by simpa [ha] using hi
    dsimp only [applySetTuning]
    split_ifs
    · exact h
    · exact h
    · exact captures_modChan h rfl id

/-- The end of a capture clears its flag and leaves no transfer. -/
theorem endCapture_capturesAgree {s : State} {u : Transfer} (h : s.CapturesAgree) (hu : s.transfer = some u)
    (_hd : u.direction = .capture) : (s.endCapture u).CapturesAgree := by
  obtain ⟨hflag, hnone⟩ := h
  have hchan : ∀ c, (s.endCapture u).chan c = if c = u.chan ∧ u.chan < 16 then { s.chan c with capture := false } else s.chan c :=
    fun c => by rw [State.endCapture, chan_setTransfer, chan_modChan]
  have hclear : ∀ c, ((s.endCapture u).chan c).capture = false := by
    intro c
    rw [hchan]
    split
    · rfl
    · rename_i hc
      by_contra hset
      obtain ⟨v, hv, -, hvc⟩ := (hflag c).mp (by simpa using hset)
      obtain rfl : u = v := Option.some.inj (hu.symm.trans hv)
      have hlt : ¬ c < 16 := fun hlt => hc ⟨hvc.symm, hvc ▸ hlt⟩
      simp [chan_of_le s c (Nat.not_lt.mp hlt), Channel.off] at hset
  refine ⟨fun c => ?_, fun c _ => hclear c⟩
  rw [hclear c]
  simp [State.endCapture]

/-- The start of a capture of a channel that filters sets its flag, none being set (R158). -/
theorem beginCapture_capturesAgree {s : State} {c : Nat} {u : Transfer} (h : s.CapturesAgree) (hc : u.chan = c)
    (hfilters : (s.chan c).state.filters = true) (hfree : ∀ v, s.transfer = some v → v.direction = .restore)
    (hd : u.direction = .capture) :
    ((s.modChan c (fun ctx => { ctx with capture := true })).setTransfer (some u)).CapturesAgree := by
  have hon : (s.chan c).state ≠ .off := fun hoff => by simp [hoff, ChanState.filters] at hfilters
  have hlt := lt_of_state_ne_off s c hon
  refine ⟨fun d => ?_, fun d => ?_⟩
  · rw [chan_setTransfer, chan_modChan]
    by_cases hdc : d = c
    · subst hdc
      simp [hlt, hd, hc]
    · have hne : ¬ c = d := fun e => hdc e.symm
      simp [hdc, hd, hc, hne, capture_false_of_free h (not_captures_of_free hfree d)]
  · rw [chan_setTransfer, chan_modChan]
    split
    · obtain ⟨rfl, -⟩ := ‹d = c ∧ c < 16›
      exact fun hoff => absurd hoff hon
    · exact h.2 d

theorem Move.keeps_captures {s t : State} (h : Move s t) (hs : s.CapturesAgree) : t.CapturesAgree := by
  cases h with
  | aside h => rw [h]; exact captures_same hs rfl rfl
  | tally h => rw [h.1]; exact captures_same hs rfl rfl
  | write a bytes => exact captures_same hs rfl rfl
  | gap k =>
    obtain ⟨_, _, _, _, he⟩ := countedGap_fields s k
    rw [he]
    exact captures_same hs rfl rfl
  | push k blocks =>
    obtain ⟨_, _, _, _, he⟩ := pushed_fields s k blocks
    rw [he]
    exact captures_same hs rfl rfl
  | frame f g => exact captures_same hs rfl rfl
  | entered f => exact captures_same hs rfl rfl
  | rotate f => exact captures_same hs rfl rfl
  | unlist e => exact captures_same hs rfl rfl
  | file r d action => exact captures_same hs rfl rfl
  | parity c => exact captures_modChan hs rfl id
  | attenuate f c => exact captures_modChan hs rfl id
  | commit f c hf hp hc hd =>
    refine captures_modChan hs rfl fun hoff => ?_
    simp only [State.commits, Bool.and_eq_true, decide_eq_true_eq] at hc
    rcases stageSeven_state (f.ctx c) s.history.lx (f.chanWork c) with h | ⟨-, -, h⟩
    · exact hc.2.trans (h.symm.trans hoff)
    · exact absurd hoff h
  | diverge f c k =>
    obtain ⟨_, he⟩ := requeueDiverged_eq (s.commitChan c ((s.stageSevenOf f c).diverged f.count)) c
      ((s.stageSevenOf f c).diverged f.count)
    rw [he]
    refine captures_of_eq (captures_modChan (c := c) (g := fun live => live.commit ((s.stageSevenOf f c).diverged f.count)) hs rfl
      fun hoff => ?_) rfl fun _ => rfl
    rcases diverged_state (s.stageSevenOf f c) f.count with h | h <;>
      simp [Channel.commit, h] at hoff
  | takeEnd u hu hr =>
    have hd : u.direction = .restore := by
      simp only [Transfer.endReady, Bool.and_eq_true, decide_eq_true_eq] at hr
      exact hr.1
    have hrestored := captures_modChan (c := u.chan) (g := fun ctx => ctx.restored u) hs rfl (by simp [Channel.restored])
    exact captures_setTransfer (captures_of_eq hrestored (by simp) (fun c => by simp))
      (fun c => not_captures_of_restore (u := u) (by simpa [State.modChan_eq] using hu) hd c) (by simp)
  | endCapture u hu hd => exact endCapture_capturesAgree hs hu hd
  | dropRestore u hu hd => exact captures_setTransfer hs (not_captures_of_restore hu hd) (by simp)
  | abortRestore u hu hd =>
    exact captures_setTransfer (resetChannel_capturesAgree hs (not_captures_of_restore hu hd _))
      (not_captures_of_restore (u := u) (by simpa using hu) hd) (by simp)
  | transfer u v hu hd hc =>
    refine captures_congr hs (fun c => ?_) (fun _ => rfl) (fun _ => .inl)
    unfold State.Captures
    simp [hu, hd, hc]
  | beginCapture c u hc hfilters hfree hd => exact beginCapture_capturesAgree hs hc hfilters hfree hd
  | beginRestore c u hc hfilters hfree hd =>
    have hentered := captures_modChan (c := c) (g := Channel.enterRestoring) hs rfl (by simp [Channel.enterRestoring])
    exact captures_setTransfer (captures_of_eq hentered (by simp) (fun c => by simp))
      (not_captures_of_free (by simpa [State.modChan_eq] using hfree)) (by simpa using hd)
  | apply f e change hf hp hw he hm hfree hi =>
    refine immediate_capturesAgree hi (fun hends => ?_) (captures_same hs rfl rfl)
    rintro ⟨u, hu, -, huc⟩
    exact hfree hends u hu huc

theorem Act.keeps_captures {s t : State} (h : Act s t) (hs : s.CapturesAgree) : t.CapturesAgree := by
  cases h with
  | turn h =>
    cases h with
    | move h => exact h.keeps_captures hs
    | _ => exact captures_same hs rfl rfl
  | clear =>
    refine ⟨fun c => ?_, fun c _ => ?_⟩
    · rw [cleared_chan]
      simp [Channel.off, State.cleared, State.reset]
    · rw [cleared_chan]
      rfl
  | _ => exact captures_same hs rfl rfl

end Sys2Proof.Machine

namespace Sys2Proof

open Sys2Proof.Machine

/-- Settles O58: a flag is set where a capture starts and cleared where it ends, and no application touches the flag of a channel whose
transfer it has not ended. -/
theorem capturesStayMarked : Obligations.CapturesStayMarked :=
  fun _ _ hs h => step_keeps (P := State.CapturesAgree) (fun _ _ => Act.keeps_captures) hs h

end Sys2Proof
end

section
/-! What claims a channel: a filed action, a transfer, a divergence event's zeroing. No transfer and no zeroing is ever on a channel in
OFF, and every filed action carries parameters in range; the invariants of ranges and of the pool both rest on this. -/

namespace Sys2Proof.Machine

/-- Every filed action is in range, and no transfer and no divergence event is on a channel in OFF. -/
def State.ClaimsSound (s : State) : Prop :=
  (∀ e ∈ s.table, e.action.InRange) ∧ (∀ t, s.transfer = some t → (s.chan t.chan).state ≠ .off) ∧
  (∀ f c k, s.flight = some f → f.phase = .zeroing c k → (s.chan c).state ≠ .off)

/-! ### Applications, one channel at a time -/

/-- An application that completes at once touches no other channel's context. -/
theorem immediate_chan_other {e : Entry} {change : State → State × Code × Word} (hi : e.immediate = some change) (s : State)
    {d : Nat} (hd : d ≠ e.chan) : ((change s).1.chan d) = s.chan d := by
  unfold Entry.immediate at hi
  cases ha : e.action with
  | capture index => simp [ha] at hi
  | restore index => simp [ha] at hi
  | configure parts =>
    obtain rfl : _ = change := by simpa [ha] using hi
    dsimp only [applyConfigure, configureOff, configureOn]
    split
    · split
      · simp [chan_setChan, hd, State.allocate]
        rfl
      · split <;> rfl
    · split_ifs <;> simp [chan_modChan, hd]
  | release =>
    obtain rfl : _ = change := by simpa [ha] using hi
    dsimp only [applyRelease]
    split <;> simp [chan_setChan, hd]
  | reset =>
    obtain rfl : _ = change := by simpa [ha] using hi
    dsimp only [applyReset]
    split <;> simp [resetChannel_chan, hd]
  | freeze =>
    obtain rfl : _ = change := by simpa [ha] using hi
    dsimp only [applyFreeze, withState]
    split <;> simp [chan_modChan, hd]
  | thaw =>
    obtain rfl : _ = change := by simpa [ha] using hi
    dsimp only [applyThaw, withState, State.enqueueThawed]
    split
    · split <;> simp [chan_modChan, hd]
    all_goals rfl
  | setWindow w =>
    obtain rfl : _ = change := by simpa [ha] using hi
    dsimp only [applySetWindow]
    split <;> simp [chan_modChan, hd]
  | setTuning mask values =>
    obtain rfl : _ = change := by simpa [ha] using hi
    dsimp only [applySetTuning]
    split_ifs <;> simp [chan_modChan, hd]

/-- What an application that completes at once may make of its channel's context. -/
inductive Reshaped (s : State) (e : Entry) : Channel → Prop where
  | same : Reshaped s e (s.chan e.chan)
  | configured (parts : Nat) (ha : e.action = .configure parts) : Reshaped s e (Channel.configured parts)
  | shrunk (parts : Nat) (ha : e.action = .configure parts) (h : parts < (s.chan e.chan).parts)
      (hon : (s.chan e.chan).state ≠ .off) : Reshaped s e ((s.chan e.chan).shrunk parts)
  | released (ha : e.action = .release) : Reshaped s e .off
  | reset (hon : (s.chan e.chan).state ≠ .off) : Reshaped s e (s.chan e.chan).resetValues
  | frozen (prior : PriorState) (hon : (s.chan e.chan).state ≠ .off) : Reshaped s e ((s.chan e.chan).frozen prior)
  | thawed (hon : (s.chan e.chan).state ≠ .off) : Reshaped s e (s.chan e.chan).thawed
  | window (w : AdaptWindow) (hon : (s.chan e.chan).state ≠ .off) :
      Reshaped s e { s.chan e.chan with window := { w with n := min w.n (s.chan e.chan).parts } }
  | tuning (mask : BitVec 16) (values : List Int) (ha : e.action = .setTuning mask values)
      (hon : (s.chan e.chan).state ≠ .off)
      (h : ¬ ((s.chan e.chan).tuning.merge mask values).muAcq < ((s.chan e.chan).tuning.merge mask values).muTrk) :
      Reshaped s e ((s.chan e.chan).retuned ((s.chan e.chan).tuning.merge mask values))

theorem immediate_reshaped {e : Entry} {change : State → State × Code × Word} (hi : e.immediate = some change) (s : State)
    (hc : e.chan < 16) : Reshaped s e ((change s).1.chan e.chan) := by
  unfold Entry.immediate at hi
  cases ha : e.action with
  | capture index => simp [ha] at hi
  | restore index => simp [ha] at hi
  | configure parts =>
    obtain rfl : _ = change := by simpa [ha] using hi
    dsimp only [applyConfigure, configureOff, configureOn]
    split
    · split
      · simpa [chan_setChan, hc] using Reshaped.configured parts ha
      · split <;> exact .same
    · rename_i hon
      split_ifs with h1 h2 h3
      · exact .same
      · exact .same
      · exact .same
      · simpa [chan_modChan, hc] using Reshaped.shrunk parts ha (by omega) hon
  | release =>
    obtain rfl : _ = change := by simpa [ha] using hi
    dsimp only [applyRelease]
    split
    · exact .same
    · simpa [chan_setChan, hc] using Reshaped.released ha
  | reset =>
    obtain rfl : _ = change := by simpa [ha] using hi
    dsimp only [applyReset]
    split
    · exact .same
    · rename_i hon
      simpa [resetChannel_chan, hc] using Reshaped.reset hon
  | freeze =>
    obtain rfl : _ = change := by simpa [ha] using hi
    dsimp only [applyFreeze, withState]
    cases hs : (s.chan e.chan).state with
    | acquire => simpa [chan_modChan, hc] using Reshaped.frozen .acquire (by simp [hs])
    | track => simpa [chan_modChan, hc] using Reshaped.frozen .track (by simp [hs])
    | _ => exact .same
  | thaw =>
    obtain rfl : _ = change := by simpa [ha] using hi
    dsimp only [applyThaw, withState, State.enqueueThawed]
    cases hs : (s.chan e.chan).state with
    | held =>
      have h : Reshaped s e (s.chan e.chan).thawed := .thawed (by simp [hs])
      dsimp only
      split <;> simpa [chan_modChan, hc] using h
    | _ => exact .same
  | setWindow w =>
    obtain rfl : _ = change := by simpa [ha] using hi
    dsimp only [applySetWindow]
    split
    · exact .same
    · rename_i hon
      simpa [chan_modChan, hc] using Reshaped.window w hon
  | setTuning mask values =>
    obtain rfl : _ = change := by simpa [ha] using hi
    dsimp only [applySetTuning]
    split_ifs with hoff h
    · exact .same
    · exact .same
    · simpa [chan_modChan, hc] using Reshaped.tuning mask values ha hoff h

theorem priorOf_ne_off (prior : Option PriorState) : priorOf prior ≠ .off := by
  rcases prior with _ | _ | _ <;> simp [priorOf]

/-- Only a release puts a channel in OFF (R75). -/
theorem Reshaped.state {s : State} {e : Entry} {x : Channel} (h : Reshaped s e x) (hon : (s.chan e.chan).state ≠ .off) :
    x.state ≠ .off ∨ e.action = .release := by
  cases h with
  | released ha => exact .inr ha
  | same => exact .inl hon
  | configured parts => exact .inl (by simp [Channel.configured])
  | shrunk parts => exact .inl (by simpa [Channel.shrunk] using hon)
  | reset => exact .inl (by simp [Channel.resetValues])
  | frozen prior => exact .inl (by simp [Channel.frozen])
  | thawed => exact .inl (priorOf_ne_off _)
  | window w => exact .inl hon
  | tuning mask values => exact .inl hon

/-! ### Filed actions (R141) -/

theorem tuningFails_false {r : Record} {i : Nat} (h : ¬ r.tuningFails i = true) (hm : (r.paramHalf 0).getLsbD i = true) :
    (tuningRange i).1 ≤ r.tuningValue i ∧ r.tuningValue i ≤ (tuningRange i).2 := by
  simp only [Record.tuningFails, hm, Bool.true_and, Bool.or_eq_true, decide_eq_true_eq, not_or, not_lt] at h
  exact h.1

/-- A record whose parameters passed intake stands for an action in range. -/
theorem action_inRange {r : Record} {action : Action} (hp : r.paramFault = none) (ha : r.action = some action) :
    action.InRange := by
  unfold Record.action at ha
  split at ha <;> rename_i hk <;> simp only [Record.paramFault, hk] at hp
  · obtain rfl := Option.some.inj ha
    by_contra hout
    exact absurd hp (by simpa [Action.InRange] using hout)
  · obtain rfl := Option.some.inj ha
    trivial
  · obtain rfl := Option.some.inj ha
    trivial
  · obtain rfl := Option.some.inj ha
    trivial
  · obtain rfl := Option.some.inj ha
    trivial
  · obtain ⟨mode, -, rfl⟩ := Option.map_eq_some_iff.mp ha
    split_ifs at hp
    simp only [Action.InRange]
    omega
  · obtain rfl := Option.some.inj ha
    split_ifs at hp
    simp only [Option.map_eq_none_iff, List.find?_eq_none, List.mem_range] at hp
    intro i hi hm
    simpa [hi] using tuningFails_false (hp i hi) hm
  · obtain rfl := Option.some.inj ha
    split_ifs at hp with h
    exact h
  · obtain rfl := Option.some.inj ha
    split_ifs at hp with h
    exact h
  · simp at ha

theorem Move.table_inRange {s t : State} (h : Move s t) (hs : ∀ e ∈ s.table, e.action.InRange) :
    ∀ e ∈ t.table, e.action.InRange := by
  intro e he
  rcases h.table with heq | ⟨x, heq⟩ | ⟨r, d, action, hr, ha, heq⟩
  · exact hs e (heq ▸ he)
  · exact hs e (List.mem_of_mem_erase (heq ▸ he))
  · rcases mem_insertEntry.mp (heq ▸ he) with rfl | hmem
    · exact action_inRange (refusal_none hr ha).1 ha
    · exact hs e hmem

/-! ### Every change keeps the claims -/

/-- Stage 7 of a channel that it acts on leaves no channel in OFF. -/
theorem stageSevenOf_on {s : State} {f : Flight} {c : Nat} (hc : s.commits f c = true) : (s.stageSevenOf f c).state ≠ .off := by
  simp only [State.commits, Bool.and_eq_true, decide_eq_true_eq] at hc
  rcases stageSeven_state (f.ctx c) s.history.lx (f.chanWork c) with h | ⟨-, -, h⟩
  · rw [State.stageSevenOf, h]
    exact hc.1
  · exact h

theorem diverged_on (x : Channel) (n : Word) : (x.diverged n).state ≠ .off := by
  rcases diverged_state x n with h | h <;> simp [h]

/-- A change of one context that leaves it outside OFF leaves every configured channel configured. -/
theorem on_modChan {s : State} {c : Nat} {g : Channel → Channel} (hg : (s.chan c).state ≠ .off → (g (s.chan c)).state ≠ .off) (d : Nat)
    (hd : (s.chan d).state ≠ .off) : ((s.modChan c g).chan d).state ≠ .off := by
  rw [chan_modChan]
  split
  · obtain ⟨rfl, -⟩ := ‹d = c ∧ c < 16›
    exact hg hd
  · exact hd

/-- A move takes a channel to OFF by a release alone, which no transfer on the channel survives (R75, R162). -/
theorem Move.on {s t : State} (h : Move s t) (c : Nat) (hs : (s.chan c).state ≠ .off) :
    (t.chan c).state ≠ .off ∨
      (∃ f, t.flight = some f ∧ f.phase = .apply) ∧ t.transfer = s.transfer ∧ ∀ u, s.transfer = some u → u.chan ≠ c := by
  have hsame : t.channels = s.channels → (t.chan c).state ≠ .off := fun hc => by rwa [chan_congr hc]
  cases h with
  | aside h => exact .inl (hsame (by rw [h]))
  | tally h => exact .inl (hsame (by rw [h.1]))
  | gap k =>
    obtain ⟨_, _, _, _, he⟩ := countedGap_fields s k
    exact .inl (hsame (by rw [he]))
  | push k blocks =>
    obtain ⟨_, _, _, _, he⟩ := pushed_fields s k blocks
    exact .inl (hsame (by rw [he]))
  | parity d => exact .inl (on_modChan (g := Channel.countParity) (fun h => h) c hs)
  | attenuate f d => exact .inl (on_modChan (fun h => h) c hs)
  | commit f d hf hp hc hd => exact .inl (on_modChan (fun _ => stageSevenOf_on hc) c hs)
  | diverge f d k =>
    obtain ⟨_, he⟩ := requeueDiverged_eq (s.commitChan d ((s.stageSevenOf f d).diverged f.count)) d
      ((s.stageSevenOf f d).diverged f.count)
    rw [he, chan_setQueue]
    exact .inl (on_modChan (fun _ => diverged_on _ _) c hs)
  | takeEnd u =>
    rw [chan_setTransfer, chan_toTail]
    exact .inl (on_modChan (g := fun ctx => ctx.restored u) (fun _ => by simp [Channel.restored]) c hs)
  | endCapture u =>
    rw [State.endCapture, chan_setTransfer]
    exact .inl (on_modChan (g := fun ctx => { ctx with capture := false }) id c hs)
  | abortRestore u =>
    refine .inl ?_
    rw [chan_setTransfer, resetChannel_chan]
    split
    · simp [Channel.resetValues]
    · exact hs
  | beginCapture d u =>
    rw [chan_setTransfer]
    exact .inl (on_modChan (g := fun ctx => { ctx with capture := true }) id c hs)
  | beginRestore d u =>
    rw [chan_setTransfer, chan_dequeue]
    exact .inl (on_modChan (fun _ => by simp [Channel.enterRestoring]) c hs)
  | apply f e change hf hp hw he hm hfree hi =>
    by_cases hce : c = e.chan
    · subst hce
      have hshape := immediate_reshaped hi (s.removeEntry e) (lt_of_state_ne_off s _ hs)
      rcases hshape.state hs with hon | hrel
      · exact .inl hon
      · obtain ⟨_, _, _, _, heq⟩ := immediate_eq hi (s.removeEntry e)
        rw [heq]
        exact .inr ⟨⟨f, hf, hp⟩, rfl, hfree (by simp [endsTransfer, hrel, hs])⟩
    · exact .inl (by rw [immediate_chan_other hi _ hce]; exact hs)
  | _ => exact .inl hs

theorem Move.keeps_claims {s t : State} (h : Move s t) (hs : s.ClaimsSound) : t.ClaimsSound := by
  obtain ⟨htable, htransfer, hzeroing⟩ := hs
  have hon := h.on
  refine ⟨h.table_inRange htable, ?_, ?_⟩
  · intro u hu
    have hstays : ∀ v, s.transfer = some v → v.chan = u.chan → (t.chan u.chan).state ≠ .off := fun v hv hc => by
      rcases hon u.chan (hc ▸ htransfer v hv) with h | ⟨-, -, h⟩
      · exact h
      · exact absurd hc (h v hv)
    by_cases hsame : s.transfer = some u
    · exact hstays u hsame rfl
    · cases h with
      | aside h => rw [h] at hu; exact absurd hu hsame
      | tally h => rw [h.1] at hu; exact absurd hu hsame
      | gap k =>
        obtain ⟨_, _, _, _, he⟩ := countedGap_fields s k
        rw [he] at hu
        exact absurd hu hsame
      | push k blocks =>
        obtain ⟨_, _, _, _, he⟩ := pushed_fields s k blocks
        rw [he] at hu
        exact absurd hu hsame
      | diverge f c k =>
        obtain ⟨_, he⟩ := requeueDiverged_eq (s.commitChan c ((s.stageSevenOf f c).diverged f.count)) c
          ((s.stageSevenOf f c).diverged f.count)
        rw [he] at hu
        exact absurd hu hsame
      | transfer v w hv hd hc =>
        obtain rfl : w = u := Option.some.inj hu
        exact hstays v hv hc.symm
      | beginCapture c v hc hfilters =>
        obtain rfl : v = u := Option.some.inj hu
        subst hc
        rw [chan_setTransfer]
        exact on_modChan (g := fun ctx => { ctx with capture := true }) id _ fun hoff => by
          simp [hoff, ChanState.filters] at hfilters
      | beginRestore c v hc hfilters =>
        obtain rfl : v = u := Option.some.inj hu
        subst hc
        rw [chan_setTransfer, chan_dequeue]
        exact on_modChan (fun _ => by simp [Channel.enterRestoring]) _ fun hoff => by
          simp [hoff, ChanState.filters] at hfilters
      | apply f e change hf hp hw he hm hfree hi =>
        obtain ⟨_, _, _, _, heq⟩ := immediate_eq hi (s.removeEntry e)
        rw [heq] at hu
        exact absurd hu hsame
      | takeEnd v => simp at hu
      | endCapture v => simp [State.endCapture] at hu
      | dropRestore v => simp at hu
      | abortRestore v => simp at hu
      | _ => exact absurd hu hsame
  · intro f c k hf hp
    have hstays : (s.chan c).state ≠ .off → (t.chan c).state ≠ .off := fun hc => by
      rcases hon c hc with h | ⟨⟨g, hg, hpg⟩, -, -⟩
      · exact h
      · obtain rfl : f = g := Option.some.inj (hf.symm.trans hg)
        simp [hp] at hpg
    by_cases hsame : s.flight = some f
    · exact hstays (hzeroing f c k hsame hp)
    · cases h with
      | aside h => rw [h] at hf; exact absurd hf hsame
      | tally h => rw [h.1] at hf; exact absurd hf hsame
      | gap k =>
        obtain ⟨_, _, _, _, he⟩ := countedGap_fields s k
        rw [he] at hf
        exact absurd hf hsame
      | push k blocks =>
        obtain ⟨_, _, _, _, he⟩ := pushed_fields s k blocks
        rw [he] at hf
        exact absurd hf hsame
      | diverge g d j =>
        obtain ⟨_, he⟩ := requeueDiverged_eq (s.commitChan d ((s.stageSevenOf g d).diverged g.count)) d
          ((s.stageSevenOf g d).diverged g.count)
        rw [he] at hf
        exact absurd hf hsame
      | frame g f' hg h =>
        obtain rfl : f' = f := Option.some.inj hf
        rcases h.zeroing c k hp with ⟨j, hj⟩ | hc
        · exact hzeroing g c j hg hj
        · exact hc
      | entered g hg hpg =>
        obtain rfl : g.entered s = f := Option.some.inj hf
        simp [Flight.entered] at hp
      | abortRestore v =>
        obtain ⟨_, _, _, heq⟩ := resetChannel_fields s v.chan
        rw [heq] at hf
        exact absurd hf hsame
      | apply g e change hg hpg hw he hm hfree hi =>
        obtain ⟨_, _, _, _, heq⟩ := immediate_eq hi (s.removeEntry e)
        rw [heq] at hf
        exact absurd hf hsame
      | _ => exact absurd hf hsame

theorem Act.keeps_claims {s t : State} (h : Act s t) (hs : s.ClaimsSound) : t.ClaimsSound := by
  obtain ⟨htable, htransfer, hzeroing⟩ := hs
  cases h with
  | turn h =>
    cases h with
    | move h => exact h.keeps_claims ⟨htable, htransfer, hzeroing⟩
    | clock taken done => exact ⟨htable, htransfer, hzeroing⟩
    | begin w1 byStep =>
      refine ⟨htable, htransfer, fun f c k hf hp => ?_⟩
      obtain rfl := Option.some.inj hf
      simp [Flight.begin] at hp
    | close => exact ⟨htable, htransfer, by simp⟩
  | engine v => exact ⟨htable, htransfer, hzeroing⟩
  | raise f => exact ⟨htable, htransfer, by simp⟩
  | readFault data => exact ⟨htable, htransfer, hzeroing⟩
  | start p => exact ⟨htable, htransfer, hzeroing⟩
  | clear => exact ⟨by simp [State.cleared, State.reset], by simp [State.cleared, State.reset], by simp [State.cleared, State.reset]⟩

end Sys2Proof.Machine
end

section
/-! R9, R11, R17, R60, R66, R67, R175: the ranges. Each rule of the channel table, of the reference history and of the report counts keeps
its quantities in range; then every single change of state does. -/

namespace Sys2Proof.Machine

/-! ### Contexts -/

theorem tuning_default_inRange : Tuning.default.InRange := by
  simp [Tuning.InRange, Tuning.default]

theorem channel_off_inRange : Channel.off.InRange := by
  simp [Channel.InRange, Channel.off, AdaptWindow.default, tuning_default_inRange]
  simp [Tuning.default]

section
variable {x : Channel}

theorem countParity_inRange (h : x.InRange) : x.countParity.InRange := by
  unfold Channel.InRange Channel.countParity saturatingAdd Config.parityLimit at *
  dsimp only at *
  refine ⟨h.1, h.2.1, h.2.2.1, h.2.2.2.1, h.2.2.2.2.1, h.2.2.2.2.2.1, by omega, h.2.2.2.2.2.2.2⟩

theorem resetValues_inRange (h : x.InRange) (hon : x.state ≠ .off) : x.resetValues.InRange := by
  obtain ⟨-, -, -, -, -, -, -, -, hn, hparts, htuning⟩ := h
  have hhang := htuning.2.2.2.2.2.2.1
  simp only [Channel.InRange, Channel.resetValues]
  exact ⟨by omega, by omega, by omega, by omega, by omega, by simpa using hhang.1, by omega, by simp, hn, fun _ => hparts hon, htuning⟩

theorem configured_inRange {parts : Nat} (h : 4 ≤ parts ∧ parts ≤ 64) : (Channel.configured parts).InRange := by
  simp only [Channel.InRange, Channel.configured, Channel.off, AdaptWindow.default]
  exact ⟨by omega, by omega, by omega, by omega, by omega, by simp [Tuning.default], by omega, by simp, by omega, fun _ => h,
    tuning_default_inRange⟩

theorem shrunk_inRange {parts : Nat} (h : x.InRange) (hp : 4 ≤ parts ∧ parts ≤ 64) : (x.shrunk parts).InRange := by
  obtain ⟨herle, hcoupling, hatten, hstrikes, hdwell, hhang, hparity, hdiv, -, -, htuning⟩ := h
  exact ⟨herle, hcoupling, hatten, hstrikes, hdwell, hhang, hparity, hdiv, Nat.min_le_right _ _, fun _ => hp, htuning⟩

/-- A change of state, prior state and dwell to 0 keeps a configured context in range. -/
theorem restated_inRange (h : x.InRange) (hon : x.state ≠ .off) (v : ChanState) (p : Option PriorState) :
    ({ x with state := v, prior := p, dwell := 0 } : Channel).InRange := by
  obtain ⟨herle, hcoupling, hatten, hstrikes, -, hhang, hparity, hdiv, hn, hparts, htuning⟩ := h
  exact ⟨herle, hcoupling, hatten, hstrikes, by simp, hhang, hparity, hdiv, hn, fun _ => hparts hon, htuning⟩

theorem thawed_inRange (h : x.InRange) (hon : x.state ≠ .off) : x.thawed.InRange := by
  obtain ⟨herle, hcoupling, hatten, hstrikes, hdwell, hhang, hparity, hdiv, hn, hparts, htuning⟩ := h
  exact ⟨herle, hcoupling, hatten, hstrikes, hdwell, hhang, hparity, hdiv, hn, fun _ => hparts hon, htuning⟩

theorem windowed_inRange (h : x.InRange) (w : AdaptWindow) :
    ({ x with window := { w with n := min w.n x.parts } } : Channel).InRange := by
  obtain ⟨herle, hcoupling, hatten, hstrikes, hdwell, hhang, hparity, hdiv, -, hparts, htuning⟩ := h
  exact ⟨herle, hcoupling, hatten, hstrikes, hdwell, hhang, hparity, hdiv, Nat.min_le_right _ _, hparts, htuning⟩

theorem attenuated_inRange (h : x.InRange) {a : Int} (ha : -160 ≤ a ∧ a ≤ 0) : ({ x with atten := a } : Channel).InRange := by
  obtain ⟨herle, hcoupling, -, hstrikes, hdwell, hhang, hparity, hdiv, hn, hparts, htuning⟩ := h
  exact ⟨herle, hcoupling, ha, hstrikes, hdwell, hhang, hparity, hdiv, hn, hparts, htuning⟩

theorem restored_inRange (h : x.InRange) (hon : x.state ≠ .off) {u : Transfer} (he : -96 ≤ u.erle ∧ u.erle ≤ 240)
    (hk : -240 ≤ u.coupling ∧ u.coupling ≤ 48) : (x.restored u).InRange := by
  obtain ⟨-, -, hatten, -, -, -, hparity, hdiv, hn, hparts, htuning⟩ := h
  have hhang := htuning.2.2.2.2.2.2.1
  exact ⟨he, hk, hatten, Nat.zero_le _, Nat.zero_le _, hhang.1, hparity, hdiv, hn, fun _ => hparts hon, htuning⟩

end

/-! ### SET_TUNING (R67, R79) -/

/-- Every tuning field lies in the range of the table, the order of the two step sizes apart. -/
def Tuning.FieldsInRange (t : Tuning) : Prop :=
  (1 ≤ t.muAcq ∧ t.muAcq ≤ 32767) ∧ (1 ≤ t.muTrk ∧ t.muTrk ≤ 32767) ∧ (8 ≤ t.tConv ∧ t.tConv ≤ 200) ∧
  (1 ≤ t.dConv ∧ t.dConv ≤ 1000) ∧ (1 ≤ t.dRecheck ∧ t.dRecheck ≤ 1000) ∧ (0 ≤ t.mDt ∧ t.mDt ≤ 48) ∧
  (0 ≤ t.hang ∧ t.hang ≤ 250) ∧ (-160 ≤ t.floor ∧ t.floor ≤ 0) ∧ (1 ≤ t.attack ∧ t.attack ≤ 48) ∧
  (1 ≤ t.release ∧ t.release ≤ 48)

theorem tuning_inRange_iff (t : Tuning) : t.InRange ↔ t.FieldsInRange ∧ t.muTrk ≤ t.muAcq := by
  unfold Tuning.InRange Tuning.FieldsInRange
  omega

theorem setField_fieldsInRange {t : Tuning} {i : Nat} {v : Int} (h : t.FieldsInRange) (hi : i < 10)
    (hv : (tuningRange i).1 ≤ v ∧ v ≤ (tuningRange i).2) : (t.setField i v).FieldsInRange := by
  unfold Tuning.FieldsInRange at *
  obtain ⟨h0, h1, h2, h3, h4, h5, h6, h7, h8, h9⟩ := h
  interval_cases i
  · exact ⟨hv, h1, h2, h3, h4, h5, h6, h7, h8, h9⟩
  · exact ⟨h0, hv, h2, h3, h4, h5, h6, h7, h8, h9⟩
  · exact ⟨h0, h1, hv, h3, h4, h5, h6, h7, h8, h9⟩
  · exact ⟨h0, h1, h2, hv, h4, h5, h6, h7, h8, h9⟩
  · exact ⟨h0, h1, h2, h3, hv, h5, h6, h7, h8, h9⟩
  · exact ⟨h0, h1, h2, h3, h4, hv, h6, h7, h8, h9⟩
  · exact ⟨h0, h1, h2, h3, h4, h5, hv, h7, h8, h9⟩
  · exact ⟨h0, h1, h2, h3, h4, h5, h6, hv, h8, h9⟩
  · exact ⟨h0, h1, h2, h3, h4, h5, h6, h7, hv, h9⟩
  · exact ⟨h0, h1, h2, h3, h4, h5, h6, h7, h8, hv⟩

theorem merge_fieldsInRange {t : Tuning} {mask : BitVec 16} {values : List Int} (h : t.FieldsInRange)
    (ha : (Action.setTuning mask values).InRange) : (t.merge mask values).FieldsInRange := by
  refine List.foldlRecOn (motive := Tuning.FieldsInRange) _ _ h fun u hu i hi => ?_
  have hi10 : i < 10 := List.mem_range.mp hi
  split
  · exact setField_fieldsInRange hu hi10 (ha i hi10 ‹_›)
  · exact hu

/-- A merge that is not refused leaves the tuning in range, and h at most the new H (R60). -/
theorem retuned_inRange {x : Channel} {mask : BitVec 16} {values : List Int} (h : x.InRange)
    (ha : (Action.setTuning mask values).InRange) (hmu : ¬ (x.tuning.merge mask values).muAcq < (x.tuning.merge mask values).muTrk) :
    (x.retuned (x.tuning.merge mask values)).InRange := by
  obtain ⟨herle, hcoupling, hatten, hstrikes, hdwell, -, hparity, hdiv, hn, hparts, htuning⟩ := h
  have hfields := merge_fieldsInRange ((tuning_inRange_iff _).mp htuning).1 ha
  have hhang := hfields.2.2.2.2.2.2.1
  refine ⟨herle, hcoupling, hatten, hstrikes, hdwell, ?_, hparity, hdiv, hn, hparts,
    (tuning_inRange_iff _).mpr ⟨hfields, not_lt.mp hmu⟩⟩
  simp only [Channel.retuned]
  omega

/-- An application that completes at once leaves its channel's context in range. -/
theorem Reshaped.inRange {s : State} {e : Entry} {x : Channel} (h : Reshaped s e x) (hs : (s.chan e.chan).InRange)
    (ha : e.action.InRange) : x.InRange := by
  cases h with
  | same => exact hs
  | configured parts he => exact configured_inRange (by rwa [he] at ha)
  | shrunk parts he => exact shrunk_inRange hs (by rwa [he] at ha)
  | released => exact channel_off_inRange
  | reset hon => exact resetValues_inRange hs hon
  | frozen prior hon => exact restated_inRange hs hon _ _
  | thawed hon => exact thawed_inRange hs hon
  | window w => exact windowed_inRange hs w
  | tuning mask values he hon hmu => exact retuned_inRange hs (by rwa [he] at ha) hmu

/-! ### Stage 7 and stage 8 (R64, R81 to R87, R123) -/

section
variable {x : Channel}

theorem measureStep_inRange (lx : Int) (w : ChanWork) (h : x.InRange) : (measureStep x lx w).InRange := by
  obtain ⟨herle, hcoupling, hatten, hstrikes, hdwell, hhang, hparity, hdiv, hn, hparts, htuning⟩ := h
  unfold measureStep
  split
  · refine ⟨?_, clamp_range (by decide) _, hatten, hstrikes, hdwell, hhang, hparity, hdiv, hn, hparts, htuning⟩
    dsimp only
    split
    · have htarget := clamp_range (lo := -96) (hi := 240) (by decide) (w.lm - w.le)
      have hstep := smooth_between (v := x.erle) (t := clamp (w.lm - w.le) (-96) 240) (d := 8) (by decide)
      unfold erleStep
      omega
    · exact herle
  · exact ⟨herle, hcoupling, hatten, hstrikes, hdwell, hhang, hparity, hdiv, hn, hparts, htuning⟩

theorem dwellTest_inRange (h : x.InRange) (q : Bool) {limit : Int} (hl : limit ≤ 1000) (next : ChanState) (hon : x.state ≠ .off) :
    (dwellTest x q limit next).InRange := by
  obtain ⟨herle, hcoupling, hatten, hstrikes, hdwell, hhang, hparity, hdiv, hn, hparts, htuning⟩ := h
  rcases dwellTest_cases x q limit next with heq | ⟨hlt, heq⟩
  · rw [heq]
    exact ⟨herle, hcoupling, hatten, hstrikes, Nat.zero_le _, hhang, hparity, hdiv, hn, fun _ => hparts hon, htuning⟩
  · rw [heq]
    refine ⟨herle, hcoupling, hatten, hstrikes, ?_, hhang, hparity, hdiv, hn, hparts, htuning⟩
    show (if q then x.dwell + 1 else 0) ≤ 1000
    omega

theorem dwellStep_inRange (w : ChanWork) (h : x.InRange) : (dwellStep x w).InRange := by
  unfold dwellStep
  have htuning := h.2.2.2.2.2.2.2.2.2.2
  split
  · cases hs : x.state with
    | acquire => exact dwellTest_inRange h _ htuning.2.2.2.1.2 _ (by simp [hs])
    | track => exact dwellTest_inRange h _ htuning.2.2.2.2.1.2 _ (by simp [hs])
    | _ => exact h
  · exact h

theorem dwellTest_tuning (q : Bool) (limit : Int) (next : ChanState) : (dwellTest x q limit next).tuning = x.tuning := by
  rcases dwellTest_cases x q limit next with h | ⟨-, h⟩ <;> rw [h]

@[simp] theorem measureStep_tuning (lx : Int) (w : ChanWork) : (measureStep x lx w).tuning = x.tuning := by
  unfold measureStep
  split <;> rfl

@[simp] theorem dwellStep_tuning (w : ChanWork) : (dwellStep x w).tuning = x.tuning := by
  unfold dwellStep
  split
  · split <;> simp [dwellTest_tuning]
  · rfl

end

/-- Every quantity that stage 7 forms lies in range, the strikes apart. -/
theorem stageSeven_calm_inRange {x : Channel} {w : ChanWork} (lx : Int) (h : x.InRange) (hw : (w.hang : Int) ≤ x.tuning.hang) :
    ({ stageSeven x lx w with strikes := 0 } : Channel).InRange := by
  obtain ⟨herle, hcoupling, hatten, -, hdwell, -, hparity, hdiv, hn, hparts, htuning⟩ :=
    dwellStep_inRange w (measureStep_inRange lx w h)
  have hhang : (w.hang : Int) ≤ (dwellStep (measureStep x lx w) w).tuning.hang := by simpa using hw
  unfold stageSeven strikeStep
  split <;> exact ⟨herle, hcoupling, hatten, Nat.zero_le _, hdwell, hhang, hparity, hdiv, hn, hparts, htuning⟩

/-- Short of a divergence event the strikes stay below 8 (R85). -/
theorem stageSeven_inRange {x : Channel} {w : ChanWork} (lx : Int) (h : x.InRange) (hw : (w.hang : Int) ≤ x.tuning.hang)
    (hd : diverges (stageSeven x lx w) w = false) : (stageSeven x lx w).InRange := by
  obtain ⟨herle, hcoupling, hatten, -, hrest⟩ := stageSeven_calm_inRange lx h hw
  refine ⟨herle, hcoupling, hatten, ?_, hrest⟩
  by_cases hg : w.granted = true
  · simp only [diverges, hg, Bool.true_and, decide_eq_false_iff_not] at hd
    omega
  · simpa [stageSeven, strikeStep, hg] using h.2.2.2.1

theorem appendDivergence_length (history : List Word) (n : Word) (h : history.length ≤ 3) :
    (appendDivergence history n).length ≤ 3 := by
  simp only [appendDivergence, List.length_drop, List.length_append, List.length_singleton]
  omega

/-- The fields that stage 7 commits lie in range (R31). -/
def Channel.CommitsInRange (x : Channel) : Prop :=
  (-96 ≤ x.erle ∧ x.erle ≤ 240) ∧ (-240 ≤ x.coupling ∧ x.coupling ≤ 48) ∧ x.strikes ≤ 7 ∧ x.dwell ≤ 1000 ∧
  (x.hang : Int) ≤ x.tuning.hang ∧ x.divergences.length ≤ 3

theorem Channel.InRange.commits {x : Channel} (h : x.InRange) : x.CommitsInRange := by
  obtain ⟨herle, hcoupling, -, hstrikes, hdwell, hhang, -, hdiv, -, -, -⟩ := h
  exact ⟨herle, hcoupling, hstrikes, hdwell, hhang, hdiv⟩

/-- A commit leaves the live context of a configured channel in range. -/
theorem commit_inRange {live new : Channel} (hl : live.InRange) (hn : new.CommitsInRange) (hon : live.state ≠ .off)
    (htuning : live.tuning = new.tuning) : (live.commit new).InRange := by
  obtain ⟨-, -, hatten, -, -, -, hparity, -, hwindow, hparts, hrange⟩ := hl
  obtain ⟨herle, hcoupling, hstrikes, hdwell, hhang, hdiv⟩ := hn
  exact ⟨herle, hcoupling, hatten, hstrikes, hdwell, by simpa [Channel.commit, htuning] using hhang, hparity, hdiv, hwindow,
    fun _ => hparts hon, hrange⟩

/-- What a divergence event commits lies in range (R86). -/
theorem diverged_commitsInRange {x : Channel} {w : ChanWork} (lx : Int) (n : Word) (h : x.InRange)
    (hw : (w.hang : Int) ≤ x.tuning.hang) : ((stageSeven x lx w).diverged n).CommitsInRange := by
  obtain ⟨-, hcoupling, -, -, -, hhang, -, hdiv, -, -, -⟩ := stageSeven_calm_inRange lx h hw
  exact ⟨by simp [Channel.diverged], hcoupling, Nat.zero_le _, Nat.zero_le _, hhang, appendDivergence_length _ n hdiv⟩

@[simp] theorem strikeStep_tuning (x : Channel) (w : ChanWork) : (strikeStep x w).tuning = x.tuning := by
  unfold strikeStep
  split <;> rfl

@[simp] theorem stageSeven_tuning (x : Channel) (lx : Int) (w : ChanWork) : (stageSeven x lx w).tuning = x.tuning := by
  simp [stageSeven]

theorem ramp_range {a target attack release : Int} (ha : -160 ≤ a ∧ a ≤ 0) (ht : -160 ≤ target ∧ target ≤ 0) (hattack : 0 ≤ attack)
    (hrelease : 0 ≤ release) : -160 ≤ ramp a target attack release ∧ ramp a target attack release ≤ 0 := by
  unfold ramp
  split_ifs <;> omega

theorem attenuationAfter_range {tuning : Tuning} {x : Channel} (w : ChanWork) (far : Bool) (lx tRes : Int) (ht : tuning.InRange)
    (hx : -160 ≤ x.atten ∧ x.atten ≤ 0) :
    -160 ≤ attenuationAfter tuning x w far lx tRes ∧ attenuationAfter tuning x w far lx tRes ≤ 0 := by
  obtain ⟨-, -, -, -, -, -, -, hfloor, hattack, hrelease⟩ := ht
  refine ramp_range hx ?_ (by omega) (by omega)
  unfold targetAttenuation
  split_ifs <;> omega

/-! ### The reference history (R17, R18, R20, R26) -/

theorem zeroBlock_sampled : SampleBlock 128 zeroBlock := by
  refine ⟨by simp [zeroBlock, Config.blockLength], fun v hv => ?_⟩
  obtain rfl := List.eq_of_mem_replicate hv
  exact ⟨by decide, by decide⟩

/-- A ring of 64 spectra, each zero or that of 256 samples. -/
def RingFormed (ring : List Spectrum) : Prop :=
  ring.length = 64 ∧ ∀ w, Spectrum.of w ∈ ring → SampleBlock 256 w

theorem pushRing_formed {ring : List Spectrum} {x : Spectrum} (h : RingFormed ring) (hx : ∀ w, x = .of w → SampleBlock 256 w) :
    RingFormed (pushRing ring x) := by
  refine ⟨pushRing_length ring x h.1, fun w hw => ?_⟩
  rcases List.mem_cons.mp (List.mem_of_mem_take hw) with hx' | hmem
  · exact hx w hx'.symm
  · exact h.2 w hmem

theorem pushZeros_formed {ring : List Spectrum} (h : RingFormed ring) (k : Nat) : RingFormed (pushZeros ring k) := by
  induction k generalizing ring with
  | zero => exact h
  | succ k ih => exact ih (pushRing_formed h (by simp))

theorem spectrumOf_formed {samples w : List Int} (h : SampleBlock 256 samples) (hw : spectrumOf samples = .of w) : SampleBlock 256 w := by
  unfold spectrumOf at hw
  split at hw
  · simp at hw
  · obtain rfl := Spectrum.of.inj hw
    exact h

theorem sampleBlock_append {a b : List Int} (ha : SampleBlock 128 a) (hb : SampleBlock 128 b) : SampleBlock 256 (a ++ b) := by
  refine ⟨by simp [ha.1, hb.1], fun v hv => ?_⟩
  rcases List.mem_append.mp hv with h | h
  · exact ha.2 v h
  · exact hb.2 v h

/-- The form of R17, ring by ring. -/
theorem formed_iff (h : History) :
    h.Formed ↔ (∀ r : Fin 4, RingFormed h.rings[r]) ∧ (∀ r : Fin 4, SampleBlock 128 h.last[r]) ∧
      h.power.length = 129 ∧ ∀ p ∈ h.power, 0 ≤ p := by
  unfold History.Formed History.Sampled RingFormed
  constructor
  · rintro ⟨hr, hs, hp⟩
    exact ⟨fun r => ⟨(hr r).1, hs r⟩, fun r => (hr r).2, hp⟩
  · rintro ⟨hr, hl, hp⟩
    exact ⟨fun r => ⟨(hr r).1, hl r⟩, fun r => (hr r).2, hp⟩

theorem powerSteps_length (n : Nat) (power : List Rat) (spectra : List Spectrum) :
    (powerSteps n power spectra).length = power.length := by
  simp [powerSteps]

theorem powerSteps_nonneg (n : Nat) (power : List Rat) (spectra : List Spectrum) : ∀ p ∈ powerSteps n power spectra, 0 ≤ p := by
  intro p hp
  obtain ⟨pk, -, rfl⟩ := List.mem_map.mp hp
  exact powerStep_nonneg _ _ _

theorem powerDecay_length (n : Nat) (power : List Rat) (k : Nat) : (powerDecay n power k).length = power.length := by
  induction k generalizing n power with
  | zero => rfl
  | succ k ih => rw [powerDecay, ih, powerSteps_length]

theorem powerDecay_nonneg (n : Nat) (power : List Rat) (k : Nat) (h : ∀ p ∈ power, 0 ≤ p) : ∀ p ∈ powerDecay n power k, 0 ≤ p := by
  induction k generalizing n power with
  | zero => exact h
  | succ k ih => exact ih _ _ (powerSteps_nonneg _ _ _)

theorem gapPush_inRange {h : History} {farHold : Int} (hh : h.InRange farHold) (refs n k : Nat) :
    (h.gapPush refs n k).InRange farHold := by
  unfold History.gapPush
  split
  · exact hh
  · obtain ⟨hformed, hlevels, hlx, hhold, hfar⟩ := hh
    obtain ⟨hrings, hlast, hlen, hpower⟩ := (formed_iff h).mp hformed
    refine ⟨(formed_iff _).mpr ⟨fun r => ?_, fun r => ?_, ?_, ?_⟩, hlevels, hlx, hhold, hfar⟩
    · simp only [Fin.getElem_fin, Vector.getElem_mapFinIdx]
      split
      · exact pushZeros_formed (hrings r) k
      · exact hrings r
    · simp only [Fin.getElem_fin, Vector.getElem_mapFinIdx]
      split
      · exact zeroBlock_sampled
      · exact hlast r
    · rw [powerDecay_length, hlen]
    · exact powerDecay_nonneg _ _ _ hpower

theorem maxLevel_inRange {levels : List Int} (h : ∀ l ∈ levels, LevelInRange l) : LevelInRange (maxLevel levels) := by
  unfold maxLevel
  refine List.foldlRecOn (motive := LevelInRange) _ _ levelInRange_lowest fun u hu l hl => ?_
  rcases max_choice u l with he | he
  · rwa [he]
  · rw [he]
    exact h l hl

theorem holdAfter_range {geo : Geometry} {hold : Int} (lx : Int) (h : 0 ≤ hold ∧ hold ≤ geo.farHold) :
    0 ≤ holdAfter geo hold lx ∧ holdAfter geo hold lx ≤ geo.farHold := by
  unfold holdAfter
  split_ifs <;> omega

/-- Each spectrum of a processed push is that of a last block and a new block (R18). -/
theorem newSpectra_formed {h : History} {blocks : List (List Int)} (hlast : ∀ r : Fin 4, SampleBlock 128 h.last[r])
    (hb : ∀ b ∈ blocks, SampleBlock 128 b) {x : Spectrum} (hx : x ∈ newSpectra h blocks) {w : List Int} (hw : x = .of w) :
    SampleBlock 256 w := by
  obtain ⟨br, hbr, rfl⟩ := List.mem_map.mp hx
  refine spectrumOf_formed (sampleBlock_append ?_ (hb _ (List.fst_mem_of_mem_zipIdx hbr))) hw
  by_cases hr : br.2 < 4
  · simpa [hr] using hlast ⟨br.2, hr⟩
  · simpa [hr] using zeroBlock_sampled

theorem processed_inRange {h : History} {geo : Geometry} (hh : h.InRange geo.farHold) (n : Nat) {blocks : List (List Int)}
    (hb : ∀ b ∈ blocks, SampleBlock 128 b) : (h.processed geo n blocks).InRange geo.farHold := by
  obtain ⟨hformed, hlevels, hlx, hhold, hfar⟩ := hh
  obtain ⟨hrings, hlast, hlen, hpower⟩ := (formed_iff h).mp hformed
  have hnew : ∀ l ∈ blocks.map level, LevelInRange l := by
    intro l hl
    obtain ⟨b, -, rfl⟩ := List.mem_map.mp hl
    exact level_inRange b
  refine ⟨(formed_iff _).mpr ⟨fun r => ?_, fun r => ?_, ?_, ?_⟩, fun r => ?_, maxLevel_inRange hnew, holdAfter_range _ hhold, hfar⟩
  · simp only [History.processed, Fin.getElem_fin, Vector.getElem_mapFinIdx]
    split
    · rename_i x hx
      exact pushRing_formed (hrings r) fun w => newSpectra_formed hlast hb (List.mem_of_getElem? hx)
    · exact hrings r
  · simp only [History.processed, Fin.getElem_fin, Vector.getElem_mapFinIdx]
    cases hbr : blocks[(r : Nat)]? with
    | none => exact hlast r
    | some b => exact hb b (List.mem_of_getElem? hbr)
  · simp [History.processed, powerSteps_length, hlen]
  · exact powerSteps_nonneg _ _ _
  · simp only [History.processed, Fin.getElem_fin, Vector.getElem_mapFinIdx]
    cases hl : (blocks.map level)[(r : Nat)]? with
    | none => exact hlevels r
    | some l => exact hnew l (List.mem_of_getElem? hl)

theorem cleared_inRange {farHold : Int} (h : 0 ≤ farHold ∧ farHold ≤ 64) : History.cleared.InRange farHold := by
  refine ⟨(formed_iff _).mpr ⟨fun r => ?_, fun r => ?_, ?_, ?_⟩, fun r => ?_, levelInRange_lowest, ⟨le_rfl, h.1⟩, h.2⟩
  · simp [History.cleared, RingFormed, zeroRing, Config.ringDepth]
  · simpa [History.cleared] using zeroBlock_sampled
  · simp [History.cleared, Config.bins]
  · intro p hp
    obtain rfl := List.eq_of_mem_replicate hp
    exact le_rfl
  · simpa [History.cleared] using levelInRange_lowest

end Sys2Proof.Machine
end

section
/-! O59: every single change of state keeps every stored quantity in the range given for it. -/

namespace Sys2Proof.Machine

/-- The ranges of `WithinRanges`, what claims a channel apart. -/
def State.QuantitiesInRange (s : State) : Prop :=
  (∀ c, (s.chan c).InRange) ∧ s.history.InRange s.geo.farHold ∧
  (s.pendIdle ≤ 255 ∧ s.pendOverload ≤ 255 ∧ s.pendDropped ≤ 255 ∧ s.pendGap ≤ 255) ∧
  (∀ f, s.flight = some f → f.InRange s) ∧
  (∀ t, s.transfer = some t → (-96 ≤ t.erle ∧ t.erle ≤ 240) ∧ (-240 ≤ t.coupling ∧ t.coupling ≤ 48))

theorem withinRanges_iff (s : State) : s.WithinRanges ↔ s.QuantitiesInRange ∧ s.ClaimsSound := by
  unfold State.WithinRanges State.QuantitiesInRange State.ClaimsSound
  tauto

section
variable {s t : State}

/-- The ranges of the channels, the frame in flight and the mover. -/
def State.WorkInRange (s : State) : Prop :=
  (∀ c, (s.chan c).InRange) ∧ (∀ f, s.flight = some f → f.InRange s) ∧
  (∀ t, s.transfer = some t → (-96 ≤ t.erle ∧ t.erle ≤ 240) ∧ (-240 ≤ t.coupling ∧ t.coupling ≤ 48))

/-- The ranges of the history and of the report counts. -/
def State.TalliesInRange (s : State) : Prop :=
  s.history.InRange s.geo.farHold ∧ s.pendIdle ≤ 255 ∧ s.pendOverload ≤ 255 ∧ s.pendDropped ≤ 255 ∧ s.pendGap ≤ 255

theorem quantitiesInRange_iff (s : State) : s.QuantitiesInRange ↔ s.WorkInRange ∧ s.TalliesInRange := by
  unfold State.QuantitiesInRange State.WorkInRange State.TalliesInRange
  tauto

/-! ### The history and the report counts -/

theorem countedGap_tallies (h : s.TalliesInRange) (k : Nat) : (s.countedGap k).TalliesInRange := by
  by_cases hk : k = 0
  · simpa [hk] using h
  · obtain ⟨hh, hi, ho, hd, hg⟩ := h
    rw [s.countedGap_eq k hk]
    exact ⟨gapPush_inRange hh _ _ _, hi, ho, hd, Nat.min_le_left _ _⟩

theorem pushed_tallies (h : s.TalliesInRange) (k : Nat) {blocks : List (List Int)} (hb : ∀ b ∈ blocks, SampleBlock 128 b) :
    (s.pushed k blocks).TalliesInRange := by
  obtain ⟨hh, hrest⟩ := countedGap_tallies h k
  rw [State.pushed_eq]
  exact ⟨processed_inRange hh _ hb, hrest⟩

theorem tallied_tallies (ht : Tallied s t) (h : s.TalliesInRange) : t.TalliesInRange := by
  obtain ⟨heq, hi, ho, hd, hg⟩ := ht
  obtain ⟨hh, hi', ho', hd', hg'⟩ := h
  have hhist : t.history = s.history := by rw [heq]
  have hgeo : t.geo = s.geo := by rw [heq]
  exact ⟨by rwa [hhist, hgeo], by omega, by omega, by omega, by omega⟩

theorem tallies_congr (h : s.TalliesInRange) (hh : t.history = s.history) (hg : t.geo = s.geo) (hi : t.pendIdle = s.pendIdle)
    (ho : t.pendOverload = s.pendOverload) (hd : t.pendDropped = s.pendDropped) (hp : t.pendGap = s.pendGap) :
    t.TalliesInRange := by
  unfold State.TalliesInRange at *
  rwa [hh, hg, hi, ho, hd, hp]

theorem Move.keeps_tallies (h : Move s t) (hs : s.TalliesInRange) : t.TalliesInRange := by
  have hgeo : t.geo = s.geo := h.sameClock.2.2.2.1
  cases h with
  | aside h => rw [h]; exact hs
  | tally h => exact tallied_tallies h hs
  | gap k => exact countedGap_tallies hs k
  | push k blocks hb => exact pushed_tallies hs k hb
  | diverge f c k =>
    obtain ⟨_, he⟩ := requeueDiverged_eq (s.commitChan c ((s.stageSevenOf f c).diverged f.count)) c
      ((s.stageSevenOf f c).diverged f.count)
    rw [he]
    refine tallies_congr hs ?_ ?_ ?_ ?_ ?_ ?_ <;> simp [State.commitChan_eq]
  | apply f e change hf hp hw he hm hfree hi =>
    obtain ⟨_, _, _, _, heq⟩ := immediate_eq hi (s.removeEntry e)
    rw [heq]
    refine tallies_congr hs ?_ ?_ ?_ ?_ ?_ ?_ <;> simp [State.removeEntry_eq]
  | abortRestore u =>
    obtain ⟨_, _, _, heq⟩ := resetChannel_fields s u.chan
    rw [heq]
    refine tallies_congr hs ?_ ?_ ?_ ?_ ?_ ?_ <;> simp
  | _ =>
    refine tallies_congr hs ?_ hgeo ?_ ?_ ?_ ?_ <;>
      simp [State.modChan_eq, State.commitChan_eq, State.endCapture, State.removeEntry_eq]

/-! ### The channels, the frame in flight and the mover -/

theorem work_congr (h : s.WorkInRange) (hc : ∀ c, t.chan c = s.chan c) (hf : t.flight = s.flight)
    (hu : ∀ v, t.transfer = some v → (∃ u, s.transfer = some u ∧ v.erle = u.erle ∧ v.coupling = u.coupling) ∨
      ((-96 ≤ v.erle ∧ v.erle ≤ 240) ∧ (-240 ≤ v.coupling ∧ v.coupling ≤ 48))) : t.WorkInRange := by
  obtain ⟨hchan, hflight, htransfer⟩ := h
  refine ⟨fun c => hc c ▸ hchan c, fun f hft c => ?_, fun v hv => ?_⟩
  · rw [hc c]
    exact hflight f (hf ▸ hft) c
  · rcases hu v hv with ⟨u, hsu, he, hk⟩ | hr
    · rw [he, hk]
      exact htransfer u hsu
    · exact hr

/-- A state with the same channels, frame and transfer. -/
theorem work_same (h : s.WorkInRange) (hc : t.channels = s.channels) (hf : t.flight = s.flight) (hu : t.transfer = s.transfer) :
    t.WorkInRange :=
  work_congr h (fun c => chan_congr hc c) hf fun v hv => .inl ⟨v, hu ▸ hv, rfl, rfl⟩

/-- A context changed within its range, its tuning kept. -/
theorem work_modChan (h : s.WorkInRange) {c : Nat} {g : Channel → Channel} (hx : (g (s.chan c)).InRange)
    (htuning : (g (s.chan c)).tuning = (s.chan c).tuning) : (s.modChan c g).WorkInRange := by
  obtain ⟨hchan, hflight, htransfer⟩ := h
  have hkept : ∀ d, ((s.modChan c g).chan d).tuning = (s.chan d).tuning := fun d => by
    rw [chan_modChan]
    split
    · obtain ⟨rfl, -⟩ := ‹d = c ∧ c < 16›
      exact htuning
    · rfl
  refine ⟨fun d => ?_, fun f hf d => ?_, htransfer⟩
  · rw [chan_modChan]
    split
    · obtain ⟨rfl, -⟩ := ‹d = c ∧ c < 16›
      exact hx
    · exact hchan d
  · rw [hkept d]
    exact hflight f hf d

/-- The mover's transfer dropped, or one in range taken up. -/
theorem work_setTransfer (h : s.WorkInRange) {v : Option Transfer}
    (hv : ∀ u, v = some u → (-96 ≤ u.erle ∧ u.erle ≤ 240) ∧ (-240 ≤ u.coupling ∧ u.coupling ≤ 48)) :
    (s.setTransfer v).WorkInRange :=
  work_congr h (fun _ => rfl) rfl fun u hu => .inr (hv u hu)

/-- A unit of the frame keeps its ranges (R9, R57, R124). -/
theorem onward_inRange {f g : Flight} (h : f.Onward s g) (hf : f.InRange s) : g.InRange s := by
  intro c
  have hctx : g.ctx c = f.ctx c := by simp [Flight.ctx, h.start]
  obtain ⟨hx, hlevels, hhang, hfirst, htuning⟩ := hf c
  obtain ⟨hl, hh⟩ := h.work c
  have hpos := hx.2.2.2.2.2.2.2.2.2.2.2.2.2.2.2.2.1.1
  have hle := hx.2.2.2.2.2.1
  rw [hctx]
  refine ⟨hx, hl hlevels, ?_, fun hp => ?_, fun hp => ?_⟩
  · rcases hh with hh | hh | hh <;> omega
  · have hfp : f.phase = .apply := by
      rcases h.phase with he | ⟨-, hne⟩
      · exact he ▸ hp
      · exact absurd hp hne
    have hwork : g.chanWork c = f.chanWork c := by simp [Flight.chanWork, h.applying hfp]
    rw [hwork]
    exact hfirst hfp
  · refine htuning fun hfp => hp ?_
    rcases h.phase with he | ⟨hne, -⟩
    · exact he.trans hfp
    · exact absurd hfp hne

/-- The end of stage 1 fixes the contexts of the frame; no h has been decided yet (R36). -/
theorem entered_inRange {f : Flight} (hs : ∀ c, (s.chan c).InRange) (hf : f.InRange s) (hp : f.phase = .apply) :
    (f.entered s).InRange s := by
  intro c
  obtain ⟨-, hlevels, -, hfirst, -⟩ := hf c
  have hctx : (f.entered s).ctx c = s.chan c := rfl
  have hwork : (f.entered s).chanWork c = f.chanWork c := rfl
  have hx := hs c
  have hpos := hx.2.2.2.2.2.2.2.2.2.2.2.2.2.2.2.2.1.1
  rw [hctx, hwork]
  refine ⟨hs c, hlevels, ?_, fun hp' => by simp [Flight.entered] at hp', fun _ => rfl⟩
  rw [hfirst hp]
  exact hpos

theorem begin_inRange (hs : ∀ c, (s.chan c).InRange) (w1 : Word) (byStep : Bool) : (Flight.begin s w1 byStep).InRange s := by
  intro c
  have hctx : (Flight.begin s w1 byStep).ctx c = s.chan c := rfl
  have hwork : (Flight.begin s w1 byStep).chanWork c = .none := by
    by_cases hc : c < 16 <;> simp [Flight.chanWork, Flight.begin, hc]
  have hx := hs c
  have hpos := hx.2.2.2.2.2.2.2.2.2.2.2.2.2.2.2.2.1.1
  rw [hctx, hwork]
  exact ⟨hx, ⟨levelInRange_lowest, levelInRange_lowest, levelInRange_lowest, levelInRange_lowest⟩, hpos, fun _ => rfl,
    fun hp => absurd rfl hp⟩

/-- An application, in stage 1, changes one context within its range. -/
theorem apply_work {f : Flight} {e : Entry} {change : State → State × Code × Word} (h : s.WorkInRange) (hf : s.flight = some f)
    (hp : f.phase = .apply) (ha : e.action.InRange) (hi : e.immediate = some change) :
    (change (s.removeEntry e)).1.WorkInRange := by
  obtain ⟨hchan, hflight, htransfer⟩ := h
  obtain ⟨_, _, _, _, heq⟩ := immediate_eq hi (s.removeEntry e)
  have hf' : (change (s.removeEntry e)).1.flight = s.flight := by rw [heq]; rfl
  have hu' : (change (s.removeEntry e)).1.transfer = s.transfer := by rw [heq]; rfl
  refine ⟨fun c => ?_, fun g hg c => ?_, fun u hu => htransfer u (hu' ▸ hu)⟩
  · by_cases hce : c = e.chan
    · rw [hce]
      by_cases hlt : e.chan < 16
      · exact (immediate_reshaped hi _ hlt).inRange (hchan e.chan) ha
      · rw [chan_of_le _ _ (not_lt.mp hlt)]
        exact channel_off_inRange
    · rw [immediate_chan_other hi _ hce]
      exact hchan c
  · obtain rfl : f = g := Option.some.inj (hf.symm.trans (hf' ▸ hg))
    obtain ⟨hx, hlevels, hhang, hfirst, -⟩ := hflight f hf c
    exact ⟨hx, hlevels, hhang, hfirst, fun hne => absurd hp hne⟩

theorem Move.keeps_work (h : Move s t) (hs : s.WorkInRange) (hclaims : s.ClaimsSound) : t.WorkInRange := by
  have hs' := hs
  obtain ⟨hchan, hflight, htransfer⟩ := hs'
  obtain ⟨htable, hon, hzeroing⟩ := hclaims
  cases h with
  | aside h => rw [h]; exact work_same hs rfl rfl rfl
  | write a bytes => exact work_same hs rfl rfl rfl
  | tally h => rw [h.1]; exact work_same hs rfl rfl rfl
  | gap k =>
    obtain ⟨_, _, _, _, he⟩ := countedGap_fields s k
    rw [he]
    exact work_same hs rfl rfl rfl
  | push k blocks =>
    obtain ⟨_, _, _, _, he⟩ := pushed_fields s k blocks
    rw [he]
    exact work_same hs rfl rfl rfl
  | frame f g hf h =>
    refine ⟨hchan, fun g' hg' => ?_, htransfer⟩
    obtain rfl := Option.some.inj hg'
    exact fun c => onward_inRange h (hflight f hf) c
  | entered f hf hp =>
    refine ⟨hchan, fun g' hg' => ?_, htransfer⟩
    obtain rfl := Option.some.inj hg'
    exact fun c => entered_inRange hchan (hflight f hf) hp c
  | parity c => exact work_modChan hs (countParity_inRange (hchan c)) rfl
  | attenuate f c hf hp =>
    obtain ⟨hx, -⟩ := hflight f hf c
    exact work_modChan hs (attenuated_inRange (hchan c)
      (attenuationAfter_range _ _ _ _ hx.2.2.2.2.2.2.2.2.2.2 (hchan c).2.2.1)) rfl
  | commit f c hf hp hc hd =>
    obtain ⟨hx, -, hhang, -, htuning⟩ := hflight f hf c
    have htun := htuning (by simp [hp])
    have hstate := hc
    simp only [State.commits, Bool.and_eq_true, decide_eq_true_eq] at hstate
    have hcalm : diverges (s.stageSevenOf f c) (f.chanWork c) = false := by simpa [State.divergesIn, hc] using hd
    exact work_modChan hs (commit_inRange (hchan c) (stageSeven_inRange _ hx hhang hcalm).commits (hstate.2 ▸ hstate.1)
      (by simpa [State.stageSevenOf] using htun)) rfl
  | diverge f c k hf hp =>
    obtain ⟨_, he⟩ := requeueDiverged_eq (s.commitChan c ((s.stageSevenOf f c).diverged f.count)) c
      ((s.stageSevenOf f c).diverged f.count)
    obtain ⟨hx, -, hhang, -, htuning⟩ := hflight f hf c
    have htun := htuning (by simp [hp])
    have hlive := hzeroing f c k hf hp
    rw [he]
    have hcommitted : (s.commitChan c ((s.stageSevenOf f c).diverged f.count)).WorkInRange :=
      work_modChan (g := fun live => live.commit ((s.stageSevenOf f c).diverged f.count)) hs
        (commit_inRange (hchan c) (diverged_commitsInRange _ _ hx hhang) hlive
          (by simp [Channel.diverged, State.stageSevenOf, htun])) rfl
    exact work_same hcommitted rfl rfl rfl
  | takeEnd u hu hr =>
    obtain ⟨he, hk⟩ := htransfer u hu
    refine work_congr (work_modChan (g := fun ctx => ctx.restored u) (c := u.chan) hs
      (restored_inRange (hchan u.chan) (hon u hu) he hk) rfl) (fun c => ?_) rfl (by simp)
    simp
  | endCapture u hu hd =>
    exact work_setTransfer (work_modChan (g := fun ctx => { ctx with capture := false }) (c := u.chan) hs (hchan u.chan) rfl)
      (by simp)
  | dropRestore u => exact work_setTransfer hs (by simp)
  | abortRestore u hu hd =>
    have hzeroed : (s.zeroExtent u.chan).WorkInRange := work_same hs rfl rfl rfl
    refine work_setTransfer (work_congr (work_modChan (c := u.chan) (g := Channel.resetValues) hzeroed
      (resetValues_inRange (hchan u.chan) (hon u hu)) rfl) (fun _ => rfl) rfl fun v hv => .inl ⟨v, hv, rfl, rfl⟩) (by simp)
  | transfer u v hu hd hc he hk =>
    refine work_congr hs (fun _ => rfl) rfl fun w hw => .inl ⟨u, hu, ?_⟩
    obtain rfl := Option.some.inj hw
    exact ⟨he, hk⟩
  | beginCapture c u hc hfilters hfree hd he hk =>
    refine work_setTransfer (work_modChan (g := fun ctx => { ctx with capture := true }) hs (hchan c) rfl) fun v hv => ?_
    obtain rfl := Option.some.inj hv
    rw [he, hk]
    exact ⟨(hchan c).1, (hchan c).2.1⟩
  | beginRestore c u hc hfilters hfree hd he hk =>
    have hstate : (s.chan c).state ≠ .off := fun hoff => by simp [hoff, ChanState.filters] at hfilters
    refine work_congr (work_modChan (g := Channel.enterRestoring) hs (restated_inRange (hchan c) hstate _ _) rfl)
      (fun _ => rfl) rfl fun v hv => ?_
    obtain rfl := Option.some.inj hv
    exact .inr ⟨he, hk⟩
  | unlist e => exact work_same hs rfl rfl rfl
  | file r d action => exact work_same hs rfl rfl rfl
  | rotate f => exact work_same hs rfl rfl rfl
  | apply f e change hf hp hw he hm hfree hi => 
    exact apply_work hs hf hp (htable e he) hi

/-- A page's hold value is copied into 0..64 (R26). -/
theorem startWith_quantities (h : s.QuantitiesInRange) (p : Page) : (s.startWith p).QuantitiesInRange := by
  obtain ⟨hchan, -, -, hflight, htransfer⟩ := h
  exact ⟨hchan, cleared_inRange (clamp_range (by decide) _), ⟨by simp [State.startWith], by simp [State.startWith], by simp [State.startWith],
    by simp [State.startWith]⟩, hflight, htransfer⟩

theorem Act.keeps_ranges (h : Act s t) (hs : s.WithinRanges) : t.WithinRanges := by
  rw [withinRanges_iff] at hs ⊢
  obtain ⟨hq, hclaims⟩ := hs
  refine ⟨?_, h.keeps_claims hclaims⟩
  have hq' := hq
  obtain ⟨hchan, hhist, hpend, hflight, htransfer⟩ := hq'
  cases h with
  | turn h =>
    cases h with
    | move h =>
      rw [quantitiesInRange_iff] at hq ⊢
      exact ⟨h.keeps_work hq.1 hclaims, h.keeps_tallies hq.2⟩
    | clock taken done => exact hq
    | begin w1 byStep =>
      refine ⟨hchan, hhist, hpend, fun f hf => ?_, htransfer⟩
      obtain rfl := Option.some.inj hf
      exact fun c => begin_inRange hchan w1 byStep c
    | close => exact ⟨hchan, hhist, hpend, by simp, htransfer⟩
  | engine v => exact hq
  | raise f => exact ⟨hchan, hhist, hpend, by simp, htransfer⟩
  | readFault data => exact hq
  | start p => exact startWith_quantities hq p
  | clear =>
    have hfar : 0 ≤ s.geo.farHold ∧ s.geo.farHold ≤ 64 := ⟨hhist.2.2.2.1.1.trans hhist.2.2.2.1.2, hhist.2.2.2.2⟩
    refine ⟨fun c => ?_, cleared_inRange hfar, by simp [State.cleared, State.reset], by simp [State.cleared, State.reset],
      by simp [State.cleared, State.reset]⟩
    rw [cleared_chan]
    exact channel_off_inRange

end

end Sys2Proof.Machine

namespace Sys2Proof

open Sys2Proof.Machine

/-- Settles O59: each rule confines what it sets, and a frame in flight carries the ranges of the contexts it began with. -/
theorem rangesKept : Obligations.RangesKept :=
  fun _ _ hs h => step_keeps (P := State.WithinRanges) (fun _ _ => Act.keeps_ranges) hs h

end Sys2Proof
end

section
/-! Chapter 6 (R95 to R97): the gaps of a sound allocation list are its runs of free slots, first fit takes the lowest that is long enough,
and the list with the new extent is sound. -/

namespace Sys2Proof.Machine

/-- The extents stand in base order from slot `pos` on, inside the pool, and do not overlap. -/
def PlacedFrom (pos : Nat) (alloc : List Extent) : Prop :=
  alloc.Pairwise (fun d e => d.base + d.size ≤ e.base) ∧ ∀ e ∈ alloc, pos ≤ e.base ∧ e.base + e.size ≤ 2048

theorem ExtentsDisjoint.placed {alloc : List Extent} (h : ExtentsDisjoint alloc) : PlacedFrom 0 alloc :=
  ⟨h.1, fun e he => ⟨Nat.zero_le _, (h.2.2 e he).1⟩⟩

theorem PlacedFrom.tail {pos : Nat} {e : Extent} {es : List Extent} (h : PlacedFrom pos (e :: es)) : PlacedFrom (e.base + e.size) es := by
  obtain ⟨hp, hb⟩ := h
  obtain ⟨hhead, htail⟩ := List.pairwise_cons.mp hp
  exact ⟨htail, fun d hd => ⟨hhead d hd, (hb d (List.mem_cons_of_mem e hd)).2⟩⟩

/-! ### Gaps are runs of free slots -/

theorem mem_gapsFrom_cons {pos : Nat} {e : Extent} {es : List Extent} {g : Nat × Nat} :
    g ∈ gapsFrom pos (e :: es) ↔ (pos < e.base ∧ g = (pos, e.base - pos)) ∨ g ∈ gapsFrom (e.base + e.size) es := by
  rw [gapsFrom, List.mem_append]
  by_cases h : pos < e.base <;> simp [h]

/-- A gap is a run of free slots from `pos` on. -/
theorem freeRun_of_mem_gapsFrom {pos : Nat} {alloc : List Extent} (hpos : pos ≤ 2048) (h : PlacedFrom pos alloc) {g : Nat × Nat}
    (hg : g ∈ gapsFrom pos alloc) : pos ≤ g.1 ∧ FreeRun alloc g.1 g.2 := by
  induction alloc generalizing pos with
  | nil =>
    unfold gapsFrom Config.poolSlots at hg
    split_ifs at hg with hlt
    · obtain rfl := List.mem_singleton.mp hg
      exact ⟨le_rfl, by simp [FreeRun]; omega⟩
    · simp at hg
  | cons e es ih =>
    obtain ⟨hep, hee⟩ := h.2 e List.mem_cons_self
    rcases mem_gapsFrom_cons.mp hg with ⟨hlt, rfl⟩ | hmem
    · refine ⟨le_rfl, by dsimp only; omega, fun d hd => .inl ?_⟩
      rcases List.mem_cons.mp hd with rfl | hd
      · dsimp only
        omega
      · have := (h.tail.2 d hd).1
        dsimp only
        omega
    · obtain ⟨hle, hin, hfree⟩ := ih hee h.tail hmem
      refine ⟨by omega, hin, fun d hd => ?_⟩
      rcases List.mem_cons.mp hd with rfl | hd
      · exact .inr hle
      · exact hfree d hd

/-- A run of free slots, of one at least, lies in a gap. -/
theorem mem_gapsFrom_of_freeRun {pos : Nat} {alloc : List Extent} {b n : Nat} (hb : pos ≤ b) (hn : 1 ≤ n) (hf : FreeRun alloc b n) :
    ∃ g ∈ gapsFrom pos alloc, g.1 ≤ b ∧ b + n ≤ g.1 + g.2 := by
  obtain ⟨hin, hfree⟩ := hf
  induction alloc generalizing pos with
  | nil =>
    refine ⟨(pos, 2048 - pos), ?_, hb, by dsimp only; omega⟩
    rw [gapsFrom, if_pos (show pos < Config.poolSlots by unfold Config.poolSlots; omega)]
    exact List.mem_singleton_self _
  | cons e es ih =>
    rcases hfree e List.mem_cons_self with hbefore | hafter
    · exact ⟨(pos, e.base - pos), mem_gapsFrom_cons.mpr (.inl ⟨by omega, rfl⟩), hb, by dsimp only; omega⟩
    · obtain ⟨g, hg, hle, hend⟩ := ih hafter fun d hd => hfree d (List.mem_cons_of_mem e hd)
      exact ⟨g, mem_gapsFrom_cons.mpr (.inr hg), hle, hend⟩

/-- The gaps are listed lowest first. -/
theorem gapsFrom_sorted {pos : Nat} {alloc : List Extent} (hpos : pos ≤ 2048) (h : PlacedFrom pos alloc) :
    (gapsFrom pos alloc).Pairwise (fun g k => g.1 ≤ k.1) := by
  induction alloc generalizing pos with
  | nil =>
    unfold gapsFrom
    split <;> simp
  | cons e es ih =>
    obtain ⟨hep, hee⟩ := h.2 e List.mem_cons_self
    unfold gapsFrom
    split
    · refine List.pairwise_cons.mpr ⟨fun k hk => ?_, ih hee h.tail⟩
      have := (freeRun_of_mem_gapsFrom hee h.tail hk).1
      dsimp only
      omega
    · exact ih hee h.tail

/-! ### The largest gap and first fit -/

/-- No gap is longer than the largest, and it is 0 or the length of one. -/
theorem foldl_max_spec (l : List Nat) (m : Nat) :
    (∀ n ∈ l, n ≤ l.foldl max m) ∧ m ≤ l.foldl max m ∧ (l.foldl max m = m ∨ l.foldl max m ∈ l) := by
  induction l generalizing m with
  | nil => simp
  | cons x xs ih =>
    obtain ⟨hall, hm, hmem⟩ := ih (max m x)
    rw [List.foldl_cons]
    refine ⟨fun n hn => ?_, by omega, ?_⟩
    · rcases List.mem_cons.mp hn with rfl | hn
      · omega
      · exact hall n hn
    · rcases hmem with he | hin
      · rcases max_choice m x with hc | hc
        · exact .inl (he.trans hc)
        · exact .inr (by rw [he, hc]; exact List.mem_cons_self)
      · exact .inr (List.mem_cons_of_mem x hin)

section
variable {alloc : List Extent}

theorem exists_freeRun_largestGap (h : PlacedFrom 0 alloc) : ∃ b, FreeRun alloc b (largestGap alloc) := by
  rcases (foldl_max_spec ((gaps alloc).map Prod.snd) 0).2.2 with hzero | hmem
  · exact ⟨0, by rw [largestGap, hzero]; exact ⟨by omega, fun e _ => .inl (by omega)⟩⟩
  · obtain ⟨g, hg, he⟩ := List.mem_map.mp hmem
    exact ⟨g.1, by rw [largestGap, ← he]; exact (freeRun_of_mem_gapsFrom (by omega) h hg).2⟩

theorem freeRun_le_largestGap {b n : Nat} (hf : FreeRun alloc b n) : n ≤ largestGap alloc := by
  rcases Nat.eq_zero_or_pos n with rfl | hn
  · omega
  · obtain ⟨g, hg, hle, hend⟩ := mem_gapsFrom_of_freeRun (Nat.zero_le b) hn hf
    have := (foldl_max_spec ((gaps alloc).map Prod.snd) 0).1 g.2 (List.mem_map_of_mem hg)
    unfold largestGap
    omega

theorem freeRun_firstFit {size base : Nat} (h : PlacedFrom 0 alloc) (hfit : firstFit alloc size = some base) :
    FreeRun alloc base size := by
  obtain ⟨g, hg, rfl⟩ := Option.map_eq_some_iff.mp hfit
  have hsize : size ≤ g.2 := by simpa using List.find?_some hg
  obtain ⟨-, hin, hfree⟩ := freeRun_of_mem_gapsFrom (by omega) h (List.mem_of_find?_eq_some hg)
  exact ⟨by omega, fun e he => (hfree e he).imp_left fun _ => by omega⟩

/-- No run below the base that first fit names is long enough (R96). -/
theorem firstFit_lowest {size base b : Nat} (h : PlacedFrom 0 alloc) (hsize : 1 ≤ size) (hfit : firstFit alloc size = some base)
    (hb : b < base) : ¬ FreeRun alloc b size := by
  intro hf
  obtain ⟨k, hk, hle, hend⟩ := mem_gapsFrom_of_freeRun (Nat.zero_le b) hsize hf
  obtain ⟨g, hg, rfl⟩ := Option.map_eq_some_iff.mp hfit
  obtain ⟨-, before, after, hsplit, hshort⟩ := List.find?_eq_some_iff_append.mp hg
  have hsorted : (gaps alloc).Pairwise (fun g k => g.1 ≤ k.1) := gapsFrom_sorted (by omega) h
  have hkin : k ∈ before ++ g :: after := hsplit ▸ hk
  rw [hsplit, List.pairwise_append, List.pairwise_cons] at hsorted
  rcases List.mem_append.mp hkin with hin | hin
  · have := hshort k hin
    simp only [Bool.not_eq_true', decide_eq_false_iff_not] at this
    omega
  · rcases List.mem_cons.mp hin with rfl | hin
    · omega
    · have := hsorted.2.1.1 k hin
      omega

theorem firstFit_none_iff {size : Nat} (h : PlacedFrom 0 alloc) (hsize : 1 ≤ size) :
    firstFit alloc size = none ↔ ∀ b, ¬ FreeRun alloc b size := by
  constructor
  · intro hnone b hf
    obtain ⟨g, hg, hle, hend⟩ := mem_gapsFrom_of_freeRun (Nat.zero_le b) hsize hf
    have := List.find?_eq_none.mp (Option.map_eq_none_iff.mp hnone) g hg
    simp only [decide_eq_true_eq] at this
    omega
  · intro hno
    cases hfit : firstFit alloc size with
    | none => rfl
    | some base => exact absurd (freeRun_firstFit h hfit) (hno base)

/-- The sizes of the extents and what lies before the first of them fit in the pool. -/
theorem sizes_le {pos : Nat} (hpos : pos ≤ 2048) (h : PlacedFrom pos alloc) : pos + (alloc.map Extent.size).sum ≤ 2048 := by
  induction alloc generalizing pos with
  | nil => simpa using hpos
  | cons e es ih =>
    obtain ⟨hep, hee⟩ := h.2 e List.mem_cons_self
    have := ih hee h.tail
    simp only [List.map_cons, List.sum_cons]
    omega

/-! ### The list with a new extent -/

theorem insertExtent_perm (e : Extent) (alloc : List Extent) : (insertExtent e alloc).Perm (e :: alloc) := by
  induction alloc with
  | nil => exact .refl _
  | cons d ds ih =>
    unfold insertExtent
    split
    · exact .refl _
    · exact (ih.cons d).trans (.swap e d ds)

theorem mem_insertExtent {e d : Extent} : d ∈ insertExtent e alloc ↔ d = e ∨ d ∈ alloc :=
  (insertExtent_perm e alloc).mem_iff.trans List.mem_cons

/-- An extent inserted where no other meets it keeps the base order. -/
theorem insertExtent_ordered {e : Extent} (h : alloc.Pairwise (fun d e => d.base + d.size ≤ e.base)) (he : 1 ≤ e.size)
    (hd : ∀ d ∈ alloc, 1 ≤ d.size) (hfree : ∀ d ∈ alloc, e.base + e.size ≤ d.base ∨ d.base + d.size ≤ e.base) :
    (insertExtent e alloc).Pairwise (fun d e => d.base + d.size ≤ e.base) := by
  induction alloc with
  | nil => simp [insertExtent]
  | cons d ds ih =>
    obtain ⟨hhead, htail⟩ := List.pairwise_cons.mp h
    have hdsize := hd d List.mem_cons_self
    unfold insertExtent
    split
    · have hbefore : e.base + e.size ≤ d.base := by
        rcases hfree d List.mem_cons_self with h' | h' <;> omega
      refine List.pairwise_cons.mpr ⟨fun x hx => ?_, h⟩
      rcases List.mem_cons.mp hx with rfl | hx
      · exact hbefore
      · have := hhead x hx
        omega
    · have hafter : d.base + d.size ≤ e.base := by
        rcases hfree d List.mem_cons_self with h' | h' <;> omega
      refine List.pairwise_cons.mpr ⟨fun x hx => ?_, ih htail (fun x hx => hd x (List.mem_cons_of_mem d hx))
        fun x hx => hfree x (List.mem_cons_of_mem d hx)⟩
      rcases mem_insertExtent.mp hx with rfl | hx
      · exact hafter
      · exact hhead x hx

/-- A new extent in free slots, for a channel without one, leaves the list sound (R95, R96). -/
theorem insertExtent_disjoint {e : Extent} (h : ExtentsDisjoint alloc) (hchan : ∀ d ∈ alloc, d.chan ≠ e.chan) (hc : e.chan < 16)
    (hsize : 1 ≤ e.size) (hfree : FreeRun alloc e.base e.size) : ExtentsDisjoint (insertExtent e alloc) := by
  obtain ⟨horder, hnames, hin⟩ := h
  refine ⟨insertExtent_ordered horder hsize (fun d hd => (hin d hd).2.1) fun d hd => hfree.2 d hd, ?_, fun d hd => ?_⟩
  · refine ((insertExtent_perm e alloc).pairwise_iff (fun h => h.symm)).mpr (List.pairwise_cons.mpr ⟨fun d hd => ?_, hnames⟩)
    exact (hchan d hd).symm
  · rcases mem_insertExtent.mp hd with rfl | hd
    · exact ⟨hfree.1, hsize, hc⟩
    · exact hin d hd

end

end Sys2Proof.Machine

namespace Sys2Proof

open Sys2Proof.Machine

/-- Settles O52: the gaps are exactly the maximal runs of free slots, listed lowest first. -/
theorem firstFitPlacesDisjoint : Obligations.FirstFitPlacesDisjoint := by
  intro alloc c size h hchan hc hsize
  have hsum := sizes_le (Nat.zero_le _) h.placed
  refine ⟨by simp only [freeTotal, Config.poolSlots]; omega,
    ⟨exists_freeRun_largestGap h.placed, fun _ _ hf => freeRun_le_largestGap hf⟩, fun base hfit => ?_,
    firstFit_none_iff h.placed hsize⟩
  have hfree := freeRun_firstFit h.placed hfit
  exact ⟨hfree, fun _ hb => firstFit_lowest h.placed hsize hfit hb, insertExtent_disjoint h hchan hc hsize hfree⟩

end Sys2Proof
end

section
/-! O60 (R68, R95): a channel holds an extent exactly while it is configured. Every change of state but an application keeps the extents
and which channels are configured, with their P; the applications place, shorten and free extents. -/

namespace Sys2Proof.Machine

section
variable {s t : State} {c : Nat}

/-! ### The extent of a channel -/

theorem extent_chan (s : State) (c : Nat) : (s.extent c).chan = c := by
  unfold State.extent
  cases h : s.alloc.find? (fun e => decide (e.chan = c)) with
  | none => rfl
  | some e => simpa using List.find?_some h

/-- Two listed extents of one channel are the same. -/
theorem extents_unique {alloc : List Extent} (h : alloc.Pairwise (fun d e => d.chan ≠ e.chan)) {d e : Extent} (hd : d ∈ alloc)
    (he : e ∈ alloc) (hc : d.chan = e.chan) : d = e := by
  induction alloc with
  | nil => simp at hd
  | cons x xs ih =>
    obtain ⟨hhead, htail⟩ := List.pairwise_cons.mp h
    rcases List.mem_cons.mp hd with rfl | hd'
    · rcases List.mem_cons.mp he with rfl | he'
      · rfl
      · exact absurd hc (hhead e he')
    · rcases List.mem_cons.mp he with rfl | he'
      · exact absurd hc.symm (hhead d hd')
      · exact ih htail hd' he'

/-- With one extent a channel, a listed extent is that of its channel. -/
theorem extent_of_mem (h : s.alloc.Pairwise (fun d e => d.chan ≠ e.chan)) {e : Extent} (he : e ∈ s.alloc) (hc : e.chan = c) :
    s.extent c = e := by
  unfold State.extent
  obtain ⟨d, hd⟩ := Option.isSome_iff_exists.mp
    (List.find?_isSome (p := fun e : Extent => decide (e.chan = c)).mpr ⟨e, he, by simpa using hc⟩)
  rw [hd, Option.getD_some]
  have hdc : d.chan = c := by simpa using List.find?_some hd
  exact extents_unique h (List.mem_of_find?_eq_some hd) he (hdc.trans hc.symm)

/-- A channel of `x` with `refs` references holds the extents that `alloc` has for `c`: none in OFF, else one of P x R slots (R68). -/
def Holds (alloc : List Extent) (refs : Nat) (c : Nat) (x : Channel) : Prop :=
  (x.state = .off → ∀ e ∈ alloc, e.chan ≠ c) ∧
  (x.state ≠ .off → (∃ e ∈ alloc, e.chan = c ∧ e.size = x.parts * refs) ∧ 4 ≤ x.parts ∧ x.parts ≤ 64)

theorem extentsMatch_iff (h : s.alloc.Pairwise (fun d e => d.chan ≠ e.chan)) :
    s.ExtentsMatch ↔ ∀ c, Holds s.alloc s.geo.refs c (s.chan c) := by
  refine forall_congr' fun c => and_congr_right fun _ => forall_congr' fun _ => ?_
  constructor
  · rintro ⟨hmem, hsize, hp⟩
    exact ⟨⟨_, hmem, extent_chan s c, hsize⟩, hp⟩
  · rintro ⟨⟨e, he, hc, hsize⟩, hp⟩
    rw [extent_of_mem h he hc]
    exact ⟨he, hsize, hp⟩

/-! ### Changes that keep the extents -/

/-- Which channels are configured, and their P, are as before. -/
def SameShape (s t : State) : Prop :=
  t.alloc = s.alloc ∧ ∀ c, ((t.chan c).state = .off ↔ (s.chan c).state = .off) ∧ (t.chan c).parts = (s.chan c).parts

theorem sameShape_channels (ha : t.alloc = s.alloc) (hc : t.channels = s.channels) : SameShape s t :=
  ⟨ha, fun c => by rw [chan_congr hc]; simp⟩

/-- A change of one context that keeps P and whether the channel is configured. -/
theorem sameShape_modChan {g : Channel → Channel} (ha : t.alloc = s.alloc) (hc : ∀ d, t.chan d = (s.modChan c g).chan d)
    (hoff : (g (s.chan c)).state = .off ↔ (s.chan c).state = .off) (hparts : (g (s.chan c)).parts = (s.chan c).parts) :
    SameShape s t := by
  refine ⟨ha, fun d => ?_⟩
  rw [hc d, chan_modChan]
  split
  · obtain ⟨rfl, -⟩ := ‹d = c ∧ c < 16›
    exact ⟨hoff, hparts⟩
  · simp

/-- A move keeps the extents, and which channels are configured, unless it is an application (R68). -/
theorem Move.sameShape (h : Move s t) (hclaims : s.ClaimsSound) :
    SameShape s t ∨ ∃ f e change, s.flight = some f ∧ f.phase = .apply ∧ s.frameWorks = true ∧ e ∈ s.table ∧ e.chan < s.geo.mics ∧
      e.immediate = some change ∧ t = (change (s.removeEntry e)).1 := by
  obtain ⟨-, hon, hzeroing⟩ := hclaims
  cases h with
  | aside h => exact .inl (by rw [h]; exact sameShape_channels rfl rfl)
  | tally h => exact .inl (by rw [h.1]; exact sameShape_channels rfl rfl)
  | gap k =>
    obtain ⟨_, _, _, _, he⟩ := countedGap_fields s k
    exact .inl (by rw [he]; exact sameShape_channels rfl rfl)
  | push k blocks =>
    obtain ⟨_, _, _, _, he⟩ := pushed_fields s k blocks
    exact .inl (by rw [he]; exact sameShape_channels rfl rfl)
  | parity c => exact .inl (sameShape_modChan (by simp [State.modChan_eq]) (fun _ => rfl) Iff.rfl rfl)
  | attenuate f c => exact .inl (sameShape_modChan (by simp [State.modChan_eq]) (fun _ => rfl) Iff.rfl rfl)
  | commit f c hf hp hc hd =>
    have hstate := hc
    simp only [State.commits, Bool.and_eq_true, decide_eq_true_eq] at hstate
    refine .inl (sameShape_modChan (by simp [State.commitChan_eq]) (fun _ => rfl) ?_ rfl)
    exact iff_of_false (stageSevenOf_on hc) (hstate.2 ▸ hstate.1)
  | diverge f c k hf hp =>
    obtain ⟨_, he⟩ := requeueDiverged_eq (s.commitChan c ((s.stageSevenOf f c).diverged f.count)) c
      ((s.stageSevenOf f c).diverged f.count)
    rw [he]
    refine .inl (sameShape_modChan (c := c) (g := fun live => live.commit ((s.stageSevenOf f c).diverged f.count))
      (by simp [State.commitChan_eq]) (fun _ => chan_setQueue _ _ _) ?_ rfl)
    exact iff_of_false (diverged_on _ _) (hzeroing f c k hf hp)
  | takeEnd u hu hr =>
    refine .inl (sameShape_modChan (c := u.chan) (g := fun ctx => ctx.restored u) (by simp [State.modChan_eq])
      (fun _ => by rw [chan_setTransfer, chan_toTail]) ?_ rfl)
    exact iff_of_false (by simp [Channel.restored]) (hon u hu)
  | endCapture u =>
    exact .inl (sameShape_modChan (c := u.chan) (g := fun ctx => { ctx with capture := false })
      (by simp [State.endCapture, State.modChan_eq]) (fun _ => by rw [State.endCapture, chan_setTransfer]) Iff.rfl rfl)
  | abortRestore u hu hd =>
    refine .inl (sameShape_modChan (c := u.chan) (g := Channel.resetValues)
      (by obtain ⟨_, _, _, heq⟩ := resetChannel_fields s u.chan; simp [heq])
      (fun d => by rw [chan_setTransfer, resetChannel_chan, chan_modChan]) ?_ rfl)
    exact iff_of_false (by simp [Channel.resetValues]) (hon u hu)
  | beginCapture c u =>
    exact .inl (sameShape_modChan (c := c) (g := fun ctx => { ctx with capture := true }) (by simp [State.modChan_eq])
      (fun _ => chan_setTransfer _ _ _) Iff.rfl rfl)
  | beginRestore c u hc hfilters =>
    refine .inl (sameShape_modChan (c := c) (g := Channel.enterRestoring) (by simp [State.modChan_eq])
      (fun _ => by rw [chan_setTransfer, chan_dequeue]) ?_ rfl)
    exact iff_of_false (by simp [Channel.enterRestoring]) fun hoff => by simp [hoff, ChanState.filters] at hfilters
  | apply f e change hf hp hw he hm hfree hi => exact .inr ⟨f, e, change, hf, hp, hw, he, hm, hi, rfl⟩
  | _ => exact .inl (sameShape_channels (by simp [State.removeEntry_eq]) (by simp [State.removeEntry_eq]))

/-! ### Applications (R73 to R75, R96, R100, R101) -/

/-- The extents are sound and each channel holds its own (R68, R95). -/
def ExtentsSound (alloc : List Extent) (refs : Nat) (chan : Nat → Channel) : Prop :=
  ExtentsDisjoint alloc ∧ ∀ c, Holds alloc refs c (chan c)

theorem sameShape_sound (h : SameShape s t) {refs : Nat} (hs : ExtentsSound s.alloc refs s.chan) : ExtentsSound t.alloc refs t.chan := by
  obtain ⟨halloc, hshape⟩ := h
  refine ⟨halloc ▸ hs.1, fun c => ?_⟩
  obtain ⟨hoff, hparts⟩ := hshape c
  unfold Holds
  rw [halloc, hparts, ne_eq, hoff]
  exact hs.2 c

/-- A channel's extents depend on the entries for it alone. -/
theorem holds_congr {alloc alloc' : List Extent} {refs : Nat} {x : Channel} (h : Holds alloc refs c x)
    (ha : ∀ e, e.chan = c → (e ∈ alloc' ↔ e ∈ alloc)) : Holds alloc' refs c x := by
  refine ⟨fun hoff e he hc => h.1 hoff e ((ha e hc).mp he) hc, fun hon => ?_⟩
  obtain ⟨⟨e, he, hc, hsize⟩, hp⟩ := h.2 hon
  exact ⟨⟨e, (ha e hc).mpr he, hc, hsize⟩, hp⟩

/-- A new allocation: first fit places the extent, and the channel is configured with its P (R96, R98). -/
theorem allocate_sound {alloc : List Extent} {refs parts base : Nat} {chan chan' : Nat → Channel}
    (hs : ExtentsSound alloc refs chan) (hc : c < 16) (hoff : (chan c).state = .off) (hrefs : 1 ≤ refs)
    (hparts : 4 ≤ parts ∧ parts ≤ 64) (hfit : firstFit alloc (parts * refs) = some base)
    (hother : ∀ d, d ≠ c → chan' d = chan d) (hself : chan' c = Channel.configured parts) :
    ExtentsSound (insertExtent { chan := c, base := base, size := parts * refs } alloc) refs chan' := by
  obtain ⟨hdisjoint, hholds⟩ := hs
  have hnone := (hholds c).1 hoff
  have hsize : 1 ≤ parts * refs := Nat.mul_pos (by omega) hrefs
  refine ⟨insertExtent_disjoint hdisjoint hnone hc hsize (freeRun_firstFit hdisjoint.placed hfit), fun d => ?_⟩
  by_cases hd : d = c
  · subst hd
    rw [hself]
    refine ⟨fun h => by simp [Channel.configured] at h, fun _ => ⟨⟨_, mem_insertExtent.mpr (.inl rfl), rfl, rfl⟩, hparts⟩⟩
  · rw [hother d hd]
    refine holds_congr (hholds d) fun e he => ?_
    rw [mem_insertExtent]
    refine or_iff_right fun heq => hd ?_
    rw [← he, heq]

/-- A release: the channel's extent leaves the list (R101). -/
theorem release_sound {alloc : List Extent} {refs : Nat} {chan chan' : Nat → Channel} (hs : ExtentsSound alloc refs chan)
    (hother : ∀ d, d ≠ c → chan' d = chan d) (hself : (chan' c).state = .off) :
    ExtentsSound (alloc.filter (fun e => decide (e.chan ≠ c))) refs chan' := by
  obtain ⟨⟨horder, hnames, hin⟩, hholds⟩ := hs
  refine ⟨⟨horder.filter _, hnames.filter _, fun e he => hin e (List.mem_of_mem_filter he)⟩, fun d => ?_⟩
  by_cases hd : d = c
  · subst hd
    exact ⟨fun _ e he => by simpa using (List.mem_filter.mp he).2, fun hon => absurd hself hon⟩
  · rw [hother d hd]
    refine holds_congr (hholds d) fun e he => ?_
    rw [List.mem_filter]
    exact and_iff_left (by simpa [he] using hd)

/-- A shrink: the channel's extent is shortened in place (R100). -/
theorem shrink_sound {alloc : List Extent} {refs parts : Nat} {chan chan' : Nat → Channel} (hs : ExtentsSound alloc refs chan)
    (hon : (chan c).state ≠ .off) (hrefs : 1 ≤ refs) (hparts : 4 ≤ parts ∧ parts ≤ 64) (hless : parts < (chan c).parts)
    (hother : ∀ d, d ≠ c → chan' d = chan d) (hstate : (chan' c).state ≠ .off) (hself : (chan' c).parts = parts) :
    ExtentsSound (alloc.map (fun e => if e.chan = c then { e with size := parts * refs } else e)) refs chan' := by
  obtain ⟨⟨horder, hnames, hin⟩, hholds⟩ := hs
  obtain ⟨⟨own, hown, hownc, hownsize⟩, -⟩ := (hholds c).2 hon
  have hshorter : parts * refs ≤ (chan c).parts * refs := Nat.mul_le_mul_right refs hless.le
  have hpos : 1 ≤ parts * refs := Nat.mul_pos (by omega) hrefs
  have hfield : ∀ e ∈ alloc, (if e.chan = c then ({ e with size := parts * refs } : Extent) else e).chan = e.chan ∧
      (if e.chan = c then ({ e with size := parts * refs } : Extent) else e).base = e.base ∧
      (if e.chan = c then ({ e with size := parts * refs } : Extent) else e).size ≤ e.size ∧
      1 ≤ (if e.chan = c then ({ e with size := parts * refs } : Extent) else e).size := by
    intro e he
    split
    · rename_i hec
      have heq : e = own := extents_unique hnames he hown (hec.trans hownc.symm)
      exact ⟨rfl, rfl, by rw [heq, hownsize]; exact hshorter, hpos⟩
    · exact ⟨rfl, rfl, le_rfl, (hin e he).2.1⟩
  refine ⟨⟨?_, ?_, ?_⟩, fun d => ?_⟩
  · refine List.pairwise_map.mpr (List.Pairwise.imp_of_mem (fun {a b} ha hb hab => ?_) horder)
    obtain ⟨-, hab', hsz, -⟩ := hfield a ha
    obtain ⟨-, hbb, -, -⟩ := hfield b hb
    omega
  · refine List.pairwise_map.mpr (List.Pairwise.imp_of_mem (fun {a b} ha hb hab => ?_) hnames)
    rw [(hfield a ha).1, (hfield b hb).1]
    exact hab
  · intro e he
    obtain ⟨e', he', rfl⟩ := List.mem_map.mp he
    obtain ⟨hchan, hbase, hsz, hsz1⟩ := hfield e' he'
    obtain ⟨hend, -, hlt⟩ := hin e' he'
    exact ⟨by omega, hsz1, by omega⟩
  · by_cases hd : d = c
    · subst hd
      refine ⟨fun h => absurd h hstate, fun _ => ⟨⟨{ own with size := parts * refs }, ?_, hownc, by rw [hself]⟩, by rwa [hself]⟩⟩
      exact List.mem_map.mpr ⟨own, hown, by rw [if_pos hownc]⟩
    · rw [hother d hd]
      refine holds_congr (hholds d) fun e he => ?_
      rw [List.mem_map]
      constructor
      · rintro ⟨e', he', rfl⟩
        rw [(hfield e' he').1] at he
        rwa [if_neg (by omega)]
      · intro hmem
        exact ⟨e, hmem, if_neg (by omega)⟩

/-- The effect of an application on the allocation list: nothing, unless it is a CONFIGURE_CHANNEL or a RELEASE_CHANNEL. -/
theorem immediate_alloc {e : Entry} {change : State → State × Code × Word} (hi : e.immediate = some change) (s : State)
    (hconf : ∀ parts, e.action ≠ .configure parts) (hrel : e.action ≠ .release) : (change s).1.alloc = s.alloc := by
  unfold Entry.immediate at hi
  cases ha : e.action with
  | capture index => simp [ha] at hi
  | restore index => simp [ha] at hi
  | configure parts => exact absurd ha (hconf parts)
  | release => exact absurd ha hrel
  | reset =>
    obtain rfl : _ = change := by simpa [ha] using hi
    dsimp only [applyReset]
    split
    · rfl
    · obtain ⟨_, _, _, heq⟩ := resetChannel_fields s e.chan
      simp [heq]
  | freeze =>
    obtain rfl : _ = change := by simpa [ha] using hi
    dsimp only [applyFreeze, withState]
    split <;> simp [State.modChan_eq]
  | thaw =>
    obtain rfl : _ = change := by simpa [ha] using hi
    dsimp only [applyThaw, withState, State.enqueueThawed]
    split
    · split <;> simp [State.modChan_eq]
    all_goals rfl
  | setWindow w =>
    obtain rfl : _ = change := by simpa [ha] using hi
    dsimp only [applySetWindow]
    split <;> simp [State.modChan_eq]
  | setTuning mask values =>
    obtain rfl : _ = change := by simpa [ha] using hi
    dsimp only [applySetTuning]
    split_ifs <;> simp [State.modChan_eq]

theorem applyConfigure_sound {parts : Nat} (hs : ExtentsSound s.alloc s.geo.refs s.chan) (hc : c < 16) (hrefs : 1 ≤ s.geo.refs)
    (hparts : 4 ≤ parts ∧ parts ≤ 64) :
    ExtentsSound (applyConfigure s c parts).1.alloc s.geo.refs (applyConfigure s c parts).1.chan := by
  unfold applyConfigure
  split
  · rename_i hoff
    unfold configureOff
    dsimp only
    split
    · rename_i base hfit
      refine allocate_sound hs hc hoff hrefs hparts hfit (fun d hd => ?_) ?_
      · simp [chan_setChan, hd, State.allocate]
        rfl
      · simp [chan_setChan, hc]
    · split <;> exact hs
  · rename_i hon
    unfold configureOn
    dsimp only
    split_ifs with h1 h2 h3
    · exact hs
    · exact hs
    · exact hs
    · exact shrink_sound hs hon hrefs hparts (by omega) (fun d hd => by simp [chan_modChan, hd])
        (by simpa [chan_modChan, hc, Channel.shrunk] using hon) (by simp [chan_modChan, hc, Channel.shrunk])

theorem applyRelease_sound (hs : ExtentsSound s.alloc s.geo.refs s.chan) (hc : c < 16) :
    ExtentsSound (applyRelease s c).1.alloc s.geo.refs (applyRelease s c).1.chan := by
  unfold applyRelease
  split
  · exact hs
  · exact release_sound hs (fun d hd => by simp [chan_setChan, hd]) (by simp [chan_setChan, hc, Channel.off])

/-- The other kinds keep P, and whether the channel is configured. -/
theorem Reshaped.shape {e : Entry} {x : Channel} (h : Reshaped s e x) (hconf : ∀ parts, e.action ≠ .configure parts)
    (hrel : e.action ≠ .release) : (x.state = .off ↔ (s.chan e.chan).state = .off) ∧ x.parts = (s.chan e.chan).parts := by
  cases h with
  | same => exact ⟨Iff.rfl, rfl⟩
  | configured parts ha => exact absurd ha (hconf parts)
  | shrunk parts ha => exact absurd ha (hconf parts)
  | released ha => exact absurd ha hrel
  | reset hon => exact ⟨iff_of_false (by simp [Channel.resetValues]) hon, rfl⟩
  | frozen prior hon => exact ⟨iff_of_false (by simp [Channel.frozen]) hon, rfl⟩
  | thawed hon => exact ⟨iff_of_false (priorOf_ne_off _) hon, rfl⟩
  | window w => exact ⟨Iff.rfl, rfl⟩
  | tuning mask values => exact ⟨Iff.rfl, rfl⟩

theorem immediate_sound {e : Entry} {change : State → State × Code × Word} (hi : e.immediate = some change)
    (hs : ExtentsSound s.alloc s.geo.refs s.chan) (hc : e.chan < 16) (hrefs : 1 ≤ s.geo.refs) (ha : e.action.InRange) :
    ExtentsSound (change s).1.alloc s.geo.refs (change s).1.chan := by
  by_cases hconf : ∃ parts, e.action = .configure parts
  · obtain ⟨parts, hconf⟩ := hconf
    obtain rfl : _ = change := by simpa [Entry.immediate, hconf] using hi
    exact applyConfigure_sound hs hc hrefs (by simpa [hconf, Action.InRange] using ha)
  · by_cases hrel : e.action = .release
    · obtain rfl : _ = change := by simpa [Entry.immediate, hrel] using hi
      exact applyRelease_sound hs hc
    · have hne : ∀ parts, e.action ≠ .configure parts := fun parts h => hconf ⟨parts, h⟩
      refine sameShape_sound ⟨immediate_alloc hi s hne hrel, fun d => ?_⟩ hs
      by_cases hd : d = e.chan
      · rw [hd]
        exact (immediate_reshaped hi s hc).shape hne hrel
      · rw [immediate_chan_other hi s hd]
        exact ⟨Iff.rfl, rfl⟩

/-! ### Every change keeps the allocation list sound -/

theorem poolSound_iff (s : State) : s.PoolSound ↔ ExtentsSound s.alloc s.geo.refs s.chan ∧ s.geo.mics ≤ 16 ∧ s.geo.refs ≤ 4 ∧
    (s.frameWorks = true → 1 ≤ s.geo.refs) ∧ s.ClaimsSound := by
  unfold State.PoolSound ExtentsSound State.ClaimsSound
  constructor
  · rintro ⟨hd, hm, hrest⟩
    exact ⟨⟨hd, (extentsMatch_iff hd.2.1).mp hm⟩, hrest⟩
  · rintro ⟨⟨hd, hm⟩, hrest⟩
    exact ⟨hd, (extentsMatch_iff hd.2.1).mpr hm, hrest⟩

theorem Move.keeps_extents (h : Move s t) (hs : s.PoolSound) : ExtentsSound t.alloc s.geo.refs t.chan := by
  obtain ⟨hext, hmics, -, hrefs, hclaims⟩ := (poolSound_iff s).mp hs
  rcases h.sameShape hclaims with hshape | ⟨f, e, change, hf, hp, hw, he, hm, hi, rfl⟩
  · exact sameShape_sound hshape hext
  · exact immediate_sound hi (s := s.removeEntry e) hext (by omega) (hrefs hw) (hclaims.1 e he)

/-- A page that passes checks 3 and 4 names at most 16 channels and 1 to 4 references, and another R only where no extent is
allocated (R181). -/
theorem geometry_of_startFault_none {p : Page} (h : startFault s p = none) :
    p.nat 3 ≤ 16 ∧ (1 ≤ p.nat 4 ∧ p.nat 4 ≤ 4) ∧ (p.nat 4 = s.geo.refs ∨ s.alloc = []) := by
  have hg : geometryFault s p = none := by
    unfold startFault at h
    split at h
    · simp at h
    · assumption
  unfold geometryFault at hg
  split_ifs at hg with h1 h3 h4
  refine ⟨by omega, by omega, ?_⟩
  by_contra hne
  exact h4 (.inr (.inr (not_or.mp hne)))

/-- With no extent allocated every channel is in OFF, and R is of no effect. -/
theorem holds_of_empty {refs refs' : Nat} {x : Channel} (h : Holds [] refs c x) : Holds [] refs' c x :=
  ⟨h.1, fun hon => by
    obtain ⟨⟨e, he, -⟩, -⟩ := h.2 hon
    simp at he⟩

theorem Act.keeps_pool (h : Act s t) (hs : s.PoolSound) : t.PoolSound := by
  obtain ⟨hsound, hmics, hrefs, hworks, hclaims⟩ := (poolSound_iff s).mp hs
  have hclaims' := h.keeps_claims hclaims
  rw [poolSound_iff]
  cases h with
  | turn h =>
    cases h with
    | move h =>
      obtain ⟨-, -, hengine, hgeo, -⟩ := h.sameClock
      rw [hgeo, frameWorks_congr hengine]
      exact ⟨h.keeps_extents hs, hmics, hrefs, hworks, hclaims'⟩
    | clock taken done => exact ⟨hsound, hmics, hrefs, hworks, hclaims'⟩
    | begin w1 byStep => exact ⟨hsound, hmics, hrefs, hworks, hclaims'⟩
    | close => exact ⟨hsound, hmics, hrefs, hworks, hclaims'⟩
  | engine v hf hr =>
    refine ⟨hsound, hmics, hrefs, fun hw => ?_, hclaims'⟩
    rcases hr with rfl | hr | hr
    · simp [State.frameWorks] at hw
    · exact hr
    · exact hworks hr
  | raise f => exact ⟨hsound, hmics, hrefs, fun hw => by simp [State.frameWorks, State.raise] at hw, hclaims'⟩
  | readFault data =>
    refine ⟨hsound, hmics, hrefs, fun hw => hworks ?_, hclaims'⟩
    by_cases he : s.engine = .faulted
    · simp [State.frameWorks, he] at hw
    · simpa [State.frameWorks, he] using hw
  | start p he hp =>
    obtain ⟨hm, hr, hkept⟩ := geometry_of_startFault_none hp
    refine ⟨⟨hsound.1, fun c => ?_⟩, hm, hr.2, fun _ => hr.1, hclaims'⟩
    rcases hkept with heq | hempty
    · have : (s.startWith p).geo.refs = s.geo.refs := heq
      rw [this]
      exact hsound.2 c
    · have hnil : (s.startWith p).alloc = [] := hempty
      have hold := hsound.2 c
      rw [hempty] at hold
      rw [hnil]
      exact holds_of_empty hold
  | clear =>
    refine ⟨⟨⟨.nil, .nil, by simp [State.cleared, State.reset]⟩, fun c => ?_⟩, hmics, hrefs,
      fun hw => by simp [State.cleared, State.reset, State.frameWorks] at hw, hclaims'⟩
    rw [cleared_chan]
    exact ⟨fun _ e he => by simp [State.cleared, State.reset] at he, fun hon => absurd rfl hon⟩

end

end Sys2Proof.Machine

namespace Sys2Proof

open Sys2Proof.Machine

/-- Settles O60: an extent enters the list by first fit as its channel leaves OFF, and leaves it as the channel returns there. -/
theorem poolStaysSound : Obligations.PoolStaysSound :=
  fun _ _ hs h => step_keeps (P := State.PoolSound) (fun _ _ => Act.keeps_pool) hs h

end Sys2Proof
end

section
/-! O55 (R169): T and D. Within the work on a frame T runs ahead of D for a while, so the counts are followed through the operations
themselves: what each leaves where it ends, and that a fault finds T at D or at D + 1. -/

namespace Sys2Proof.Machine

/-- T is D or D + 1, as every fault finds it. -/
def State.CountsLoose (s : State) : Prop :=
  s.taken = s.done ∨ s.taken = s.done + 1

/-- T is D + 1 with the frame in flight counted D, or D with none. -/
def State.CountsStrict (s : State) : Prop :=
  match s.flight.map Flight.count with
  | some n => s.taken = s.done + 1 ∧ n = s.done
  | none => s.taken = s.done

/-- Where `w` ends `Q` holds, and where it faults T is D or D + 1. -/
def Counted {α : Type} (w : Work α) (s : State) (Q : α → State → Prop) : Prop :=
  match w s with
  | .ok a t => Q a t
  | .error _ t => t.CountsLoose

section
variable {α β : Type} {w : Work α} {s t : State} {Q Q' : α → State → Prop}

theorem counted_pure {a : α} (h : Q a s) : Counted (pure a) s Q := h

theorem counted_fail {f : EngineFault} (h : s.CountsLoose) : Counted (fail f) s Q := h

theorem counted_update {g : State → State} {Q : Unit → State → Prop} (h : Q () (g s)) : Counted (update g) s Q := h

theorem counted_bind {g : α → Work β} {Q' : β → State → Prop} (hw : Counted w s Q) (hg : ∀ a t, Q a t → Counted (g a) t Q') :
    Counted (w >>= g) s Q' := by
  unfold Counted at hw ⊢
  rw [work_bind]
  cases hws : w s with
  | error f t => simpa [hws] using hw
  | ok a t =>
    rw [hws] at hw
    exact hg a t hw

@[simp] theorem counted_getState_bind {g : State → Work β} {Q : β → State → Prop} :
    Counted (getState >>= g) s Q ↔ Counted (g s) s Q := by
  simp [Counted]

theorem counted_update_bind {c : State → State} {g : Unit → Work β} {Q : β → State → Prop} (hg : Counted (g ()) (c s) Q) :
    Counted (update c >>= g) s Q :=
  counted_bind (Q := fun _ t => t = c s) (counted_update rfl) (fun _ _ e => e ▸ hg)

theorem counted_ite {c : Prop} [Decidable c] {v w : Work α} (hv : c → Counted v s Q) (hw : ¬ c → Counted w s Q) :
    Counted (if c then v else w) s Q := by
  split
  · exact hv ‹_›
  · exact hw ‹_›

theorem Counted.imp (h : Counted w s Q) (hq : ∀ a t, Q a t → Q' a t) : Counted w s Q' := by
  unfold Counted at h ⊢
  cases hw : w s with
  | ok a t =>
    rw [hw] at h
    exact hq a t h
  | error f t =>
    rw [hw] at h
    exact h

/-! ### Work that does not touch the counts -/

theorem loose_congr (h : SameClock s t) (hs : s.CountsLoose) : t.CountsLoose := by
  obtain ⟨htaken, hdone, -⟩ := h
  unfold State.CountsLoose at *
  rwa [htaken, hdone]

theorem strict_congr (h : SameClock s t) (hs : s.CountsStrict) : t.CountsStrict := by
  obtain ⟨htaken, hdone, -, -, -, -, hflight⟩ := h
  unfold State.CountsStrict at *
  rwa [htaken, hdone, hflight]

theorem State.CountsStrict.loose (h : s.CountsStrict) : s.CountsLoose := by
  unfold State.CountsStrict at h
  split at h
  · exact .inr h.1
  · exact .inl h

/-- Moves keep the counts, the engine state and the frame's count. -/
theorem Does.counted (h : Does Move w s Q) (hs : s.CountsLoose) : Counted w s (fun a t => SameClock s t ∧ Q a t) := by
  unfold Does at h
  unfold Counted
  cases hw : w s with
  | ok a t =>
    rw [hw] at h
    exact ⟨Moves.sameClock h.1, h.2⟩
  | error f t =>
    rw [hw] at h
    exact loose_congr (Moves.sameClock h) hs

/-- Work on the bus, and then more. -/
theorem BusWork.counted {g : α → Work β} {Q : β → State → Prop} (h : BusWork w) (hs : s.CountsLoose)
    (hg : ∀ a t, SameClock s t → Counted (g a) t Q) : Counted (w >>= g) s Q :=
  counted_bind ((h s).counted hs) fun a t ht => hg a t ht.1

/-- Work that moves, and then more. -/
theorem Does.countedThen {g : α → Work β} {P : α → State → Prop} {Q : β → State → Prop} (h : Does Move w s P) (hs : s.CountsLoose)
    (hg : ∀ a t, SameClock s t → Counted (g a) t Q) : Counted (w >>= g) s Q :=
  counted_bind (h.counted hs) fun a t ht => hg a t ht.1

theorem SameClock.engine (h : SameClock s t) : t.engine = s.engine := h.2.2.1

theorem SameClock.flight_none (h : SameClock s t) (hs : s.flight = none) : t.flight = none := by
  obtain ⟨-, -, -, -, -, -, hflight⟩ := h
  simpa [hs] using hflight

end

/-! ### What the counts are, with a frame and without -/

section
variable {s t : State}

/-- T is D, and no frame is in flight. -/
def State.CountsRest (s : State) : Prop :=
  s.flight = none ∧ s.taken = s.done

theorem State.CountsRest.strict (h : s.CountsRest) : s.CountsStrict := by
  obtain ⟨hf, hc⟩ := h
  simpa [State.CountsStrict, hf] using hc

theorem strict_of_flight {f : Flight} (hf : s.flight = some f) (ht : s.taken = s.done + 1) (hc : f.count = s.done) : s.CountsStrict := by
  simp [State.CountsStrict, hf, ht, hc]

theorem State.CountsStrict.rest (h : s.CountsStrict) (hf : s.flight = none) : s.CountsRest := by
  refine ⟨hf, ?_⟩
  simpa [State.CountsStrict, hf] using h

theorem State.CountsStrict.busy {f : Flight} (h : s.CountsStrict) (hf : s.flight = some f) : s.taken = s.done + 1 ∧ f.count = s.done := by
  simpa [State.CountsStrict, hf] using h

theorem rest_congr (h : SameClock s t) (hs : s.CountsRest) : t.CountsRest :=
  State.CountsStrict.rest (strict_congr h hs.strict) (h.flight_none hs.1)

/-- While the engine works the counts are strict, and DRAINING has a frame in flight (R169, R183). -/
theorem countsAgree_of_strict (h : s.CountsStrict) (hw : s.frameWorks = true) (hd : s.engine = .draining → s.flight.isSome = true) :
    s.CountsAgree := by
  refine ⟨?_, hd⟩
  cases hf : s.flight with
  | none => exact .inl (h.rest hf).2
  | some f =>
    obtain ⟨ht, hc⟩ := h.busy hf
    exact ⟨ht, hc, hw⟩

theorem countsAgree_of_rest (h : s.CountsRest) (hd : s.engine ≠ .draining) : s.CountsAgree := by
  obtain ⟨hf, hc⟩ := h
  exact ⟨by rw [hf]; exact .inl hc, fun he => absurd he hd⟩

theorem State.CountsAgree.strict (h : s.CountsAgree) (hw : s.frameWorks = true) : s.CountsStrict := by
  obtain ⟨hcounts, -⟩ := h
  cases hf : s.flight with
  | none =>
    rw [hf] at hcounts
    rcases hcounts with hc | ⟨-, he | he⟩
    · exact State.CountsRest.strict ⟨hf, hc⟩
    · simp [State.frameWorks, he] at hw
    · simp [State.frameWorks, he] at hw
  | some f =>
    rw [hf] at hcounts
    exact strict_of_flight hf hcounts.1 hcounts.2.1

theorem State.CountsAgree.loose (h : s.CountsAgree) : s.CountsLoose := by
  obtain ⟨hcounts, -⟩ := h
  cases hf : s.flight with
  | none =>
    rw [hf] at hcounts
    exact hcounts.imp_right And.left
  | some f =>
    rw [hf] at hcounts
    exact .inr hcounts.1

theorem State.CountsAgree.flight_none (h : s.CountsAgree) (hw : s.frameWorks = false) : s.flight = none := by
  obtain ⟨hcounts, -⟩ := h
  cases hf : s.flight with
  | none => rfl
  | some f =>
    rw [hf] at hcounts
    simp [hcounts.2.2] at hw

theorem countsAgree_congr (h : SameClock s t) (hs : s.CountsAgree) : t.CountsAgree := by
  obtain ⟨hcounts, hd⟩ := hs
  obtain ⟨htaken, hdone, hengine, -, -, -, hflight⟩ := h
  refine ⟨?_, fun he => ?_⟩
  · cases hf : s.flight with
    | none =>
      have hft : t.flight = none := by simpa [hf] using hflight
      rw [hf] at hcounts
      rw [hft]
      simpa [htaken, hdone, hengine] using hcounts
    | some f =>
      obtain ⟨g, hg, hgc⟩ : ∃ g, t.flight = some g ∧ g.count = f.count := by simpa [hf] using hflight
      rw [hf] at hcounts
      rw [hg]
      simpa [htaken, hdone, hgc, frameWorks_congr hengine] using hcounts
  · have hsome := hd (hengine.symm.trans he)
    rw [← Option.isSome_map (f := Flight.count), hflight, Option.isSome_map]
    exact hsome

/-- A fault abandons the frame: T stays at D or D + 1 (R169, R184). -/
theorem raise_countsAgree (h : s.CountsLoose) (f : EngineFault) : (s.raise f).CountsAgree :=
  ⟨h.imp id fun hc => ⟨hc, .inl rfl⟩, by simp [State.raise]⟩

theorem settle_countsAgree {α : Type} {w : Work α} (h : Counted w s (fun _ t => t.CountsAgree)) : (settle w s).CountsAgree := by
  unfold Counted at h
  unfold settle
  cases hw : w s with
  | ok a t =>
    rw [hw] at h
    exact h
  | error f t =>
    rw [hw] at h
    exact raise_countsAgree h f

/-! ### The cycle check (R171 to R173) -/

theorem counted_dropFrames (d : Nat) (h : s.CountsRest) :
    Counted (dropFrames d) s (fun _ t => t.CountsRest ∧ t.engine = s.engine) := by
  refine counted_update_bind ?_
  have hrest : State.CountsRest { s with
      taken := s.taken + BitVec.ofNat 32 d
      done := s.done + BitVec.ofNat 32 d
      dropTotal := s.dropTotal + BitVec.ofNat 32 d
      pendDropped := saturatingAdd Config.pendingLimit s.pendDropped d } := ⟨h.1, by simp [h.2]⟩
  refine writeTaken_busWork.counted (State.CountsStrict.loose hrest.strict) fun _ t ht => ?_
  have hrest := rest_congr ht hrest
  rw [counted_getState_bind]
  refine (writeDone_busWork _).counted (State.CountsStrict.loose hrest.strict) fun _ u hu => ?_
  have hrest := rest_congr hu hrest
  refine writeDropTotal_busWork.counted (State.CountsStrict.loose hrest.strict) fun _ v hv => ?_
  have hrest := rest_congr hv hrest
  refine ((does_countedGapPush d v).counted (State.CountsStrict.loose hrest.strict)).imp fun _ x hx => ?_
  exact ⟨rest_congr hx.1 hrest, by rw [hx.1.engine, hv.engine, hu.engine, ht.engine]⟩

/-- T is D + 1 before the frame taken is in flight. -/
def State.CountsTaken (s : State) : Prop :=
  s.flight = none ∧ s.taken = s.done + 1

theorem taken_congr (h : SameClock s t) (hs : s.CountsTaken) : t.CountsTaken := by
  refine ⟨h.flight_none hs.1, ?_⟩
  obtain ⟨htaken, hdone, -⟩ := h
  rw [htaken, hdone, hs.2]

theorem State.CountsTaken.loose (h : s.CountsTaken) : s.CountsLoose := .inr h.2

theorem counted_advanceDone (h : s.taken = s.done + 1) :
    Counted advanceDone s (fun _ t => t.taken = t.done ∧ t.engine = s.engine ∧ t.flight.map Flight.count = s.flight.map Flight.count) := by
  unfold advanceDone
  rw [counted_getState_bind]
  refine (writeDone_busWork _).counted (.inr h) fun _ t ht => counted_update ?_
  obtain ⟨htaken, hdone, hengine, -, -, -, hflight⟩ := ht
  simp only [State.setDone_taken, State.setDone_done, State.setDone_engine, State.setDone_flight]
  exact ⟨by rw [htaken, h, hdone], hengine, hflight⟩

theorem counted_mismatchFrame (notify byStep : Bool) (h : s.CountsTaken) :
    Counted (mismatchFrame notify byStep) s (fun _ t => t.CountsRest ∧ t.engine = s.engine) := by
  refine (does_countedGapPush 1 s).countedThen h.loose fun _ t ht => ?_
  have htaken := taken_congr ht h
  rw [counted_getState_bind]
  refine (writeStatus_busWork _ _).counted htaken.loose fun _ u hu => ?_
  have htaken := taken_congr hu htaken
  refine counted_bind (counted_advanceDone htaken.2) fun _ v hv => ?_
  obtain ⟨hdone, hengine, hflight⟩ := hv
  have hrest : v.CountsRest := ⟨by simpa [htaken.1] using hflight, hdone⟩
  refine (noticeIf_busWork notify).counted (State.CountsStrict.loose hrest.strict) fun _ x hx => ?_
  have hrest := rest_congr hx hrest
  have hsame : x.engine = s.engine := by rw [hx.engine, hengine, hu.engine, ht.engine]
  refine counted_ite (fun _ => counted_update ?_) (fun _ => counted_pure ⟨hrest, hsame⟩)
  exact ⟨⟨by simpa using hrest.1, by simpa using hrest.2⟩, by simpa using hsame⟩

theorem counted_takeFrame (byStep : Bool) (h : s.CountsRest) :
    Counted (takeFrame byStep) s (fun _ t => t.CountsStrict ∧ t.engine = s.engine) := by
  refine counted_update_bind ?_
  have htaken : (s.setTaken (s.done + 1)).CountsTaken := ⟨by simpa using h.1, by simp⟩
  refine writeTaken_busWork.counted htaken.loose fun _ t ht => ?_
  have htaken := taken_congr ht htaken
  rw [counted_getState_bind]
  refine (readWords_busWork _ _).counted htaken.loose fun header u hu => ?_
  have htaken := taken_congr hu htaken
  have hsame : u.engine = s.engine := by rw [hu.engine, ht.engine]; simp
  refine counted_ite (fun _ => counted_update ?_) (fun _ => ?_)
  · exact ⟨strict_of_flight (f := Flight.begin u (header.getD 1 0) byStep) rfl (by simpa using htaken.2) (by simp [Flight.begin]),
      by simpa using hsame⟩
  · exact (counted_mismatchFrame _ _ htaken).imp fun _ v hv => ⟨hv.1.strict, hv.2.trans hsame⟩

theorem counted_cycleCheck (byStep : Bool) (h : s.CountsRest) :
    Counted (cycleCheck byStep) s (fun _ t => t.CountsStrict ∧ t.engine = s.engine) := by
  refine (does_takeReadyEnd s).countedThen (State.CountsStrict.loose h.strict) fun _ t ht => ?_
  have hrest := rest_congr ht h
  rw [counted_getState_bind]
  refine (readWord_busWork _).counted (State.CountsStrict.loose hrest.strict) fun fill u hu => ?_
  have hrest := rest_congr hu hrest
  have hsame : u.engine = s.engine := by rw [hu.engine, ht.engine]
  rw [counted_getState_bind]
  refine counted_ite (fun _ => ?_) fun _ => ?_
  · refine ((does_idleCheck byStep u).counted (State.CountsStrict.loose hrest.strict)).imp fun _ v hv => ?_
    exact ⟨(rest_congr hv.1 hrest).strict, hv.1.engine.trans hsame⟩
  · refine counted_ite (fun _ => ?_) fun _ => (counted_takeFrame byStep hrest).imp fun _ v hv => ⟨hv.1, hv.2.trans hsame⟩
    refine counted_bind (counted_dropFrames _ hrest) fun _ v hv => ?_
    exact (counted_takeFrame byStep hv.1).imp fun _ x hx => ⟨hx.1, hx.2.trans (hv.2.trans hsame)⟩

/-! ### Ticks and steps (R170, R182) -/

/-- The counts are strict and the engine state is that of `s`. -/
def Onwards (s t : State) : Prop :=
  t.CountsStrict ∧ t.engine = s.engine

theorem onwards_of_same {u : State} (hu : Onwards s t) (h : SameClock t u) : Onwards s u :=
  ⟨strict_congr h hu.1, h.engine.trans hu.2⟩

theorem Onwards.trans {u : State} (h : Onwards s t) (hu : Onwards t u) : Onwards s u := ⟨hu.1, hu.2.trans h.2⟩

theorem Onwards.refl (h : s.CountsStrict) : Onwards s s := ⟨h, rfl⟩

theorem Does.onwards {α : Type} {w : Work α} {Q : α → State → Prop} (h : Does Move w s Q) (hs : s.CountsStrict) :
    Counted w s (fun _ t => Onwards s t) :=
  (h.counted (State.CountsStrict.loose hs)).imp fun _ _ ht => onwards_of_same (.refl hs) ht.1

theorem counted_runStages (n : Nat) (hw : s.frameWorks = true) (h : s.CountsStrict) :
    Counted (runStages n) s (fun _ t => Onwards s t) := by
  induction n generalizing s with
  | zero => exact counted_pure (.refl h)
  | succ n ih =>
    unfold runStages
    rw [counted_getState_bind]
    cases hf : s.flight with
    | none => exact counted_pure (.refl h)
    | some f =>
      refine counted_ite (fun _ => counted_pure (.refl h)) fun _ => ?_
      refine counted_bind ((does_frameUnit s f hf hw).onwards h) fun _ t ht => ?_
      exact (ih ((frameWorks_congr ht.2).trans hw) ht.1).imp fun _ u hu => ht.trans hu

/-- A tick's check is due only while no frame is in flight (R170). -/
theorem counted_runPlan (plan : List Party) (due : Bool) (hw : s.frameWorks = true) (h : s.CountsStrict)
    (hdue : due = true → s.flight = none) :
    Counted (runPlan plan due) s (fun still t => Onwards s t ∧ (still = true → t.flight = none)) := by
  induction plan generalizing due s with
  | nil => exact counted_pure ⟨.refl h, hdue⟩
  | cons p rest ih =>
    cases p with
    | intake =>
      refine counted_bind ((does_intakeUnit s).counted (State.CountsStrict.loose h)) fun _ t ht => ?_
      have hon := onwards_of_same (.refl h) ht.1
      exact (ih due ((frameWorks_congr hon.2).trans hw) hon.1 fun hd => ht.1.flight_none (hdue hd)).imp
        fun _ u hu => ⟨hon.trans hu.1, hu.2⟩
    | frame =>
      have hrest : ∀ t : State, Onwards s t →
          Counted (runPlan rest false) t (fun still u => Onwards s u ∧ (still = true → u.flight = none)) := fun t ht =>
        (ih false ((frameWorks_congr ht.2).trans hw) ht.1 (by simp)).imp fun _ u hu => ⟨ht.trans hu.1, hu.2⟩
      refine counted_ite (fun hd => ?_) (fun _ => ?_)
      · exact counted_bind (counted_cycleCheck false (h.rest (hdue hd))) fun _ t ht => hrest t ht
      · exact counted_bind ((does_stageUnit s hw).onwards h) fun _ t ht => hrest t ht

theorem counted_tickEnd (due finish : Bool) (hw : s.frameWorks = true) (h : s.CountsStrict) (hdue : due = true → s.flight = none) :
    Counted (do
      if due then cycleCheck false else pure ()
      if finish then runStagesFor none else pure ()) s (fun _ t => Onwards s t) := by
  have hstages : ∀ t : State, Onwards s t →
      Counted (if finish then runStagesFor none else pure ()) t (fun _ u => Onwards s u) := fun t ht =>
    counted_ite (fun _ => (counted_runStages _ ((frameWorks_congr ht.2).trans hw) ht.1).imp fun _ u hu => ht.trans hu)
      (fun _ => counted_pure ht)
  refine counted_ite (fun hd => ?_) (fun _ => hstages s (.refl h))
  exact counted_bind (counted_cycleCheck false (h.rest (hdue hd))) fun _ t ht => hstages t ht

theorem counted_tickWork (timing : TickTiming) (hw : s.frameWorks = true) (h : s.CountsStrict) :
    Counted (tickWork timing) s (fun _ t => Onwards s t) := by
  unfold tickWork
  rw [counted_getState_bind]
  have hrest : ∀ t : State, SameClock s t → Counted (do
      beginIntake
      let due ← runPlan timing.plan (!s.frameBusy)
      if timing.finish then finishIntake else pure ()
      if due then cycleCheck false else pure ()
      if timing.finish then runStagesFor none else pure ()) t (fun _ u => Onwards s u) := by
    intro t ht
    refine (does_beginIntake t).countedThen (loose_congr ht (State.CountsStrict.loose h)) fun _ u hu => ?_
    have hon := onwards_of_same (onwards_of_same (.refl h) ht) hu
    have hdue : (!s.frameBusy) = true → u.flight = none := fun hd =>
      hu.flight_none (ht.flight_none (by simpa [State.frameBusy] using hd))
    refine counted_bind (counted_runPlan timing.plan _ ((frameWorks_congr hon.2).trans hw) hon.1 hdue) fun due v hv => ?_
    have hon' := hon.trans hv.1
    have hend : ∀ x : State, SameClock v x → Counted (do
        if due then cycleCheck false else pure ()
        if timing.finish then runStagesFor none else pure ()) x (fun _ y => Onwards s y) := fun x hx =>
      (counted_tickEnd due _ ((frameWorks_congr (onwards_of_same hon' hx).2).trans hw) (onwards_of_same hon' hx).1
        fun hd => hx.flight_none (hv.2 hd)).imp fun _ y hy => (onwards_of_same hon' hx).trans hy
    refine counted_ite (fun _ => ?_) (fun _ => hend v ⟨rfl, rfl, rfl, rfl, rfl, rfl, rfl⟩)
    exact (does_runIntake _ v).countedThen (State.CountsStrict.loose hon'.1) fun _ x hx => hend x hx
  refine counted_ite (fun _ => ?_) (fun _ => hrest s ⟨rfl, rfl, rfl, rfl, rfl, rfl, rfl⟩)
  exact (does_busyTick s).countedThen (State.CountsStrict.loose h) fun _ t ht => hrest t ht

/-- A unit of the block's own progress leaves DRAINING with its frame. -/
theorem counted_progress (hw : s.frameWorks = true) (h : s.CountsStrict) (hd : s.engine = .draining → s.flight.isSome = true) :
    Counted progress s (fun _ t => Onwards s t ∧ (t.engine = .draining → t.flight.isSome = true)) := by
  have hkept : ∀ {α : Type} {w : Work α} {Q : α → State → Prop}, Does Move w s Q →
      Counted w s (fun _ t => Onwards s t ∧ (t.engine = .draining → t.flight.isSome = true)) := fun hdoes =>
    (hdoes.counted (State.CountsStrict.loose h)).imp fun _ t ht => by
      refine ⟨onwards_of_same (.refl h) ht.1, fun he => ?_⟩
      have hsome := hd (ht.1.engine.symm.trans he)
      obtain ⟨-, -, -, -, -, -, hflight⟩ := ht.1
      rwa [← Option.isSome_map (f := Flight.count), hflight, Option.isSome_map]
  unfold progress
  rw [counted_getState_bind]
  refine counted_ite (fun _ => hkept (does_intakeUnit s)) fun _ => ?_
  cases hf : s.flight with
  | some f => exact hkept (does_frameUnit s f hf hw)
  | none =>
    have hidle : s.engine ≠ .draining := fun he => by simp [hf, he] at hd
    refine counted_ite (fun _ => counted_update_bind ?_) fun _ => counted_pure ⟨.refl h, fun he => absurd he hidle⟩
    have hrest : (s.setStepDue false).CountsRest := ⟨by simpa using hf, by simpa using (h.rest hf).2⟩
    refine (counted_cycleCheck true hrest).imp fun _ t ht => ?_
    have hsame : t.engine = s.engine := by simpa using ht.2
    exact ⟨⟨ht.1, hsame⟩, fun he => absurd (hsame.symm.trans he) hidle⟩

theorem counted_runStep (n : Nat) (hw : s.frameWorks = true) (h : s.CountsStrict) (hd : s.engine ≠ .draining) :
    Counted (runStep n) s (fun _ t => Onwards s t) := by
  induction n generalizing s with
  | zero => exact counted_pure (.refl h)
  | succ n ih =>
    unfold runStep
    rw [counted_getState_bind]
    refine counted_ite (fun _ => ?_) (fun _ => counted_pure (.refl h))
    refine counted_bind (counted_progress hw h fun he => absurd he hd) fun _ t ht => ?_
    exact (ih ((frameWorks_congr ht.1.2).trans hw) ht.1.1 (by rwa [ht.1.2])).imp fun _ u hu => ht.1.trans hu

theorem counted_stepWork (units : Option Nat) (hw : s.frameWorks = true) (h : s.CountsStrict) (hd : s.engine ≠ .draining) :
    Counted (stepWork units) s (fun _ t => Onwards s t) := by
  refine counted_update_bind ?_
  have hstrict : ((s.setStepResult .none).setStepDue true).CountsStrict := by simpa [State.CountsStrict] using h
  refine (does_beginIntake _).countedThen (State.CountsStrict.loose hstrict) fun _ t ht => ?_
  have hengine : t.engine = s.engine := by simpa using ht.engine
  exact (counted_runStep _ ((frameWorks_congr hengine).trans hw) (strict_congr ht hstrict) (by rwa [hengine])).imp
    fun _ u hu => ⟨hu.1, hu.2.trans hengine⟩

/-! ### The end of a frame (R174, R183) -/

theorem counted_runToCount (n : Nat) (hw : s.frameWorks = true) (h : s.CountsStrict) :
    Counted (runToCount n) s (fun _ t => SameClock s t) := by
  induction n generalizing s with
  | zero => exact counted_pure ⟨rfl, rfl, rfl, rfl, rfl, rfl, rfl⟩
  | succ n ih =>
    unfold runToCount
    rw [counted_getState_bind]
    cases hf : s.flight with
    | none => exact counted_pure ⟨rfl, rfl, rfl, rfl, rfl, rfl, rfl⟩
    | some f =>
      refine counted_ite (fun _ => counted_pure ⟨rfl, rfl, rfl, rfl, rfl, rfl, rfl⟩) fun _ => ?_
      refine counted_bind ((does_frameUnit s f hf hw).counted (State.CountsStrict.loose h)) fun _ t ht => ?_
      refine (ih ((frameWorks_congr ht.1.engine).trans hw) (strict_congr ht.1 h)).imp fun _ u hu => ?_
      obtain ⟨a, b, c, d, e, f, g⟩ := ht.1
      obtain ⟨a', b', c', d', e', f', g'⟩ := hu
      exact ⟨a'.trans a, b'.trans b, c'.trans c, d'.trans d, e'.trans e, f'.trans f, g'.trans g⟩

theorem counted_closeFrame (f : Flight) (h : s.taken = s.done + 1) :
    Counted (closeFrame f) s (fun _ t => t.CountsRest ∧ t.engine = s.engine) := by
  refine counted_bind (counted_advanceDone h) fun _ t ht => ?_
  obtain ⟨hdone, hengine, -⟩ := ht
  refine (noticeIf_busWork _).counted (.inl hdone) fun _ u hu => counted_update ?_
  obtain ⟨hut, hud, hue, -⟩ := hu
  refine ⟨⟨by simp, ?_⟩, by simpa using hue.trans hengine⟩
  simpa [hut, hud] using hdone

theorem counted_afterFrame (units : Option Nat) (hw : s.frameWorks = true) (h : s.CountsRest) :
    Counted (afterFrame units) s (fun _ t => t.CountsAgree) := by
  unfold afterFrame
  rw [counted_getState_bind]
  refine counted_ite (fun _ => counted_update (countsAgree_of_rest ?_ (by simp))) fun hd => ?_
  · exact ⟨by simpa using h.1, by simpa using h.2⟩
  · have hagree : ∀ t : State, Onwards s t → t.CountsAgree := fun t ht =>
      countsAgree_of_strict ht.1 ((frameWorks_congr ht.2).trans hw) fun he => absurd (ht.2.symm.trans he) hd
    refine (does_takeReadyEnd s).countedThen (State.CountsStrict.loose h.strict) fun _ t ht => ?_
    have hrest := rest_congr ht h
    have hon := onwards_of_same (.refl h.strict) ht
    refine counted_ite (fun _ => counted_update_bind ?_) fun _ => counted_pure (hagree t hon)
    have hrest' : (t.setTickPending false).CountsRest := ⟨by simpa using hrest.1, by simpa using hrest.2⟩
    refine counted_bind (counted_cycleCheck false hrest') fun _ u hu => ?_
    have hon' : Onwards s u := ⟨hu.1, by rw [hu.2, State.setTickPending_engine, hon.2]⟩
    exact (counted_runStages _ ((frameWorks_congr hon'.2).trans hw) hu.1).imp fun _ v hv => hagree v (hon'.trans hv)

theorem counted_endFrame (units : Option Nat) (hw : s.frameWorks = true) (h : s.CountsAgree) :
    Counted (endFrame units) s (fun _ t => t.CountsAgree) := by
  refine counted_bind (counted_runToCount _ hw (h.strict hw)) fun _ t ht => ?_
  have hagree := countsAgree_congr ht h
  have hworks : t.frameWorks = true := (frameWorks_congr ht.engine).trans hw
  rw [counted_getState_bind]
  cases hf : t.flight with
  | none => exact counted_pure hagree
  | some f =>
    refine counted_ite (fun _ => ?_) fun _ => counted_pure hagree
    obtain ⟨hbusy, -⟩ := State.CountsStrict.busy (hagree.strict hworks) hf
    refine counted_bind (counted_closeFrame f hbusy) fun _ u hu => ?_
    exact counted_afterFrame units ((frameWorks_congr hu.2).trans hworks) hu.1

/-! ### START, HALT and ABORT (R181, R183) -/

theorem counted_startWork (enters : EngineState) (he : s.engine = .halted) (h : s.CountsAgree) (hd : enters ≠ .draining) :
    Counted (startWork enters) s (fun _ t => t.CountsAgree) := by
  have hnone := h.flight_none (by simp [State.frameWorks, he])
  unfold startWork
  rw [counted_getState_bind]
  refine counted_ite (fun _ => counted_fail h.loose) fun _ => ?_
  refine readPage_busWork.counted h.loose fun p t ht => ?_
  rw [counted_getState_bind]
  split
  · exact counted_fail (loose_congr ht h.loose)
  · have hstep : ∀ {w : Work Unit} {g : Unit → Work Unit} {u : State}, BusWork w → u.CountsRest →
        (∀ v : State, v.CountsRest → Counted (g ()) v (fun _ x => x.CountsAgree)) →
        Counted (w >>= g) u (fun _ x => x.CountsAgree) := fun hw hu hg =>
      hw.counted (State.CountsStrict.loose hu.strict) fun _ v hv => hg v (rest_congr hv hu)
    refine counted_update_bind ?_
    have hrest : (t.startWith p).CountsRest := ⟨ht.flight_none hnone, rfl⟩
    refine hstep writeTaken_busWork hrest fun _ h1 => hstep writeIdleTotal_busWork h1 fun _ h2 =>
      hstep writeOverloadTotal_busWork h2 fun _ h3 => hstep writeDropTotal_busWork h3 fun _ h4 =>
      hstep writeGapTotal_busWork h4 fun u h5 => counted_update_bind ?_
    have hrest' : ((u.setEngine enters).resumeMover).CountsRest := ⟨by simpa using h5.1, by simpa using h5.2⟩
    refine ((does_takeReadyEnd _).counted (State.CountsStrict.loose hrest'.strict)).imp fun _ v hv => ?_
    exact countsAgree_of_rest (rest_congr hv.1 hrest') (by rw [hv.1.engine]; simpa using hd)

theorem counted_abortFrame (f : Flight) (h : s.CountsLoose) : Counted (abortFrame f) s (fun _ t => t.CountsRest) := by
  refine (writeStatus_busWork _ _).counted h fun _ t ht => ?_
  rw [counted_getState_bind]
  refine (writeDone_busWork _).counted (loose_congr ht h) fun _ u _ => counted_update_bind ?_
  have heven : (u.setDone u.taken).taken = (u.setDone u.taken).done := by simp
  refine (noticeIf_busWork _).counted (.inl heven) fun _ v hv => counted_update ⟨by simp, ?_⟩
  obtain ⟨hvt, hvd, -⟩ := hv
  simp [hvt, hvd]

theorem counted_abortWork (hw : s.frameWorks = true) (h : s.CountsAgree) :
    Counted abortWork s (fun _ t => t.CountsAgree) := by
  have hlast : ∀ t : State, t.CountsRest → Counted
      (update fun s => ((s.setTickPending false).setStepDue false).setEngine .halted) t (fun _ u => u.CountsAgree) := fun t ht =>
    counted_update (countsAgree_of_rest ⟨by simpa using ht.1, by simpa using ht.2⟩ (by simp))
  have htransfer : ∀ t : State, t.CountsRest → t.transfer = s.transfer → Counted (do
      match s.transfer with
      | some t => endByAbort t
      | none => pure ()
      update fun s => ((s.setTickPending false).setStepDue false).setEngine .halted) t (fun _ u => u.CountsAgree) := by
    intro t ht hu
    cases hs : s.transfer with
    | none => exact hlast t ht
    | some u =>
      exact (does_endByAbort t u (hu.trans hs)).countedThen (State.CountsStrict.loose ht.strict) fun _ v hv => hlast v (rest_congr hv ht)
  unfold abortWork
  rw [counted_getState_bind]
  cases hf : s.flight with
  | none => exact htransfer s (State.CountsStrict.rest (h.strict hw) hf) rfl
  | some f =>
    have hboth : Counted (abortFrame f) s (fun _ t => t.CountsRest ∧ t.transfer = s.transfer) := by
      have hc := counted_abortFrame f h.loose
      have hd := does_abortFrame f s
      unfold Counted at hc ⊢
      unfold Does at hd
      cases hws : abortFrame f s with
      | ok a t =>
        rw [hws] at hc hd
        exact ⟨hc, hd.2⟩
      | error g t =>
        rw [hws] at hc
        exact hc
    exact counted_bind hboth fun _ t ht => htransfer t ht.1 ht.2

theorem halt_countsAgree (h : s.CountsAgree) (hw : s.frameWorks = true) : s.halt.CountsAgree := by
  have hstrict := h.strict hw
  rw [State.halt_eq]
  cases hf : s.flight with
  | none =>
    have hrest := hstrict.rest hf
    exact countsAgree_of_rest ⟨by simpa using hf, by simpa using hrest.2⟩ (by simp [State.frameBusy, hf])
  | some f =>
    obtain ⟨ht, hc⟩ := hstrict.busy hf
    refine countsAgree_of_strict (strict_of_flight (f := f) (by simpa using hf) (by simpa using ht) (by simpa using hc)) ?_ ?_
    · simp [State.frameWorks, State.frameBusy, hf]
    · simp [hf]

theorem afterCut_countsAgree {act : State → State} (h : s.CountsAgree)
    (hact : ∀ t : State, t.CountsAgree → t.engine = s.engine → (act t).CountsAgree) : (afterCut s act).CountsAgree := by
  have hcut := (does_cutIntake s).counted h.loose
  unfold Counted at hcut
  unfold afterCut
  cases hw : cutIntake s with
  | ok a t =>
    rw [hw] at hcut
    obtain ⟨hsame, -⟩ := hcut
    have hheed : t.heed.CountsAgree := countsAgree_congr hsame h
    exact hact t.heed hheed (by simpa using hsame.engine)
  | error f t =>
    rw [hw] at hcut
    exact raise_countsAgree hcut f

theorem attempt_countsAgree (h : s.CountsAgree) (units : Option Nat) (a : EngineAction) : (s.attempt units a).CountsAgree := by
  unfold State.attempt
  split
  · rename_i htakes
    have hheed : s.heed.CountsAgree := h
    cases a with
    | start => exact settle_countsAgree (counted_startWork .running (by simpa [State.takes] using htakes) hheed (by simp))
    | startStepped => exact settle_countsAgree (counted_startWork .stepWait (by simpa [State.takes] using htakes) hheed (by simp))
    | step =>
      have hengine : s.engine = .stepWait := by
        simp only [State.takes, Bool.and_eq_true, decide_eq_true_eq] at htakes
        exact htakes.1
      have hw : s.heed.frameWorks = true := by simp [State.frameWorks, hengine]
      have hd : s.heed.engine ≠ .draining := by simp [hengine]
      refine settle_countsAgree ((counted_stepWork units hw (hheed.strict hw) hd).imp fun _ t ht => ?_)
      exact countsAgree_of_strict ht.1 ((frameWorks_congr ht.2).trans hw) fun he => absurd (ht.2.symm.trans he) hd
    | halt =>
      refine afterCut_countsAgree h fun t ht he => halt_countsAgree ht ?_
      simp only [State.takes, Bool.or_eq_true, decide_eq_true_eq] at htakes
      rcases htakes with hs | hs <;> simp [State.frameWorks, he, hs]
    | abort =>
      refine afterCut_countsAgree h fun t ht he => settle_countsAgree (counted_abortWork ?_ ht)
      simpa [State.takes, State.frameWorks, he] using htakes
    | softReset => exact ⟨.inl rfl, fun he => by simp [State.act, State.softReset, State.cleared, State.reset] at he⟩
    | ackNotice => exact h
  · exact h

/-! ### Every command -/

theorem cleared_countsAgree (s : State) : s.cleared.CountsAgree :=
  ⟨.inl rfl, fun he => by simp [State.cleared, State.reset] at he⟩

theorem moves_countsAgree {α : Type} {w : Work α} {Q : α → State → Prop} (hd : Does Move w s Q) (h : s.CountsAgree) :
    (settle w s).CountsAgree :=
  settle_countsAgree ((hd.counted h.loose).imp fun _ _ ht => countsAgree_congr ht.1 h)

theorem moveSegment_countsAgree (d : Direction) (h : s.CountsAgree) : (moveSegment d s).CountsAgree := by
  unfold moveSegment
  split
  · split
    · exact moves_countsAgree (does_runSegment _ _) (s := s.setGrants s.grants.tail) h
    · exact h
  · exact h

theorem exec_countsAgree (i : Instr) (h : s.CountsAgree) (he : exec i s = .next t) : t.CountsAgree := by
  cases i with
  | powerOn => exact Host.Outcome.next.inj he ▸ cleared_countsAgree s
  | resetN level =>
    cases level with
    | low => exact Host.Outcome.next.inj he ▸ cleared_countsAgree s
    | high => exact Host.Outcome.next.inj he ▸ h
  | resetClearingEnd =>
    simp only [exec, execResetClearingEnd] at he
    split at he
    · rename_i hc
      obtain rfl := Host.Outcome.next.inj he
      have hnone := h.flight_none (by simp [State.frameWorks, hc.1])
      refine countsAgree_of_rest ⟨by simpa using hnone, ?_⟩ (by simp)
      have hcounts := h.1
      simpa [hnone, hc.1] using hcounts
    · exact Host.Outcome.next.inj he ▸ h
  | xbaseWrite value =>
    simp only [exec, execXbaseWrite] at he
    split at he <;> exact Host.Outcome.next.inj he ▸ h
  | registerWriteNoEffect register value => cases register <;> exact Host.Outcome.next.inj he ▸ h
  | efaultRead =>
    simp only [exec, execEfaultRead] at he
    split at he
    · rename_i hc
      obtain rfl := Host.Outcome.next.inj he
      have hnone := h.flight_none (by simp [State.frameWorks, hc])
      refine ⟨?_, fun hd => by simp at hd⟩
      show match s.flight with
        | some f => _
        | none => _
      rw [hnone]
      exact h.loose.imp_right fun hc => ⟨hc, .inr rfl⟩
    · exact Host.Outcome.next.inj he ▸ h
  | start => exact Host.Outcome.next.inj he ▸ attempt_countsAgree h none .start
  | startStepped => exact Host.Outcome.next.inj he ▸ attempt_countsAgree h none .startStepped
  | step units => exact Host.Outcome.next.inj he ▸ attempt_countsAgree h units .step
  | halt => exact Host.Outcome.next.inj he ▸ attempt_countsAgree h none .halt
  | abort => exact Host.Outcome.next.inj he ▸ attempt_countsAgree h none .abort
  | softReset => exact Host.Outcome.next.inj he ▸ attempt_countsAgree h none .softReset
  | ackNotice => exact Host.Outcome.next.inj he ▸ attempt_countsAgree h none .ackNotice
  | ectlValueIgnored value =>
    simp only [exec, execEctlValueIgnored] at he
    split at he
    · exact Host.Outcome.next.inj he ▸ attempt_countsAgree h none _
    · exact Host.Outcome.next.inj he ▸ h
  | blktick timing =>
    simp only [exec, execBlktick] at he
    split at he
    · rename_i hr
      obtain rfl := Host.Outcome.next.inj he
      have hw : s.frameWorks = true := by simp [State.frameWorks, hr]
      refine settle_countsAgree ((counted_tickWork timing hw (h.strict hw)).imp fun _ t ht => ?_)
      exact countsAgree_of_strict ht.1 ((frameWorks_congr ht.2).trans hw) fun hd => by simp [ht.2, hr] at hd
    · exact Host.Outcome.next.inj he ▸ h
  | captureSegment => exact Host.Outcome.next.inj he ▸ moveSegment_countsAgree .capture h
  | restoreSegment => exact Host.Outcome.next.inj he ▸ moveSegment_countsAgree .restore h
  | restoreEnd =>
    simp only [exec, execRestoreEnd] at he
    split at he
    · exact Host.Outcome.next.inj he ▸ moves_countsAgree (does_takeReadyEnd s) h
    · exact Host.Outcome.next.inj he ▸ h
  | frameCycleEnd units =>
    simp only [exec, execFrameCycleEnd] at he
    split at he
    · rename_i hc
      exact Host.Outcome.next.inj he ▸ settle_countsAgree (counted_endFrame units hc.1 h)
    · exact Host.Outcome.next.inj he ▸ h
  | storageUpset slot part value =>
    simp only [exec, execStorageUpset] at he
    split at he <;> exact Host.Outcome.next.inj he ▸ h

theorem step_countsAgree (h : s.CountsAgree) (hs : step s = .next t) : t.CountsAgree := by
  unfold step at hs
  split at hs
  · unfold execIdle at hs
    split at hs
    · rename_i hw
      obtain rfl := Host.Outcome.next.inj hs
      refine settle_countsAgree ((counted_progress hw (h.strict hw) h.2).imp fun _ t ht => ?_)
      exact countsAgree_of_strict ht.1.1 ((frameWorks_congr ht.1.2).trans hw) ht.2
    · exact Host.Outcome.next.inj hs ▸ h
  · rename_i rest _
    exact exec_countsAgree _ (s := { s with pending := rest }) h hs

end

end Sys2Proof.Machine

namespace Sys2Proof

open Sys2Proof.Machine

/-- Settles O55: T runs ahead of D only between the taking of a frame and its end, and a fault alone leaves it there. -/
theorem countsStayInStep : Obligations.CountsStayInStep := fun _ _ hs h => step_countsAgree hs h

end Sys2Proof
end

section
/-! The step, the RESET state, the registers and the actions that a state does not take (R177, R179, R180, R184, R185). -/

namespace Sys2Proof.Machine

/-! ### The RESET state (R185) -/

theorem historyCleared_empty : History.cleared = History.empty := rfl

theorem cleared_slot (s : State) (i : Nat) : s.cleared.slot i = { parts := List.replicate 258 0, bad := 0 } := rfl

/-- The clearing leaves every field as R185 lists it. -/
theorem cleared_clearedFrom (s : State) : s.cleared.ClearedFrom s :=
  ⟨rfl, rfl, rfl, rfl, rfl, cleared_slot s, rfl, fun c => by rw [cleared_chan]; rfl, rfl, rfl, rfl, rfl, rfl, rfl, rfl, rfl, rfl, rfl, rfl,
    rfl, rfl, rfl, rfl, historyCleared_empty, rfl, rfl, rfl, rfl, rfl, rfl⟩

/-- XBASE and the level on RESET_N are not among what is cleared. -/
theorem clearedFrom_of_pins {s t : State} (h : t.ClearedFrom s) (xbase : Word) (low : Bool) :
    ({ t with xbase := xbase, resetLow := low } : State).ClearedFrom s := h

theorem exec_resetClearingEnd_held {s : State} (h : s.resetLow = true ∨ s.engine ≠ .reset) : exec .resetClearingEnd s = .next s := by
  refine if_neg fun hc => ?_
  rcases h with h | h
  · simp [h] at hc
  · exact h hc.1

/-! ### Actions (R180) -/

theorem attempt_ignored {s : State} {units : Option Nat} {a : EngineAction} (h : s.takes a = false) :
    s.attempt units a = { s with ignored := true } := by
  unfold State.attempt
  rw [h]
  rfl

/-- A value outside 1..7 names no action (R179). -/
theorem actionOf_outside {v : Word} (h : v.toNat < 1 ∨ 7 < v.toNat) : actionOf v = none := by
  unfold actionOf
  split_ifs <;> simp_all

/-! ### ESTAT (R179) -/

/-- ESTAT bit by bit, field after field from bit 0 on. -/
theorem estat_getLsbD (s : State) (i : Nat) : s.estat.getLsbD i =
    if i < 3 then (engineBits s.engine).getLsbD i
    else if i - 3 < 1 then (BitVec.ofBool s.frameBusy).getLsbD (i - 3)
    else if i - 3 - 1 < 1 then (BitVec.ofBool s.tickPending).getLsbD (i - 3 - 1)
    else if i - 3 - 1 - 1 < 2 then (moverBits s.transfer).getLsbD (i - 3 - 1 - 1)
    else if i - 3 - 1 - 1 - 2 < 1 then (BitVec.ofBool s.lock).getLsbD (i - 3 - 1 - 1 - 2)
    else if i - 3 - 1 - 1 - 2 - 1 < 1 then (BitVec.ofBool s.notice).getLsbD (i - 3 - 1 - 1 - 2 - 1)
    else if i - 3 - 1 - 1 - 2 - 1 - 1 < 1 then (BitVec.ofBool s.ignored).getLsbD (i - 3 - 1 - 1 - 2 - 1 - 1)
    else if i - 3 - 1 - 1 - 2 - 1 - 1 - 1 < 2 then (stepResultBits s.stepResult).getLsbD (i - 3 - 1 - 1 - 2 - 1 - 1 - 1)
    else false := by
  show BitVec.getLsbD (w := 20 + 2 + 1 + 1 + 1 + 2 + 1 + 1 + 3) _ i = _
  unfold State.estat
  simp only [BitVec.getLsbD_append, BitVec.getLsbD_zero]

/-- The field of ESTAT that starts at bit 0. -/
theorem estat_engine (s : State) : s.estat.extractLsb' 0 3 = engineBits s.engine := by
  refine BitVec.eq_of_getLsbD_eq fun i hi => ?_
  rw [BitVec.getLsbD_extractLsb', estat_getLsbD, if_pos (by omega)]
  simp [hi]

theorem estat_mover (s : State) : s.estat.extractLsb' 5 2 = moverBits s.transfer := by
  refine BitVec.eq_of_getLsbD_eq fun i hi => ?_
  rw [BitVec.getLsbD_extractLsb', estat_getLsbD, if_neg (by omega), if_neg (by omega), if_neg (by omega), if_pos (by omega),
    show 5 + i - 3 - 1 - 1 = i by omega]
  simp [hi]

theorem estat_stepResult (s : State) : s.estat.extractLsb' 10 2 = stepResultBits s.stepResult := by
  refine BitVec.eq_of_getLsbD_eq fun i hi => ?_
  rw [BitVec.getLsbD_extractLsb', estat_getLsbD, if_neg (by omega), if_neg (by omega), if_neg (by omega), if_neg (by omega),
    if_neg (by omega), if_neg (by omega), if_neg (by omega), if_pos (by omega), show 10 + i - 3 - 1 - 1 - 2 - 1 - 1 - 1 = i by omega]
  simp [hi]

/-- The bits not listed read 0. -/
theorem estat_above (s : State) {i : Nat} (hi : 12 ≤ i) : s.estat.getLsbD i = false := by
  rw [estat_getLsbD, if_neg (by omega), if_neg (by omega), if_neg (by omega), if_neg (by omega), if_neg (by omega),
    if_neg (by omega), if_neg (by omega), if_neg (by omega)]

end Sys2Proof.Machine

namespace Sys2Proof

open Sys2Proof.Machine

/-- Settles O1. -/
theorem stepTakesFrontCommand : Obligations.StepTakesFrontCommand := by
  refine ⟨fun _ _ _ => rfl, fun s hp hf hi hd => ?_⟩
  have hidle : step s = execIdle s := by simp only [step, hp]
  rw [hidle]
  unfold execIdle
  split
  · simp [settle, progress, hf, hi, hd]
  · rfl

/-- Settles O2. -/
theorem powerOnAndSoftResetClear : Obligations.PowerOnAndSoftResetClear := by
  intro s
  refine ⟨⟨_, rfl, clearedFrom_of_pins (cleared_clearedFrom s) 0 s.resetLow, rfl, rfl, rfl⟩, fun h => ?_⟩
  have htakes : s.takes .softReset = true := by simpa [State.takes] using h
  refine ⟨s.cleared, ?_, cleared_clearedFrom s, rfl, rfl, rfl⟩
  simp [exec, execSoftReset, State.attempt, htakes, State.act, State.softReset]

/-- Settles O3. -/
theorem resetPinAndClearingEnd : Obligations.ResetPinAndClearingEnd := by
  intro s
  refine ⟨⟨_, rfl, clearedFrom_of_pins (cleared_clearedFrom s) 0 true, rfl, rfl, rfl, exec_resetClearingEnd_held (.inl rfl)⟩, rfl,
    fun he hl => ?_, exec_resetClearingEnd_held⟩
  exact if_pos ⟨he, hl⟩

/-- Settles O4. -/
theorem registerAccesses : Obligations.RegisterAccesses := by
  intro s
  refine ⟨fun v => ?_, fun r v => by cases r <;> rfl, fun h => ?_, fun h hc hd => ?_⟩
  · simp only [exec, execXbaseWrite]
    split <;> rfl
  · simp only [exec, execEfaultRead, if_pos h]
    rfl
  · simp only [exec, execEfaultRead, if_neg h]
    cases s
    subst hc hd
    rfl

/-- Settles O5: ESTAT is put together field by field. -/
theorem statusShownAndNoticeAcknowledged : Obligations.StatusShownAndNoticeAcknowledged := by
  intro s
  exact ⟨⟨estat_engine s, by rw [estat_getLsbD]; simp [State.frameBusy], by rw [estat_getLsbD]; simp, estat_mover s,
    by rw [estat_getLsbD]; simp, by rw [estat_getLsbD]; simp, by rw [estat_getLsbD]; simp, estat_stepResult s,
    fun _ hi => estat_above s hi⟩, _, rfl, rfl, rfl⟩

/-- Settles O6. -/
theorem untakenActionsAreIgnored : Obligations.UntakenActionsAreIgnored := by
  intro s
  refine ⟨fun h => ⟨?_, ?_⟩, fun h u => ?_, fun h1 h2 => ?_, fun h1 h2 h3 => ?_, fun h => ?_, fun v h => ?_, fun v a ha ht => ?_⟩
  · exact congrArg _ (attempt_ignored (by simpa [State.takes] using h))
  · exact congrArg _ (attempt_ignored (by simpa [State.takes] using h))
  · refine congrArg _ (attempt_ignored ?_)
    rcases h with h | h <;> simp [State.takes, State.frameBusy, h]
  · exact congrArg _ (attempt_ignored (by simp [State.takes, h1, h2]))
  · exact congrArg _ (attempt_ignored (by simp [State.takes, h1, h2, h3]))
  · exact congrArg _ (attempt_ignored (by simp [State.takes, h]))
  · simp only [exec, execEctlValueIgnored, actionOf_outside h]
    rfl
  · simp only [exec, execEctlValueIgnored, ha]
    exact congrArg _ (attempt_ignored ht)

/-- Settles O53. -/
theorem resetStateSound : Obligations.ResetStateSound := by
  have hchan : ∀ c, State.reset.chan c = .off := fun c => cleared_chan State.reset c
  have hranges : State.reset.WithinRanges := by
    refine (withinRanges_iff _).mpr ⟨⟨fun c => (hchan c).symm ▸ channel_off_inRange, cleared_inRange ⟨le_rfl, by decide⟩, by decide,
      nofun, nofun⟩, nofun, nofun, nofun⟩
  have hpool : State.reset.PoolSound := by
    refine (poolSound_iff _).mpr ⟨⟨⟨.nil, .nil, nofun⟩, fun c => ?_⟩, by decide, by decide, nofun, nofun, nofun, nofun⟩
    rw [hchan c]
    exact ⟨nofun, fun h => absurd rfl h⟩
  refine ⟨cleared_clearedFrom State.reset, rfl, rfl, rfl, cleared_countsAgree State.reset, fun _ => ⟨rfl, rfl⟩, Nat.zero_le _,
    ⟨Nat.zero_le _, nofun, nofun⟩, ⟨List.nodup_nil, fun c => ?_⟩, ⟨fun c => ?_, fun c _ => ?_⟩, hranges, hpool⟩
  · rw [hchan c]
    exact ⟨nofun, nofun⟩
  · rw [hchan c]
    exact ⟨nofun, nofun⟩
  · rw [hchan c]
    rfl

end Sys2Proof
end

section
/-! Shared memory for the statements: which runs of bytes are apart, what a write leaves of the rest, and what reads back where it was
written, wherever in the 32-bit address space it lies. -/

namespace Sys2Proof.Machine

/-! ### Runs of bytes -/

theorem cellOf_ne {a b : Nat} (h : a < b) (hn : b < a + 4294967296) : cellOf a ≠ cellOf b := by
  unfold cellOf
  omega

theorem Apart.symm {a n b m : Nat} (h : Apart a n b m) : Apart b m a n := fun i hi j hj he => h j hj i hi he.symm

/-- Runs inside runs that are apart. -/
theorem Apart.sub {a n b m a' n' b' m' : Nat} (h : Apart a n b m) (ha : a ≤ a') (ha' : a' + n' ≤ a + n) (hb : b ≤ b')
    (hb' : b' + m' ≤ b + m) : Apart a' n' b' m' := by
  intro i hi j hj
  have := h (a' - a + i) (by omega) (b' - b + j) (by omega)
  rwa [show a + (a' - a + i) = a' + i by omega, show b + (b' - b + j) = b' + j by omega] at this

/-- Two runs one after the other, within one turn of the address space. -/
theorem apart_of_le {a n b m : Nat} (h : a + n ≤ b) (hm : b + m ≤ a + 4294967296) : Apart a n b m := fun i hi j hj =>
  cellOf_ne (by omega) (by omega)

theorem apart_of_ge {a n b m : Nat} (h : b + m ≤ a) (hm : a + n ≤ b + 4294967296) : Apart a n b m := (apart_of_le h hm).symm

/-- Aligned runs of 64 bytes at different addresses. -/
theorem apart_of_aligned {a b : Word} (ha : a.toNat % 64 = 0) (hb : b.toNat % 64 = 0) (h : a ≠ b) : Apart a.toNat 64 b.toNat 64 := by
  have hne : a.toNat ≠ b.toNat := fun he => h (BitVec.eq_of_toNat_eq he)
  have hla := a.isLt
  have hlb := b.isLt
  rcases Nat.lt_or_gt_of_ne hne with hlt | hgt
  · exact apart_of_le (by omega) (by omega)
  · exact apart_of_ge (by omega) (by omega)

/-! ### What a change of memory leaves -/

/-- Every byte outside the regions reads in `m'` as in `m`. -/
def MemKeeps (m m' : List Host.Cell) (regions : List (Nat × Nat)) : Prop :=
  ∀ a, (∀ r ∈ regions, ∀ i < r.2, cellOf a ≠ cellOf (r.1 + i)) → readByte m' a = readByte m a

/-- The regions lie within other regions. -/
def Covers (inner outer : List (Nat × Nat)) : Prop :=
  ∀ r ∈ inner, ∃ q ∈ outer, q.1 ≤ r.1 ∧ r.1 + r.2 ≤ q.1 + q.2

section
variable {m m' m'' : List Host.Cell} {rs qs : List (Nat × Nat)}

theorem memKeeps_iff {s t : State} : KeepsBytesBut s t rs ↔ MemKeeps s.mem t.mem rs := Iff.rfl

theorem MemKeeps.refl (m : List Host.Cell) (rs : List (Nat × Nat)) : MemKeeps m m rs := fun _ _ => rfl

theorem MemKeeps.cover (h : MemKeeps m m' rs) (hc : Covers rs qs) : MemKeeps m m' qs := by
  intro a ha
  refine h a fun r hr i hi => ?_
  obtain ⟨q, hq, hle, hend⟩ := hc r hr
  have := ha q hq (r.1 - q.1 + i) (by omega)
  rwa [show q.1 + (r.1 - q.1 + i) = r.1 + i by omega] at this

theorem MemKeeps.trans (h : MemKeeps m m' rs) (h' : MemKeeps m' m'' qs) : MemKeeps m m'' (rs ++ qs) := fun a ha =>
  (h' a fun r hr => ha r (List.mem_append_right _ hr)).trans (h a fun r hr => ha r (List.mem_append_left _ hr))

/-- Two changes within the same regions. -/
theorem MemKeeps.trans_same (h : MemKeeps m m' rs) (h' : MemKeeps m' m'' rs) : MemKeeps m m'' rs := fun a ha =>
  (h' a ha).trans (h a ha)

theorem memKeeps_writeBytes (m : List Host.Cell) (a : Nat) (vs : List Byte) : MemKeeps m (writeBytes m a vs) [(a, vs.length)] :=
  fun b hb => readByte_writeBytes_other m a vs b fun i hi => hb _ (List.mem_singleton_self _) i hi

theorem memKeeps_writeWord (m : List Host.Cell) (a : Nat) (w : Word) : MemKeeps m (writeBytes m a (wordBytes w)) [(a, 4)] :=
  memKeeps_writeBytes m a (wordBytes w)

theorem memKeeps_memWithWords (m : List Host.Cell) (a : Nat) (ws : List Word) :
    MemKeeps m (memWithWords m a ws) [(a, 4 * ws.length)] :=
  fun b hb => readByte_memWithWords_other m a ws b fun i hi => hb _ (List.mem_singleton_self _) i hi

/-- A byte apart from the regions reads as before. -/
theorem MemKeeps.byte (h : MemKeeps m m' rs) {a : Nat} (ha : ∀ r ∈ rs, Apart a 1 r.1 r.2) : readByte m' a = readByte m a :=
  h a fun r hr i hi => by simpa using ha r hr 0 (by omega) i hi

/-- A word apart from the regions reads as before. -/
theorem MemKeeps.word (h : MemKeeps m m' rs) {a : Nat} (ha : ∀ r ∈ rs, Apart a 4 r.1 r.2) : memWord m' a = memWord m a := by
  have hbyte : ∀ i < 4, readByte m' (a + i) = readByte m (a + i) := fun i hi =>
    h.byte fun r hr => (ha r hr).sub (by omega) (by omega) le_rfl le_rfl
  simp only [memWord, hbyte 3 (by omega), hbyte 2 (by omega), hbyte 1 (by omega), by simpa using hbyte 0 (by omega)]

end

theorem memWord_writeBytes_apart (m : List Host.Cell) {a b : Nat} {vs : List Byte} (h : Apart b 4 a vs.length) :
    memWord (writeBytes m a vs) b = memWord m b :=
  (memKeeps_writeBytes m a vs).word fun r hr => by
    obtain rfl := List.mem_singleton.mp hr
    exact h

/-! ### Reading back -/

/-- A run of at most 2^32 bytes reads back, across the end of the address space too. -/
theorem readByte_writeBytes_at (m : List Host.Cell) (a : Nat) (vs : List Byte) (hfit : vs.length ≤ 4294967296) (i : Nat)
    (hi : i < vs.length) : readByte (writeBytes m a vs) (a + i) = vs[i] := by
  induction vs generalizing m a i with
  | nil => simp at hi
  | cons v vs ih =>
    simp only [List.length_cons] at hfit hi
    cases i with
    | zero =>
      simp only [writeBytes, Nat.add_zero, List.getElem_cons_zero]
      rw [readByte_writeBytes_other _ _ _ _ fun j hj => cellOf_ne (by omega) (by omega)]
      exact readByte_writeByte_same m a v
    | succ i =>
      have := ih (writeByte m a v) (a + 1) (by omega) i (by omega)
      simpa [writeBytes, Nat.add_assoc, Nat.add_comm 1 i] using this

@[simp] theorem readByte_writeBytes_one (m : List Host.Cell) (a : Nat) (v : Byte) : readByte (writeBytes m a [v]) a = v :=
  readByte_writeBytes_at m a [v] (by simp) 0 (by simp)

/-- A word's bytes put together give the word (R178). -/
theorem wordBytes_join (w : Word) :
    w.extractLsb' 24 8 ++ w.extractLsb' 16 8 ++ w.extractLsb' 8 8 ++ w.extractLsb' 0 8 = w := by
  refine BitVec.eq_of_getLsbD_eq fun i hi => ?_
  simp only [BitVec.getLsbD_append, BitVec.getLsbD_extractLsb']
  split_ifs <;> (rw [decide_eq_true (by omega), Bool.true_and]; congr 1; omega)

@[simp] theorem memWord_writeBytes_wordBytes (m : List Host.Cell) (a : Nat) (w : Word) :
    memWord (writeBytes m a (wordBytes w)) a = w := by
  have g := readByte_writeBytes_at m a (wordBytes w) (by simp [wordBytes])
  have g0 := g 0 (by simp [wordBytes])
  have g1 := g 1 (by simp [wordBytes])
  have g2 := g 2 (by simp [wordBytes])
  have g3 := g 3 (by simp [wordBytes])
  simp only [Nat.add_zero] at g0
  simp only [memWord, g0, g1, g2, g3]
  exact wordBytes_join w

/-- The words of a run read back. -/
theorem memWord_memWithWords (m : List Host.Cell) (a : Nat) (ws : List Word) (hfit : 4 * ws.length ≤ 4294967296) (i : Nat)
    (hi : i < ws.length) : memWord (memWithWords m a ws) (a + 4 * i) = ws[i] := by
  induction ws generalizing m a i with
  | nil => simp at hi
  | cons w ws ih =>
    simp only [List.length_cons] at hfit hi
    cases i with
    | zero =>
      have hrest := (memKeeps_memWithWords (writeBytes m a (wordBytes w)) (a + 4) ws).word (a := a) fun r hr => by
        obtain rfl := List.mem_singleton.mp hr
        exact apart_of_le (by omega) (by omega)
      have hword : memWord (memWithWords m a (w :: ws)) a = w := hrest.trans (memWord_writeBytes_wordBytes m a w)
      simpa using hword
    | succ i =>
      have := ih (writeBytes m a (wordBytes w)) (a + 4) (by omega) i (by omega)
      rwa [show a + 4 + 4 * i = a + 4 * (i + 1) by omega] at this

/-- Byte `i` of a word of memory (R178). -/
theorem byteOf_memWord (m : List Host.Cell) (a i : Nat) (hi : i < 4) : byteOf (memWord m a) i = readByte m (a + i) := by
  refine BitVec.eq_of_getLsbD_eq fun j hj => ?_
  simp only [byteOf, memWord, BitVec.getLsbD_extractLsb', BitVec.getLsbD_append, hj, decide_true, Bool.true_and]
  interval_cases i
  · rw [if_pos (by omega)]
    simp
  · rw [if_neg (by omega), if_pos (by omega)]
    congr 1
    omega
  · rw [if_neg (by omega), if_neg (by omega), if_pos (by omega)]
    congr 1
    omega
  · rw [if_neg (by omega), if_neg (by omega), if_neg (by omega)]
    congr 1
    omega

theorem wordBytes_eq_byteOf (w : Word) : wordBytes w = [byteOf w 0, byteOf w 1, byteOf w 2, byteOf w 3] := rfl

/-- The bytes of a word of memory, in the order of their addresses. -/
theorem wordBytes_memWord (m : List Host.Cell) (a : Nat) :
    wordBytes (memWord m a) = [readByte m a, readByte m (a + 1), readByte m (a + 2), readByte m (a + 3)] := by
  rw [wordBytes_eq_byteOf, byteOf_memWord m a 0 (by omega), byteOf_memWord m a 1 (by omega), byteOf_memWord m a 2 (by omega),
    byteOf_memWord m a 3 (by omega), Nat.add_zero]

theorem memWords_eq_map (m : List Host.Cell) (a n : Nat) : memWords m a n = (List.range n).map (fun i => memWord m (a + 4 * i)) := by
  refine List.ext_getElem (by simp) fun i h1 h2 => ?_
  rw [memWords_getElem m a n i (by simpa using h1)]
  simp

theorem memWords_getD (m : List Host.Cell) (a n i : Nat) (h : i < n) : (memWords m a n).getD i 0 = memWord m (a + 4 * i) := by
  rw [List.getD_eq_getElem _ _ (by simpa using h), memWords_getElem m a n i h]

/-! ### Completions (R145) -/

theorem codeNumber_eq (code : Code) : codeWord code = codeNumber code := by cases code <;> rfl

theorem lateCode_eq (late : Bool) (code : Code) : lateCode late code = if late = true ∧ code = .ok then .late else code := by
  cases late <;> simp [lateCode]

@[simp] theorem lateCode_ok (late : Bool) : lateCode late .ok = if late then .late else .ok := by
  cases late <;> rfl

theorem lateCode_of_ne {late : Bool} {code : Code} (h : code ≠ .ok) : lateCode late code = code := by
  simp [lateCode, h]

/-- Memory `m` carries a completion in the record at `address` (R145). -/
def MemCompleted (m : List Host.Cell) (address : Word) (code : Code) (sequence result : Word) : Prop :=
  memWord m (address.toNat + 0x30) = result ∧ memWord m (address.toNat + 0x2C) = codeNumber code ∧
  memWord m (address.toNat + 0x28) = sequence ∧ readByte m (address.toNat + 4) = 3

section
variable {m m' : List Host.Cell} {address : Word} {code : Code} {sequence result : Word}

theorem memCompleted_iff {t : State} :
    CompletedIn t address code sequence result ↔ MemCompleted t.mem address code sequence result := Iff.rfl

theorem memCompleted_memWithCompletion (m : List Host.Cell) (address : Word) (code : Code) (sequence result : Word) :
    MemCompleted (memWithCompletion m address code sequence result) address code sequence result := by
  unfold MemCompleted memWithCompletion
  generalize address.toNat = a
  have howner : ∀ (m : List Host.Cell) b, a + 5 ≤ b → b ≤ a + 60 → memWord (writeBytes m (a + 4) [3#8]) b = memWord m b :=
    fun m b h1 h2 => memWord_writeBytes_apart m (apart_of_ge h1 (by omega))
  have hbelow : ∀ (m : List Host.Cell) (c b : Nat) (w : Word), c + 4 ≤ b → b ≤ c + 60 →
      memWord (writeBytes m c (wordBytes w)) b = memWord m b :=
    fun m c b w h1 h2 => memWord_writeBytes_apart m (apart_of_ge h1 (by omega))
  refine ⟨?_, ?_, ?_, readByte_writeBytes_one _ _ _⟩
  · rw [howner _ _ (by omega) (by omega), hbelow _ _ _ _ (by omega) (by omega), hbelow _ _ _ _ (by omega) (by omega),
      memWord_writeBytes_wordBytes]
  · rw [howner _ _ (by omega) (by omega), hbelow _ _ _ _ (by omega) (by omega), memWord_writeBytes_wordBytes, codeNumber_eq]
  · rw [howner _ _ (by omega) (by omega), memWord_writeBytes_wordBytes]

theorem memKeeps_memWithCompletion (m : List Host.Cell) (address : Word) (code : Code) (sequence result : Word) :
    MemKeeps m (memWithCompletion m address code sequence result) (completionBytes address) := by
  unfold memWithCompletion completionBytes
  generalize address.toNat = a
  have hword : ∀ (m : List Host.Cell) (b : Nat) (w : Word), a + 0x28 ≤ b → b + 4 ≤ a + 0x28 + 12 →
      MemKeeps m (writeBytes m b (wordBytes w)) [(a + 0x28, 12), (a + 4, 1)] := fun m b w h1 h2 =>
    (memKeeps_writeWord m b w).cover fun r hr => ⟨(a + 0x28, 12), by simp, by
      obtain rfl := List.mem_singleton.mp hr
      exact ⟨h1, h2⟩⟩
  have hresult := hword m (a + 0x30) result (by omega) (by omega)
  have hcode := fun m => hword m (a + 0x2C) (codeWord code) (by omega) (by omega)
  have hsequence := fun m => hword m (a + 0x28) sequence (by omega) (by omega)
  refine ((hresult.trans_same (hcode _)).trans_same (hsequence _)).trans_same ?_
  exact (memKeeps_writeBytes _ (a + 4) [3#8]).cover fun r hr => ⟨(a + 4, 1), by simp, by
    obtain rfl := List.mem_singleton.mp hr
    exact ⟨le_rfl, le_rfl⟩⟩

/-- A completion outlasts changes apart from its record. -/
theorem MemCompleted.kept {rs : List (Nat × Nat)} (h : MemCompleted m address code sequence result) (hk : MemKeeps m m' rs)
    (ha : ∀ r ∈ rs, Apart address.toNat 64 r.1 r.2) : MemCompleted m' address code sequence result := by
  obtain ⟨hresult, hcode, hsequence, howner⟩ := h
  have hword : ∀ o ≤ 60, memWord m' (address.toNat + o) = memWord m (address.toNat + o) := fun o ho =>
    hk.word fun r hr => (ha r hr).sub (by omega) (by omega) le_rfl le_rfl
  refine ⟨?_, ?_, ?_, ?_⟩
  · rw [hword _ (by omega), hresult]
  · rw [hword _ (by omega), hcode]
  · rw [hword _ (by omega), hsequence]
  · rw [hk.byte fun r hr => (ha r hr).sub (by omega) (by omega) le_rfl le_rfl, howner]

/-- The bytes of a completion lie in the record of 64 bytes. -/
theorem apart_completionBytes {b n : Nat} (h : Apart b n address.toNat 64) : ∀ r ∈ completionBytes address, Apart b n r.1 r.2 := by
  intro r hr
  simp only [completionBytes, List.mem_cons, List.not_mem_nil, or_false] at hr
  rcases hr with rfl | rfl
  · exact h.sub le_rfl le_rfl (by simp) (by simp)
  · exact h.sub le_rfl le_rfl (by simp) (by simp)

end

end Sys2Proof.Machine
end

section
/-! What the shared operations leave when no access fails: the pool's slots after a zeroing, the ends of a transfer, and a taken entry's
application at stage 1. -/

namespace Sys2Proof.Machine

/-! ### Slots of the pool -/

section
variable {s t : State}

theorem slot_congr (h : t.pool = s.pool) (i : Nat) : t.slot i = s.slot i := by
  unfold State.slot
  rw [h]

theorem slot_setSlot (s : State) (i j : Nat) (v : Slot) : (s.setSlot i v).slot j = if j = i then v else s.slot j := by
  by_cases h : j = i
  · subst h
    simp [State.slot, State.setSlot]
  · simpa [State.slot, State.setSlot, h] using sparseGet_put_other _ _ _ h

theorem slot_writeSlot (s : State) (i j : Nat) (ps : List Word) :
    (s.writeSlot i ps).slot j = if j = i then { parts := ps, bad := 0 } else s.slot j :=
  slot_setSlot s i j _

/-- A zeroing leaves zeros in its slots and the others alone (R98, R102). -/
theorem slot_zeroSlots (s : State) (base n i : Nat) :
    (s.zeroSlots base n).slot i = if base ≤ i ∧ i < base + n then Slot.zero else s.slot i := by
  induction n with
  | zero =>
    rw [if_neg (by omega)]
    rfl
  | succ n ih =>
    have hlast : s.zeroSlots base (n + 1) = (s.zeroSlots base n).setSlot (base + n) Slot.zero := by
      simp [State.zeroSlots_eq, zeroPool, List.range_succ, List.foldl_append, State.setSlot]
    rw [hlast, slot_setSlot, ih]
    by_cases h : i = base + n
    · rw [if_pos h, if_pos (by omega)]
    · rw [if_neg h]
      exact if_congr (by omega) rfl rfl

theorem extent_congr (h : t.alloc = s.alloc) (c : Nat) : t.extent c = s.extent c := by
  unfold State.extent
  rw [h]

end

/-! ### Ends of a transfer -/

section
variable {s : State}

/-- The record at `address` completed, and the notice it asks for (R145). -/
def State.completing (s : State) (address : Word) (code : Code) (sequence result : Word) (notify : Bool) : State :=
  (s.setMem (memWithCompletion s.mem address code sequence result)).setNotice (s.notice || notify)

theorem complete_eq (address : Word) (code : Code) (sequence result : Word) (notify : Bool) (h : s.bus = []) :
    complete address code sequence result notify s = .ok () (s.completing address code sequence result notify) :=
  complete_quiet address code sequence result notify s h

theorem completeTransfer_quiet (u : Transfer) (code : Code) (result : Word) (h : s.bus = []) :
    completeTransfer u code result s = .ok () (s.completing u.cmd (lateCode u.late code) s.done result u.notify) := by
  simp [completeTransfer, complete_eq, h]

theorem writeValidity_quiet (a : Word) (v : Validity) (h : s.bus = []) :
    writeValidity a v s = .ok () (s.setMem (writeBytes s.mem a.toNat (wordBytes (validityWord v)))) :=
  writeWord_quiet _ _ _ h

/-- A capture ended early: INVALID in its header, its record complete, its flag clear and the mover idle (R162, R163, R164). -/
theorem endCaptureEarly_quiet (u : Transfer) (code : Code) (result : Word) (h : s.bus = []) :
    endCaptureEarly u code result s = .ok () (((s.endCapture u).setMem (writeBytes s.mem u.slotAddr.toNat (wordBytes 3))).completing
      u.cmd (lateCode u.late code) s.done result u.notify) := by
  have hbus : (s.endCapture u).bus = [] := by simpa [State.endCapture, State.modChan_eq] using h
  have hmem : (s.endCapture u).mem = s.mem := by simp [State.endCapture, State.modChan_eq]
  have hdone : (s.endCapture u).done = s.done := by simp [State.endCapture, State.modChan_eq]
  simp [endCaptureEarly, writeValidity_quiet, completeTransfer_quiet, hbus, hmem, hdone, validityWord]

/-- The mover's transfer ended ABORTED within an application (R162). -/
theorem endByApplication_quiet (u : Transfer) (h : s.bus = []) :
    endByApplication u s = .ok () (match u.direction with
      | .capture => ((s.endCapture u).setMem (writeBytes s.mem u.slotAddr.toNat (wordBytes 3))).completing u.cmd .aborted s.done
          (BitVec.ofNat 32 u.progress) u.notify
      | .restore => (s.setTransfer none).completing u.cmd .aborted s.done (BitVec.ofNat 32 u.progress) u.notify) := by
  have hlate : lateCode u.late .aborted = .aborted := lateCode_of_ne (by simp)
  cases hd : u.direction with
  | capture => simp [endByApplication, hd, endCaptureEarly_quiet, h, hlate]
  | restore => simp [endByApplication, hd, completeTransfer_quiet, h, hlate]

end

/-! ### An application at stage 1 -/

section
variable {s : State} {f : Flight} {e : Entry}

/-- The state with the waiting commands, the intake and the action table changed. -/
def State.outside (s : State) (p : List Instr → List Instr) (q : Option Intake → Option Intake) (r : List Entry → List Entry) : State :=
  { s with pending := p s.pending, intake := q s.intake, table := r s.table }

/-- An application that completes at once does not touch the waiting commands, the intake and the table, and does not depend on
them (R33). -/
theorem immediate_outside {change : State → State × Code × Word} (h : e.immediate = some change) (s : State)
    (p : List Instr → List Instr) (q : Option Intake → Option Intake) (r : List Entry → List Entry) :
    change (s.outside p q r) = ((change s).1.outside p q r, (change s).2) := by
  have hchan : ∀ c, (s.outside p q r).chan c = s.chan c := fun c => rfl
  have halloc : (s.outside p q r).alloc = s.alloc := rfl
  have hgeo : (s.outside p q r).geo = s.geo := rfl
  unfold Entry.immediate at h
  cases ha : e.action with
  | configure parts =>
    simp only [ha, Option.some.injEq] at h
    subst h
    simp only [applyConfigure, configureOff, configureOn, hchan, halloc, hgeo]
    split
    · split
      · rfl
      · by_cases hf : freeTotal s.alloc < parts * s.geo.refs
        · simp only [if_pos hf]
        · simp only [if_neg hf]
    · split_ifs <;> rfl
  | release =>
    simp only [ha, Option.some.injEq] at h
    subst h
    simp only [applyRelease, hchan]
    split <;> rfl
  | reset =>
    simp only [ha, Option.some.injEq] at h
    subst h
    simp only [applyReset, hchan]
    split <;> rfl
  | freeze =>
    simp only [ha, Option.some.injEq] at h
    subst h
    simp only [applyFreeze, hchan]
    split <;> rfl
  | thaw =>
    simp only [ha, Option.some.injEq] at h
    subst h
    have hqueue : ((s.outside p q r).modChan e.chan Channel.thawed).enqueueThawed e.chan =
        ((s.modChan e.chan Channel.thawed).enqueueThawed e.chan).outside p q r := by
      have : ((s.outside p q r).modChan e.chan Channel.thawed).chan e.chan = (s.modChan e.chan Channel.thawed).chan e.chan := rfl
      simp only [State.enqueueThawed, this]
      split <;> rfl
    simp only [applyThaw, hchan]
    split
    · simp only [withState, hqueue]
      rfl
    all_goals rfl
  | setWindow w =>
    simp only [ha, Option.some.injEq] at h
    subst h
    simp only [applySetWindow, hchan]
    split <;> rfl
  | setTuning mask values =>
    simp only [ha, Option.some.injEq] at h
    subst h
    simp only [applySetTuning, hchan]
    split_ifs <;> rfl
  | capture index => simp [ha] at h
  | restore index => simp [ha] at h

theorem immediate_setTable {change : State → State × Code × Word} (h : e.immediate = some change) (s : State) (v : List Entry) :
    change (s.setTable v) = ((change s).1.setTable v, (change s).2) :=
  immediate_outside h s id id fun _ => v

/-- With a due entry, the unit of stage 1 applies it whole (R32). -/
theorem step_reachesEntry (h : s.ReachesEntry f e) {t : State} (ha : applyEntry f.count e s = .ok () t) :
    step s = .next (t.setFlight (some (f.applied e.chan (s.zeroes e)))) := by
  obtain ⟨hat, hdue, -⟩ := h
  have hphase : f.phase = .apply := by
    obtain ⟨-, -, -, -, hphase, -⟩ := hat
    exact hphase
  rw [step_atPhase hat]
  simp [frameUnit, hphase, applyUnit, hdue, ha, settle, setFlight]

/-- The application of an entry that completes at once, from the state `u` in which no transfer is left for it to end. -/
theorem applyEntry_immediate {seq : Word} {change : State → State × Code × Word} {u : State} (hm : e.chan < s.geo.mics)
    (hi : e.immediate = some change) (hend : endTransferFor e s = .ok () u) (hbus : u.bus = []) (hgeo : u.geo = s.geo) :
    applyEntry seq e s = .ok () (((change u).1.removeEntry e).completing e.addr (lateCode e.late (change u).2.1) seq (change u).2.2
      e.notify) := by
  obtain ⟨channels, alloc, pool, queue, hfields⟩ := immediate_eq hi u
  have htable : (change u).1.table = u.table := by rw [hfields]
  have hquiet : ((change u).1.setTable (u.table.erase e)).bus = [] := by
    rw [State.setTable_bus, hfields]
    exact hbus
  simp only [applyEntry, work_bind, getState_apply, if_pos hm, hend, update_apply, State.removeEntry_eq, htable]
  rw [applyAction_immediate (by simpa [hgeo] using hm) hi, immediate_setTable hi]
  simp only [complete_eq _ _ _ _ _ hquiet]

/-- An application ends no transfer on another channel, and none where its kind leaves the extent alone (R103, R162). -/
theorem endTransferFor_none (h : ∀ u, s.transfer = some u → u.chan = e.chan → endsTransfer s e = false) :
    endTransferFor e s = .ok () s := by
  cases hu : s.transfer with
  | none => simp [endTransferFor, hu]
  | some u =>
    have hc : ¬ (u.chan = e.chan ∧ endsTransfer s e = true) := fun hc => by simp [h u hu hc.1] at hc
    simp [endTransferFor, hu, hc]

/-- The state after an entry's application whose effect on channels, pool and queue is that of `u`. -/
def State.appliedTo (s : State) (f : Flight) (e : Entry) (u : State) (code : Code) (result : Word) : State :=
  { s with
    channels := u.channels
    alloc := u.alloc
    pool := u.pool
    queue := u.queue
    table := s.table.erase e
    mem := memWithCompletion s.mem e.addr (lateCode e.late code) f.count result
    notice := s.notice || e.notify
    flight := some (f.applied e.chan (s.zeroes e)) }

theorem appliedAs_appliedTo (s : State) (f : Flight) (e : Entry) (u : State) (code : Code) (result : Word) :
    AppliedAs s (s.appliedTo f e u code result) e f.count code result := by
  refine ⟨rfl, ?_, rfl, memKeeps_memWithCompletion _ _ _ _ _⟩
  rw [← lateCode_eq]
  exact memCompleted_memWithCompletion _ _ _ _ _

/-- The next unit applies an entry that completes at once and ends no transfer. -/
theorem step_applies {change : State → State × Code × Word} {u : State} {code : Code} {result : Word} (h : s.AppliesNext f e)
    (hi : e.immediate = some change) (hkeep : ∀ v, s.transfer = some v → v.chan = e.chan → endsTransfer s e = false)
    (hchange : change s = (u, code, result)) : step s = .next (s.appliedTo f e u code result) := by
  obtain ⟨hreach, -, hm⟩ := h
  have hbus : s.bus = [] := hreach.1.2.2.2.2.2
  rw [step_reachesEntry hreach (applyEntry_immediate hm hi (endTransferFor_none hkeep) hbus rfl)]
  obtain ⟨channels, alloc, pool, queue, hfields⟩ := immediate_eq hi s
  simp only [hchange] at hfields ⊢
  subst hfields
  simp only [State.appliedTo, State.completing, State.removeEntry_eq, State.setFlight, State.setNotice, State.setMem, State.setTable]

theorem applied_false (f : Flight) (c : Nat) : f.applied c false = { f with asks := false } := rfl

theorem stateWord (st : ChanState) : BitVec.ofNat 32 st.value = stateNumber st := by cases st <;> rfl

end

end Sys2Proof.Machine
end

section
/-! Applications of stage 1 that complete at once: FREEZE, THAW, CONFIGURE_CHANNEL, RELEASE_CHANNEL, RESET_CHANNEL, SET_WINDOW,
SET_TUNING, the refusals of R75 to R79 and R144, and the end of the stage. -/

namespace Sys2Proof.Machine

section
variable {s : State} {f : Flight} {e : Entry} {change : State → State × Code × Word} {code : Code} {result : Word}

theorem State.AppliesNext.chan_lt (h : s.AppliesNext f e) : e.chan < 16 := by
  obtain ⟨-, hm, hc⟩ := h
  omega

/-- The flight after an application that wrote no zeros. -/
theorem appliedTo_of_zeroes_false (u : State) (hz : s.zeroes e = false) : (s.appliedTo f e u code result).flight = some { f with asks := false } := by
  simp [State.appliedTo, hz, applied_false]

/-- A refusal, or an application that finds nothing to change. -/
theorem applies_unchanged (h : s.AppliesNext f e) (hi : e.immediate = some change)
    (hkeep : ∀ v, s.transfer = some v → v.chan = e.chan → endsTransfer s e = false) (hz : s.zeroes e = false)
    (hchange : change s = (s, code, result)) :
    ∃ t, step s = .next t ∧
      t = { s with table := t.table, mem := t.mem, notice := t.notice, flight := some { f with asks := false } } ∧
      AppliedAs s t e f.count code result := by
  refine ⟨_, step_applies h hi hkeep hchange, ?_, appliedAs_appliedTo s f e s code result⟩
  simp only [State.appliedTo, hz, applied_false]

/-! ### FREEZE and THAW (R77, R78) -/

theorem applies_freeze (h : s.AppliesNext f e) (ha : e.action = .freeze) {u : State} (hchange : applyFreeze s e.chan = (u, code, result)) :
    step s = .next (s.appliedTo f e u code result) ∧ s.zeroes e = false :=
  ⟨step_applies (change := fun s => applyFreeze s e.chan) h (by simp [Entry.immediate, ha]) (fun _ _ _ => by simp [endsTransfer, ha])
    hchange, by simp [State.zeroes, ha]⟩

theorem applies_thaw (h : s.AppliesNext f e) (ha : e.action = .thaw) {u : State} (hchange : applyThaw s e.chan = (u, code, result)) :
    step s = .next (s.appliedTo f e u code result) ∧ s.zeroes e = false :=
  ⟨step_applies (change := fun s => applyThaw s e.chan) h (by simp [Entry.immediate, ha]) (fun _ _ _ => by simp [endsTransfer, ha])
    hchange, by simp [State.zeroes, ha]⟩

theorem applyFreeze_adapting {c : Nat} {p : PriorState} (hc : c < 16)
    (h : ((s.chan c).state = .acquire ∧ p = .acquire) ∨ ((s.chan c).state = .track ∧ p = .track)) :
    applyFreeze s c = ((s.modChan c (fun ctx => ctx.frozen p)).dequeue c, .ok, 3) := by
  have hstate : (((s.modChan c (fun ctx => ctx.frozen p)).dequeue c).chan c).state = .held := by
    simp [State.modChan_eq, chan_setChan_same _ _ hc, Channel.frozen]
  rcases h with ⟨hst, rfl⟩ | ⟨hst, rfl⟩ <;> simp only [applyFreeze, hst, withState, hstate] <;> rfl

theorem applyThaw_held {c : Nat} (h : (s.chan c).state = .held) :
    applyThaw s c = withState ((s.modChan c Channel.thawed).enqueueThawed c) c .ok := by
  simp only [applyThaw, h]

theorem thawed_state {x : Channel} {p : PriorState} (h : x.prior = some p) :
    x.thawed.state = if p = .track then ChanState.track else ChanState.acquire := by
  cases p <;> simp [Channel.thawed, priorOf, h]

theorem enqueueThawed_eq {c : Nat} {p : PriorState} (hc : c < 16) (h : (s.chan c).prior = some p) :
    (s.modChan c Channel.thawed).enqueueThawed c = (s.modChan c Channel.thawed).setQueue
      (if p = .track then s.queue.filter (fun d => decide (d ≠ c)) ++ [c] else c :: s.queue.filter (fun d => decide (d ≠ c))) := by
  have hstate : ((s.modChan c Channel.thawed).chan c).state = if p = .track then ChanState.track else ChanState.acquire := by
    rw [State.modChan_eq, chan_setChan_same _ _ hc, thawed_state h]
  have hqueue : (s.modChan c Channel.thawed).queue = s.queue := rfl
  cases p <;> simp [State.enqueueThawed, hstate, State.toHead, State.toTail, hqueue]

/-- FREEZE in HELD and THAW in an adapting state change nothing; in RESTORING and SUSPENDED both are refused. -/
theorem freeze_thaw_unchanged (h : s.AppliesNext f e)
    (hchange : e.action = .freeze ∧ applyFreeze s e.chan = (s, code, stateNumber (s.chan e.chan).state) ∨
      e.action = .thaw ∧ applyThaw s e.chan = (s, code, stateNumber (s.chan e.chan).state)) :
    ∃ t, step s = .next t ∧
      t = { s with table := t.table, mem := t.mem, notice := t.notice, flight := some { f with asks := false } } ∧
      AppliedAs s t e f.count code (stateNumber (s.chan e.chan).state) := by
  rcases hchange with ⟨hact, hchange⟩ | ⟨hact, hchange⟩
  · exact applies_unchanged (change := fun s => applyFreeze s e.chan) h (by simp [Entry.immediate, hact])
      (fun _ _ _ => by simp [endsTransfer, hact]) (by simp [State.zeroes, hact]) hchange
  · exact applies_unchanged (change := fun s => applyThaw s e.chan) h (by simp [Entry.immediate, hact])
      (fun _ _ _ => by simp [endsTransfer, hact]) (by simp [State.zeroes, hact]) hchange

/-! ### CONFIGURE_CHANNEL (R73, R74, R96 to R100) -/

theorem applies_configure (h : s.AppliesNext f e) {parts : Nat} (ha : e.action = .configure parts)
    (hkeep : ∀ v, s.transfer = some v → v.chan = e.chan → endsTransfer s e = false) {u : State}
    (hchange : applyConfigure s e.chan parts = (u, code, result)) : step s = .next (s.appliedTo f e u code result) :=
  step_applies (change := fun s => applyConfigure s e.chan parts) h (by simp [Entry.immediate, ha]) hkeep hchange

theorem applyConfigure_off {c parts : Nat} (hoff : (s.chan c).state = .off) : applyConfigure s c parts = configureOff s c parts :=
  if_pos hoff

theorem applyConfigure_on {c parts : Nat} (hon : (s.chan c).state ≠ .off) : applyConfigure s c parts = configureOn s c parts :=
  if_neg hon

theorem configureOff_fits {c parts base : Nat} (hfit : firstFit s.alloc (parts * s.geo.refs) = some base) :
    configureOff s c parts = (((s.allocate c base (parts * s.geo.refs)).setChan c (Channel.configured parts)).toHead c, .ok,
      pairResult base (parts * s.geo.refs)) := by
  simp only [configureOff, hfit]

theorem configureOff_noRoom {c parts : Nat} (hfit : firstFit s.alloc (parts * s.geo.refs) = none)
    (hroom : freeTotal s.alloc < parts * s.geo.refs) :
    configureOff s c parts = (s, .noRoom, BitVec.ofNat 32 (freeTotal s.alloc)) := by
  simp only [configureOff, hfit, if_pos hroom]

theorem configureOff_fragmented {c parts : Nat} (hfit : firstFit s.alloc (parts * s.geo.refs) = none)
    (hroom : parts * s.geo.refs ≤ freeTotal s.alloc) :
    configureOff s c parts = (s, .fragmented, BitVec.ofNat 32 (largestGap s.alloc)) := by
  simp only [configureOff, hfit, if_neg (Nat.not_lt.mpr hroom)]

theorem configureOn_kept {c parts : Nat} (h : (s.chan c).parts ≤ parts ∨ (s.chan c).state = .restoring) :
    configureOn s c parts =
      (s, if parts = (s.chan c).parts then .ok else if (s.chan c).parts < parts then .growRefused else .badState,
        extentResult (s.extent c)) := by
  unfold configureOn
  dsimp only
  split_ifs with hsame hgrow hrest
  · rfl
  · rfl
  · rfl
  · rcases h with h | h
    · omega
    · exact absurd h hrest

theorem configureOn_shrinks {c parts : Nat} (hless : parts < (s.chan c).parts) (hst : (s.chan c).state ≠ .restoring) :
    configureOn s c parts =
      ((s.shrinkExtent c (parts * s.geo.refs)).modChan c (fun ctx => ctx.shrunk parts), .ok,
        extentResult (((s.shrinkExtent c (parts * s.geo.refs)).modChan c (fun ctx => ctx.shrunk parts)).extent c)) := by
  simp only [configureOn, if_neg (Nat.ne_of_lt hless), if_neg (Nat.not_lt.mpr hless.le), if_neg hst]

/-- A shrink shortens the channel's own extent in place and leaves the others (R100). -/
theorem extent_shrinkExtent (s : State) (c d n : Nat) (hmem : s.extent c ∈ s.alloc) :
    (s.shrinkExtent c n).extent d = if d = c then { s.extent c with size := n } else s.extent d := by
  have hfind : ∀ d, (s.alloc.map (fun x => if x.chan = c then { x with size := n } else x)).find? (fun x => decide (x.chan = d)) =
      (s.alloc.find? (fun x => decide (x.chan = d))).map (fun x => if x.chan = c then { x with size := n } else x) := by
    intro d
    rw [List.find?_map]
    congr 2
    funext x
    simp only [Function.comp]
    split_ifs <;> rfl
  simp only [State.extent, State.shrinkExtent_alloc, hfind]
  cases hd : s.alloc.find? (fun x => decide (x.chan = d)) with
  | none =>
    rw [Option.map_none]
    split_ifs with hdc
    · subst hdc
      exact absurd hd (by
        rw [List.find?_eq_none]
        exact fun hall => hall _ hmem (by simpa using extent_chan s d))
    · rfl
  | some x =>
    have hx : x.chan = d := by simpa using List.find?_some hd
    simp only [Option.map_some, Option.getD_some]
    split_ifs with hc hdc hdc
    · subst hdc
      simp [hd]
    · exact absurd (hx.symm.trans hc) hdc
    · exact absurd (hx.trans hdc) hc
    · rfl

/-! ### RELEASE_CHANNEL and RESET_CHANNEL (R75, R76) -/

theorem applies_release (h : s.AppliesNext f e) (ha : e.action = .release)
    (hkeep : ∀ v, s.transfer = some v → v.chan = e.chan → endsTransfer s e = false) {u : State}
    (hchange : applyRelease s e.chan = (u, code, result)) : step s = .next (s.appliedTo f e u code result) :=
  step_applies (change := fun s => applyRelease s e.chan) h (by simp [Entry.immediate, ha]) hkeep hchange

theorem applies_reset (h : s.AppliesNext f e) (ha : e.action = .reset)
    (hkeep : ∀ v, s.transfer = some v → v.chan = e.chan → endsTransfer s e = false) {u : State}
    (hchange : applyReset s e.chan = (u, code, result)) : step s = .next (s.appliedTo f e u code result) :=
  step_applies (change := fun s => applyReset s e.chan) h (by simp [Entry.immediate, ha]) hkeep hchange

theorem applyRelease_on {c : Nat} (hon : (s.chan c).state ≠ .off) :
    applyRelease s c = (((s.releaseExtent c).dequeue c).setChan c .off, .ok, extentResult (s.extent c)) :=
  if_neg hon

theorem applyReset_on {c : Nat} (hon : (s.chan c).state ≠ .off) :
    applyReset s c = (s.resetChannel c, .ok, BitVec.ofNat 32 (s.extent c).size) :=
  if_neg hon

theorem State.NoTransferOn.keeps (h : s.NoTransferOn e.chan) : ∀ v, s.transfer = some v → v.chan = e.chan → endsTransfer s e = false :=
  fun v hv hc => absurd hc (h v hv)

/-- A reset zeroes the slots of the extent and no other (R102). -/
theorem slot_resetChannel (s : State) (c i : Nat) :
    (s.resetChannel c).slot i = if (s.extent c).base ≤ i ∧ i < (s.extent c).base + (s.extent c).size then Slot.zero else s.slot i :=
  (slot_congr rfl i).trans (slot_zeroSlots s _ _ i)

theorem resetChannel_eq (s : State) (c : Nat) :
    s.resetChannel c =
      { s with
        channels := (s.setChan c (s.chan c).resetValues).channels
        pool := (s.zeroExtent c).pool
        queue := c :: s.queue.filter (fun d => decide (d ≠ c)) } := rfl

/-! ### SET_WINDOW and SET_TUNING (R46, R47, R79) -/

/-- Tuning field `i` of R67's table. -/
def Tuning.field (t : Tuning) (i : Nat) : Int :=
  match i with
  | 0 => t.muAcq
  | 1 => t.muTrk
  | 2 => t.tConv
  | 3 => t.dConv
  | 4 => t.dRecheck
  | 5 => t.mDt
  | 6 => t.hang
  | 7 => t.floor
  | 8 => t.attack
  | _ => t.release

theorem setField_field (t : Tuning) (i : Nat) : t.setField i (t.field i) = t := by
  unfold Tuning.setField
  split <;> rfl

theorem setField_if (t : Tuning) (i : Nat) (b : Bool) (v : Int) :
    (if b then t.setField i v else t) = t.setField i (if b then v else t.field i) := by
  cases b
  · exact (setField_field t i).symm
  · rfl

/-- The merge field by field (R79). -/
theorem merge_eq (t : Tuning) (mask : BitVec 16) (values : List Int) :
    let field := fun (i : Nat) (old : Int) => if mask.getLsbD i then values.getD i 0 else old
    t.merge mask values =
      { muAcq := field 0 t.muAcq, muTrk := field 1 t.muTrk, tConv := field 2 t.tConv, dConv := field 3 t.dConv,
        dRecheck := field 4 t.dRecheck, mDt := field 5 t.mDt, hang := field 6 t.hang, floor := field 7 t.floor,
        attack := field 8 t.attack, release := field 9 t.release } := by
  have hrange : List.range 10 = [0, 1, 2, 3, 4, 5, 6, 7, 8, 9] := rfl
  simp only [Tuning.merge, setField_if, hrange, List.foldl_cons, List.foldl_nil]
  simp only [Tuning.setField, Tuning.field]

theorem filter_lt_length (n P : Nat) : ((List.range P).filter (fun p => decide (p < n))).length = min n P := by
  induction P with
  | zero => simp
  | succ P ih =>
    rw [List.range_succ, List.filter_append, List.length_append, ih]
    by_cases h : P < n
    · simp [h]
      omega
    · simp [h]
      omega

theorem filter_length_add (q : Nat → Bool) (P : Nat) :
    ((List.range P).filter q).length + ((List.range P).filter (fun p => !q p)).length = P := by
  simpa using (List.length_eq_length_filter_add (l := List.range P) q).symm

/-- The adapting count of a window whose n is at most P (R46). -/
theorem adaptingCount_eq (ctx : Channel) (hn : ctx.window.n ≤ ctx.parts) :
    ctx.adaptingCount = match ctx.window.mode with
      | .all => if ctx.window.complement then 0 else ctx.parts
      | .head => if ctx.window.complement then ctx.parts - ctx.window.n else ctx.window.n
      | .tail => if ctx.window.complement then ctx.parts - ctx.window.n else ctx.window.n := by
  unfold Channel.adaptingCount Channel.adaptingSet AdaptWindow.selects
  have hhead : ((List.range ctx.parts).filter (fun p => decide (p < ctx.window.n))).length = ctx.window.n := by
    rw [filter_lt_length, Nat.min_eq_left hn]
  have hrest := filter_length_add (fun p => decide (p < ctx.window.n)) ctx.parts
  have hfront : ((List.range ctx.parts).filter (fun p => decide (p < ctx.parts - ctx.window.n))).length = ctx.parts - ctx.window.n := by
    rw [filter_lt_length, Nat.min_eq_left (Nat.sub_le _ _)]
  have htail := filter_length_add (fun p => decide (p < ctx.parts - ctx.window.n)) ctx.parts
  have hge : ∀ p, decide (ctx.parts - ctx.window.n ≤ p) = !decide (p < ctx.parts - ctx.window.n) := fun p => by
    simp only [← decide_not, Nat.not_lt]
  cases ctx.window.mode with
  | all => cases ctx.window.complement <;> simp
  | head =>
    cases ctx.window.complement
    · simpa only [Bool.xor_false, Bool.false_eq_true, if_false] using hhead
    · simp only [Bool.xor_true, if_true]
      omega
  | tail =>
    cases ctx.window.complement
    · simp only [Bool.xor_false, hge, Bool.false_eq_true, if_false]
      omega
    · simpa only [Bool.xor_true, hge, Bool.not_not, if_true] using hfront
theorem mem_adaptingSet (ctx : Channel) (p : Nat) :
    p ∈ ctx.adaptingSet ↔ p < ctx.parts ∧
      (match ctx.window.mode with
        | .all => ctx.window.complement = false
        | .head => p < ctx.window.n ↔ ctx.window.complement = false
        | .tail => ctx.parts - ctx.window.n ≤ p ↔ ctx.window.complement = false) := by
  simp only [Channel.adaptingSet, List.mem_filter, List.mem_range, AdaptWindow.selects]
  refine and_congr_right fun _ => ?_
  cases ctx.window.mode with
  | all => cases ctx.window.complement <;> simp
  | head => cases ctx.window.complement <;> simp
  | tail => cases ctx.window.complement <;> simp

theorem applySetWindow_on {c : Nat} (w : AdaptWindow) (hc : c < 16) (hon : (s.chan c).state ≠ .off) :
    applySetWindow s c w = (s.modChan c (fun ctx => { ctx with window := { w with n := min w.n ctx.parts } }), .ok,
      pairResult (min w.n (s.chan c).parts)
        (Channel.adaptingCount { s.chan c with window := { w with n := min w.n (s.chan c).parts } })) := by
  simp only [applySetWindow, if_neg hon, State.modChan_eq, chan_setChan_same _ _ hc]

theorem applySetTuning_on {c : Nat} (mask : BitVec 16) (values : List Int) (hon : (s.chan c).state ≠ .off) :
    applySetTuning s c mask values =
      if ((s.chan c).tuning.merge mask values).muAcq < ((s.chan c).tuning.merge mask values).muTrk then (s, .range, 4)
      else (s.modChan c (fun ctx => ctx.retuned ((s.chan c).tuning.merge mask values)), .ok, 0) :=
  if_neg hon

/-! ### The entry taken up, and the end of stage 1 (R32, R36, R108, R144) -/

theorem dueEntry_some_iff (s : State) (n : Word) (e : Entry) :
    s.dueEntry n = some e ↔ 0 ≤ (n - e.due).toInt ∧
      ∃ front back, s.table = front ++ e :: back ∧ ∀ x ∈ front, (n - x.due).toInt < 0 := by
  simp [State.dueEntry, List.find?_eq_some_iff_append, atOrBefore, signedDiff]

theorem dueEntry_none_iff (s : State) (n : Word) : s.dueEntry n = none ↔ ∀ x ∈ s.table, (n - x.due).toInt < 0 := by
  simp [State.dueEntry, List.find?_eq_none, atOrBefore, signedDiff]

theorem channels_toList (s : State) : s.channels.toList = (List.range 16).map s.chan := by
  refine List.ext_getElem (by simp) fun i h1 h2 => ?_
  have hi : i < 16 := by simpa using h1
  simp [State.chan, hi]

theorem filterCost_eq (s : State) : filterCost s.geo.refs s.channels.toList =
    ((List.range 16).map (fun c =>
      if (s.chan c).state = .acquire ∨ (s.chan c).state = .track ∨ (s.chan c).state = .held
        then (s.chan c).parts * s.geo.refs else 0)).sum := by
  unfold filterCost
  rw [channels_toList, List.map_map]
  congr 2
  funext c
  simp only [Function.comp, filterCostOf]
  cases (s.chan c).state <;> simp [ChanState.filters]

/-- An entry whose channel is M or above completes BAD_CHANNEL and changes nothing (R144). -/
theorem step_badChannel (h : s.ReachesEntry f e) (hm : s.geo.mics ≤ e.chan) :
    step s = .next (s.appliedTo f e s .badChannel (BitVec.ofNat 32 e.chan)) ∧ s.zeroes e = false := by
  have hbus : s.bus = [] := h.1.2.2.2.2.2
  have happly : applyEntry f.count e s = .ok () ((s.removeEntry e).completing e.addr (lateCode e.late .badChannel) f.count
      (BitVec.ofNat 32 e.chan) e.notify) := by
    have hbus' : (s.removeEntry e).bus = [] := hbus
    have hm' : (s.removeEntry e).geo.mics ≤ e.chan := hm
    simp [applyEntry, Nat.not_lt.mpr hm, applyAction_refused hm', complete_eq _ _ _ _ _ hbus']
  exact ⟨step_reachesEntry h happly, by simp [State.zeroes, Nat.not_lt.mpr hm]⟩

/-- With no due entry left stage 1 ends. -/
theorem step_entered (h : s.AtPhase f .apply) (hdue : s.dueEntry f.count = none) :
    step s = .next (s.setFlight (some (f.entered s))) := by
  rw [step_atPhase h]
  obtain ⟨-, -, -, -, hphase, -⟩ := h
  simp [frameUnit, hphase, applyUnit, hdue, settle, setFlight]

/-- The kinds that a channel in OFF refuses with BAD_STATE and 0 (R75 to R79). -/
theorem refused_off (hoff : (s.chan e.chan).state = .off)
    (ha : e.action = .release ∨ e.action = .reset ∨ e.action = .freeze ∨ e.action = .thaw ∨ (∃ w, e.action = .setWindow w) ∨
      ∃ mask values, e.action = .setTuning mask values) :
    ∃ change, e.immediate = some change ∧ change s = (s, .badState, 0) ∧ endsTransfer s e = false ∧ s.zeroes e = false := by
  rcases ha with ha | ha | ha | ha | ⟨w, ha⟩ | ⟨mask, values, ha⟩
  · exact ⟨fun s => applyRelease s e.chan, by simp [Entry.immediate, ha], if_pos hoff, by simp [endsTransfer, ha, hoff],
      by simp [State.zeroes, ha]⟩
  · exact ⟨fun s => applyReset s e.chan, by simp [Entry.immediate, ha], if_pos hoff, by simp [endsTransfer, ha, hoff],
      by simp [State.zeroes, ha, hoff]⟩
  · exact ⟨fun s => applyFreeze s e.chan, by simp [Entry.immediate, ha], by simp [applyFreeze, hoff, withState, ChanState.value],
      by simp [endsTransfer, ha], by simp [State.zeroes, ha]⟩
  · exact ⟨fun s => applyThaw s e.chan, by simp [Entry.immediate, ha], by simp [applyThaw, hoff, withState, ChanState.value],
      by simp [endsTransfer, ha], by simp [State.zeroes, ha]⟩
  · exact ⟨fun s => applySetWindow s e.chan w, by simp [Entry.immediate, ha], if_pos hoff, by simp [endsTransfer, ha],
      by simp [State.zeroes, ha]⟩
  · exact ⟨fun s => applySetTuning s e.chan mask values, by simp [Entry.immediate, ha], if_pos hoff, by simp [endsTransfer, ha],
      by simp [State.zeroes, ha]⟩

end

end Sys2Proof.Machine

namespace Sys2Proof

open Sys2Proof.Machine

/-- Settles O24, by the equation of each kind in each state. -/
theorem freezeAndThawApplied : Obligations.FreezeAndThawApplied := by
  intro s f e h
  have hc := h.chan_lt
  refine ⟨fun p ha hst => ?_, fun p ha hst hp => ?_, fun hcase => ?_, fun ha hst => ?_⟩
  · obtain ⟨hstep, hz⟩ := applies_freeze h ha (applyFreeze_adapting hc hst)
    refine ⟨_, hstep, ?_, ?_, fun c hne => ?_, appliedAs_appliedTo _ _ _ _ _ _⟩
    · simp [State.appliedTo, hz, applied_false, State.modChan_eq]
    · exact (chan_congr rfl _).trans (chan_setChan_same _ _ hc)
    · exact (chan_congr rfl _).trans (chan_setChan_other _ _ hne)
  · have hchange := applyThaw_held hst
    rw [enqueueThawed_eq hc hp] at hchange
    obtain ⟨hstep, hz⟩ := applies_thaw h ha hchange
    have hstate : (((s.modChan e.chan Channel.thawed).setQueue (if p = .track then s.queue.filter (fun d => decide (d ≠ e.chan)) ++ [e.chan]
        else e.chan :: s.queue.filter (fun d => decide (d ≠ e.chan)))).chan e.chan).state =
        if p = .track then ChanState.track else ChanState.acquire := by
      rw [chan_setQueue, State.modChan_eq, chan_setChan_same _ _ hc, thawed_state hp]
    rw [hstate, stateWord] at hstep
    refine ⟨_, hstep, ?_, ?_, fun c hne => ?_, appliedAs_appliedTo _ _ _ _ _ _⟩
    · simp [State.appliedTo, hz, applied_false, State.modChan_eq]
    · refine ((chan_congr rfl _).trans (chan_setChan_same _ _ hc)).trans ?_
      cases p <;> simp [Channel.thawed, priorOf, hp]
    · exact (chan_congr rfl _).trans (chan_setChan_other _ _ hne)
  · refine freeze_thaw_unchanged h (hcase.imp (fun hh => ⟨hh.1, ?_⟩) fun hh => ⟨hh.1, ?_⟩)
    · simp only [applyFreeze, hh.2, withState, stateWord]
    · rcases hh.2 with hst | hst <;> simp only [applyThaw, hst, withState, stateWord]
  · refine freeze_thaw_unchanged h (ha.imp (fun hh => ⟨hh, ?_⟩) fun hh => ⟨hh, ?_⟩)
    · rcases hst with hst | hst <;> simp only [applyFreeze, hst, withState, stateWord]
    · rcases hst with hst | hst <;> simp only [applyThaw, hst, withState, stateWord]

/-- Settles O25, by the three outcomes of a first-fit allocation. -/
theorem configureFromOff : Obligations.ConfigureFromOff := by
  intro s f e parts h ha hoff
  have hc := h.chan_lt
  have hm : e.chan < s.geo.mics := h.2.2
  have hkeep : ∀ v, s.transfer = some v → v.chan = e.chan → endsTransfer s e = false := fun _ _ _ => by simp [endsTransfer, ha, hoff]
  refine ⟨fun base hfit => ?_, fun hfit => ?_⟩
  · have hz : s.zeroes e = true := by simp [State.zeroes, ha, hm, hoff, hfit]
    have hstep := applies_configure h ha hkeep ((applyConfigure_off hoff).trans (configureOff_fits hfit))
    refine ⟨_, hstep, ?_, ?_, fun c hne => ?_, fun i => ?_, appliedAs_appliedTo _ _ _ _ _ _⟩
    · simp [State.appliedTo, hz, Flight.applied, State.allocate, State.zeroSlots_eq]
    · exact (chan_congr rfl _).trans (chan_setChan_same _ _ hc)
    · exact (chan_congr rfl _).trans (chan_setChan_other _ _ hne)
    · exact (slot_congr rfl _).trans (slot_zeroSlots s _ _ i)
  · have hz : s.zeroes e = false := by simp [State.zeroes, ha, hfit]
    by_cases hroom : freeTotal s.alloc < parts * s.geo.refs
    · obtain ⟨t, hstep, ht, happlied⟩ := applies_unchanged (change := fun s => applyConfigure s e.chan parts) h
        (by simp [Entry.immediate, ha]) hkeep hz ((applyConfigure_off hoff).trans (configureOff_noRoom hfit hroom))
      exact ⟨t, hstep, ht, fun _ => happlied, fun hle => absurd hroom (Nat.not_lt.mpr hle)⟩
    · obtain ⟨t, hstep, ht, happlied⟩ := applies_unchanged (change := fun s => applyConfigure s e.chan parts) h
        (by simp [Entry.immediate, ha]) hkeep hz ((applyConfigure_off hoff).trans (configureOff_fragmented hfit (Nat.not_lt.mp hroom)))
      exact ⟨t, hstep, ht, fun hlt => absurd hlt hroom, fun _ => happlied⟩

/-- Settles O26: no change, or a shrink in place. -/
theorem configureOfAConfiguredChannel : Obligations.ConfigureOfAConfiguredChannel := by
  intro s f e parts h ha hon
  have hc := h.chan_lt
  have hz : s.zeroes e = false := by simp [State.zeroes, ha, hon]
  refine ⟨fun hkept => ?_, fun hless hst hfree hmem => ?_⟩
  · have hends : endsTransfer s e = false := by
      rcases hkept with hle | hst
      · simp [endsTransfer, ha, hle]
      · simp [endsTransfer, ha, hst]
    exact applies_unchanged (change := fun s => applyConfigure s e.chan parts) h (by simp [Entry.immediate, ha])
      (fun _ _ _ => hends) hz ((applyConfigure_on hon).trans (configureOn_kept hkept))
  · have hchange := (applyConfigure_on (parts := parts) hon).trans (configureOn_shrinks hless hst)
    have hextent : ((s.shrinkExtent e.chan (parts * s.geo.refs)).modChan e.chan (fun ctx => ctx.shrunk parts)).extent e.chan =
        { s.extent e.chan with size := parts * s.geo.refs } :=
      (extent_congr rfl _).trans ((extent_shrinkExtent s _ _ _ hmem).trans (if_pos rfl))
    rw [hextent] at hchange
    refine ⟨_, applies_configure h ha hfree.keeps hchange, ?_, ?_, fun c hne => ?_, ?_, fun c hne => ?_, appliedAs_appliedTo _ _ _ _ _ _⟩
    · simp [State.appliedTo, hz, applied_false, State.modChan_eq]
    · exact (chan_congr rfl _).trans (chan_setChan_same _ _ hc)
    · exact (chan_congr rfl _).trans (chan_setChan_other _ _ hne)
    · exact (extent_congr rfl _).trans hextent
    · exact (extent_congr rfl _).trans ((extent_shrinkExtent s _ _ _ hmem).trans (if_neg hne))

/-- Settles O27. -/
theorem releaseAndResetApplied : Obligations.ReleaseAndResetApplied := by
  intro s f e h hon hfree
  have hc := h.chan_lt
  have hm : e.chan < s.geo.mics := h.2.2
  refine ⟨fun ha => ?_, fun ha => ?_⟩
  · have hz : s.zeroes e = false := by simp [State.zeroes, ha]
    refine ⟨_, applies_release h ha hfree.keeps (applyRelease_on hon), ?_, ?_, fun c hne => ?_, appliedAs_appliedTo _ _ _ _ _ _⟩
    · simp [State.appliedTo, hz, applied_false]
    · exact congrArg Channel.state ((chan_congr rfl _).trans (chan_setChan_same _ _ hc))
    · exact (chan_congr rfl _).trans (chan_setChan_other _ _ hne)
  · have hz : s.zeroes e = true := by simp [State.zeroes, ha, hm, hon]
    refine ⟨_, applies_reset h ha hfree.keeps (applyReset_on hon), ?_, ?_, fun c hne => ?_, fun i => ?_, appliedAs_appliedTo _ _ _ _ _ _⟩
    · simp [State.appliedTo, hz, Flight.applied, resetChannel_eq]
    · exact (chan_congr rfl _).trans (chan_setChan_same _ _ hc)
    · exact (chan_congr rfl _).trans (chan_setChan_other _ _ hne)
    · exact (slot_congr rfl _).trans (slot_resetChannel s _ i)

/-- Settles O29. -/
theorem windowAndTuningApplied : Obligations.WindowAndTuningApplied := by
  refine ⟨mem_adaptingSet, fun s f e h hon => ?_⟩
  have hc := h.chan_lt
  refine ⟨fun w ha => ?_, fun mask values ha => ?_⟩
  · have hz : s.zeroes e = false := by simp [State.zeroes, ha]
    have hcount := adaptingCount_eq { s.chan e.chan with window := { w with n := min w.n (s.chan e.chan).parts } } (Nat.min_le_right _ _)
    have hchange := applySetWindow_on w hc hon
    rw [hcount] at hchange
    refine ⟨_, step_applies (change := fun s => applySetWindow s e.chan w) h (by simp [Entry.immediate, ha])
      (fun _ _ _ => by simp [endsTransfer, ha]) hchange, ?_, ?_, fun c hne => ?_, ?_⟩
    · simp [State.appliedTo, hz, applied_false, State.modChan_eq]
    · exact (chan_congr rfl _).trans (chan_setChan_same _ _ hc)
    · exact (chan_congr rfl _).trans (chan_setChan_other _ _ hne)
    · cases hmode : w.mode <;> exact appliedAs_appliedTo _ _ _ _ _ _
  · have hz : s.zeroes e = false := by simp [State.zeroes, ha]
    have hends : endsTransfer s e = false := by simp [endsTransfer, ha]
    have hchange := applySetTuning_on mask values hon
    rw [merge_eq] at hchange
    refine ⟨fun hle => ?_, fun hlt => ?_⟩
    · rw [if_neg (not_lt.mpr hle)] at hchange
      refine ⟨_, step_applies (change := fun s => applySetTuning s e.chan mask values) h (by simp [Entry.immediate, ha])
        (fun _ _ _ => hends) hchange, ?_, ?_, fun c hne => ?_, appliedAs_appliedTo _ _ _ _ _ _⟩
      · simp [State.appliedTo, hz, applied_false, State.modChan_eq]
      · exact (chan_congr rfl _).trans (chan_setChan_same _ _ hc)
      · exact (chan_congr rfl _).trans (chan_setChan_other _ _ hne)
    · rw [if_pos hlt] at hchange
      exact applies_unchanged (change := fun s => applySetTuning s e.chan mask values) h (by simp [Entry.immediate, ha])
        (fun _ _ _ => hends) hz hchange

/-- Settles O30. -/
theorem stageOneRefusesAndEnds : Obligations.StageOneRefusesAndEnds := by
  refine ⟨fun s n => ⟨dueEntry_some_iff s n, dueEntry_none_iff s n⟩, fun s f e h => ⟨fun hm hmics hoff ha => ?_, fun hm => ?_⟩,
    fun s f h hdue => ?_⟩
  · obtain ⟨change, hi, hchange, hends, hz⟩ := refused_off hoff ha
    exact applies_unchanged ⟨h, hmics, hm⟩ hi (fun _ _ _ => hends) hz hchange
  · obtain ⟨hstep, hz⟩ := step_badChannel h hm
    refine ⟨_, hstep, ?_, appliedAs_appliedTo _ _ _ _ _ _⟩
    simp only [State.appliedTo, hz, applied_false]
  · rw [step_entered h hdue, Flight.entered, filterCost_eq]
    rfl

end Sys2Proof
end

section
/-! An application that ends a transfer of its channel first (R103, R162): the transfer completes ABORTED, and the application acts as
without one. -/

namespace Sys2Proof.Machine

section
variable {s : State} {f : Flight} {e : Entry} {u : Transfer}

/-- Shared memory after transfer `u` is ended ABORTED: a capture's header INVALID, and the completion. -/
def abortedMem (m : List Host.Cell) (u : Transfer) (sequence : Word) : List Host.Cell :=
  memWithCompletion (if u.direction = .capture then writeBytes m u.slotAddr.toNat (wordBytes 3) else m) u.cmd .aborted sequence
    (BitVec.ofNat 32 u.progress)

/-- The state after transfer `u` is ended ABORTED within an application (R162, R163). -/
def State.aborted (s : State) (u : Transfer) : State :=
  { s with
    transfer := none
    channels := if u.direction = .capture then (s.setChan u.chan { s.chan u.chan with capture := false }).channels else s.channels
    notice := s.notice || u.notify
    mem := abortedMem s.mem u s.done }

theorem endByApplication_eq (u : Transfer) (h : s.bus = []) : endByApplication u s = .ok () (s.aborted u) := by
  rw [endByApplication_quiet u h]
  cases hd : u.direction with
  | capture => simp [State.aborted, abortedMem, hd, State.endCapture, State.modChan_eq, State.completing, State.setNotice, State.setMem, State.setTransfer, State.setChan]
  | restore => simp [State.aborted, abortedMem, hd, State.completing, State.setNotice, State.setMem, State.setTransfer]

theorem endTransferFor_ends (h : s.bus = []) (hu : s.transfer = some u) (hc : u.chan = e.chan) (he : endsTransfer s e = true) :
    endTransferFor e s = .ok () (s.aborted u) := by
  simp [endTransferFor, hu, hc, he, endByApplication_eq u h]

theorem aborted_chan (s : State) (u : Transfer) (hc : u.chan < 16) (c : Nat) :
    (s.aborted u).chan c =
      if c = u.chan ∧ u.direction = .capture then { s.chan c with capture := false } else s.chan c := by
  by_cases hd : u.direction = .capture
  · have hchannels : (s.aborted u).channels = (s.setChan u.chan { s.chan u.chan with capture := false }).channels := if_pos hd
    rw [chan_congr hchannels, chan_setChan]
    by_cases h : c = u.chan
    · subst h
      simp [hc, hd]
    · simp [h]
  · have hchannels : (s.aborted u).channels = s.channels := if_neg hd
    simp [chan_congr hchannels, hd]

/-- The state after transfer `u` is ended and an entry applied whose effect on channels, pool and queue is that of `w`. -/
def State.appliedEnding (s : State) (f : Flight) (e : Entry) (u : Transfer) (w : State) (code : Code) (result : Word) : State :=
  { s with
    transfer := none
    channels := w.channels
    alloc := w.alloc
    pool := w.pool
    queue := w.queue
    table := s.table.erase e
    mem := memWithCompletion (abortedMem s.mem u s.done) e.addr (lateCode e.late code) f.count result
    notice := s.notice || u.notify || e.notify
    flight := some (f.applied e.chan (s.zeroes e)) }

/-- The next unit ends transfer `u` and then applies an entry that completes at once, as it would with no transfer. -/
theorem step_applies_ending {change : State → State × Code × Word} {w : State} {code : Code} {result : Word} (h : s.AppliesNext f e)
    (hi : e.immediate = some change) (hu : s.transfer = some u) (hc : u.chan = e.chan) (he : endsTransfer s e = true)
    (hchange : change (s.aborted u) = (w, code, result)) : step s = .next (s.appliedEnding f e u w code result) := by
  obtain ⟨hreach, -, hm⟩ := h
  have hbus : s.bus = [] := hreach.1.2.2.2.2.2
  rw [step_reachesEntry hreach (applyEntry_immediate hm hi (endTransferFor_ends hbus hu hc he) hbus rfl)]
  obtain ⟨channels, alloc, pool, queue, hfields⟩ := immediate_eq hi (s.aborted u)
  simp only [hchange] at hfields ⊢
  subst hfields
  simp only [State.appliedEnding, State.completing, State.aborted, State.removeEntry_eq, State.setFlight, State.setNotice,
    State.setMem, State.setTable]

/-- The memory the two completions leave. -/
theorem aborted_completed (m : List Host.Cell) {a : Word} {code : Code} {first second result : Word} (ha : a.toNat % 64 = 0)
    (hcmd : u.cmd.toNat % 64 = 0) (hne : u.cmd ≠ a)
    (hslot : u.direction = .capture → Apart u.slotAddr.toNat 4 u.cmd.toNat 64 ∧ Apart u.slotAddr.toNat 4 a.toNat 64) :
    let m' := memWithCompletion (abortedMem m u first) a code second result
    (u.direction = .capture → memWord m' u.slotAddr.toNat = 3) ∧
      MemCompleted m' u.cmd .aborted first (BitVec.ofNat 32 u.progress) ∧ MemCompleted m' a code second result ∧
      MemKeeps m m' ((if u.direction = .capture then [(u.slotAddr.toNat, 4)] else []) ++ completionBytes u.cmd ++ completionBytes a) := by
  have hkeeps := memKeeps_memWithCompletion (abortedMem m u first) a code second result
  refine ⟨fun hd => ?_, ?_, memCompleted_memWithCompletion _ _ _ _ _, ?_⟩
  · obtain ⟨hone, htwo⟩ := hslot hd
    rw [hkeeps.word (apart_completionBytes htwo), abortedMem, if_pos hd,
      (memKeeps_memWithCompletion _ u.cmd _ _ _).word (apart_completionBytes hone), memWord_writeBytes_wordBytes]
  · exact (memCompleted_memWithCompletion _ u.cmd _ _ _).kept hkeeps (apart_completionBytes (apart_of_aligned hcmd ha hne))
  · refine MemKeeps.trans (MemKeeps.trans ?_ (memKeeps_memWithCompletion _ u.cmd _ _ _)) hkeeps
    split_ifs
    · exact memKeeps_writeWord m _ 3
    · exact MemKeeps.refl m _

/-- What the two completions and the application leave of shared memory, the table, the notice and the other channels. -/
theorem appliedEnding_ended {w : State} {result : Word} (ha : e.addr.toNat % 64 = 0) (hcmd : u.cmd.toNat % 64 = 0) (hne : u.cmd ≠ e.addr)
    (hslot : u.direction = .capture → Apart u.slotAddr.toNat 4 u.cmd.toNat 64 ∧ Apart u.slotAddr.toNat 4 e.addr.toNat 64)
    (hw : ∀ c, c ≠ e.chan → w.chan c = s.chan c) {t : State} (ht : t = s.appliedEnding f e u w .ok result) :
    (u.direction = .capture → memWord t.mem u.slotAddr.toNat = 3) ∧
      CompletedIn t u.cmd .aborted s.done (BitVec.ofNat 32 u.progress) ∧ CompletedIn t e.addr (if e.late then .late else .ok) f.count result ∧
      t.table = s.table.erase e ∧ t.notice = (s.notice || u.notify || e.notify) ∧ (∀ c, c ≠ e.chan → t.chan c = s.chan c) ∧
      KeepsBytesBut s t ((if u.direction = .capture then [(u.slotAddr.toNat, 4)] else []) ++ completionBytes u.cmd ++
        completionBytes e.addr) := by
  subst ht
  obtain ⟨hinvalid, hended, hcompleted, hkeeps⟩ := aborted_completed (u := u) s.mem (a := e.addr) (code := lateCode e.late .ok)
    (first := s.done) (second := f.count) (result := result) ha hcmd hne hslot
  refine ⟨hinvalid, hended, ?_, rfl, rfl, fun c hc => (chan_congr rfl c).trans (hw c hc), hkeeps⟩
  rw [← lateCode_ok]
  exact hcompleted

end

end Sys2Proof.Machine

namespace Sys2Proof

open Sys2Proof.Machine

/-- Settles O28: the transfer's end, then the application's equation in the state it leaves. -/
theorem transferEndedByApplication : Obligations.TransferEndedByApplication := by
  intro s f e u h hu huc hon hcmd hne hslot
  have hc := h.chan_lt
  have hm : e.chan < s.geo.mics := h.2.2
  have haddr : e.addr.toNat % 64 = 0 := h.1.2.2
  have hchan : ∀ c, (s.aborted u).chan c = if c = e.chan ∧ u.direction = .capture then { s.chan c with capture := false } else s.chan c :=
    huc ▸ aborted_chan s u (huc ▸ hc)
  have hother : ∀ c, c ≠ e.chan → (s.aborted u).chan c = s.chan c := fun c hcne => by rw [hchan, if_neg fun hh => hcne hh.1]
  have hstate : ((s.aborted u).chan e.chan).state = (s.chan e.chan).state := by
    rw [hchan]
    split_ifs <;> rfl
  have hon' : ((s.aborted u).chan e.chan).state ≠ .off := by rwa [hstate]
  have hended := fun (w : State) (hw : ∀ c, c ≠ e.chan → w.chan c = (s.aborted u).chan c) (result : Word) =>
    appliedEnding_ended (s := s) (f := f) (w := w) (result := result) haddr hcmd hne (fun hd => (hslot hd).2)
      (fun c hcne => (hw c hcne).trans (hother c hcne)) rfl
  refine ⟨fun ha => ?_, fun ha => ?_, fun parts ha hd hless hst hx => ?_⟩
  · have hends : endsTransfer s e = true := by simp [endsTransfer, ha, hon]
    have hz : s.zeroes e = false := by simp [State.zeroes, ha]
    have hstep := step_applies_ending (change := fun s => applyRelease s e.chan) h (by simp [Entry.immediate, ha]) hu huc hends
      (applyRelease_on hon')
    refine ⟨_, hstep, hended _ (fun c hcne => chan_setChan_other _ _ hcne) _, ?_, ?_⟩
    · exact congrArg Channel.state ((chan_congr rfl _).trans (chan_setChan_same _ _ hc))
    · simp [State.appliedEnding, State.aborted, hz, applied_false]
  · have hends : endsTransfer s e = true := by simp [endsTransfer, ha, hon]
    have hz : s.zeroes e = true := by simp [State.zeroes, ha, hm, hon]
    have hstep := step_applies_ending (change := fun s => applyReset s e.chan) h (by simp [Entry.immediate, ha]) hu huc hends
      (applyReset_on hon')
    refine ⟨_, hstep, hended _ (fun c hcne => (resetChannel_chan _ _ c).trans (if_neg fun hh => hcne hh.1)) _, ?_, fun i => ?_, ?_⟩
    · refine ((chan_congr rfl _).trans (chan_setChan_same _ _ hc)).trans ?_
      show ((s.aborted u).chan e.chan).resetValues = (s.chan e.chan).resetValues
      rw [hchan]
      split_ifs <;> rfl
    · exact (slot_congr rfl _).trans (slot_resetChannel (s.aborted u) _ i)
    · simp [State.appliedEnding, State.aborted, hz, Flight.applied, resetChannel_eq]
  · have hends : endsTransfer s e = true := by simp [endsTransfer, ha, hon, hst, hless]
    have hz : s.zeroes e = false := by simp [State.zeroes, ha, hon]
    have hctx : (s.aborted u).chan e.chan = { s.chan e.chan with capture := false } := by rw [hchan, if_pos ⟨rfl, hd⟩]
    have hst' : ((s.aborted u).chan e.chan).state ≠ .restoring := by rwa [hstate]
    have hless' : parts < ((s.aborted u).chan e.chan).parts := by rwa [hctx]
    have hchange := (applyConfigure_on (parts := parts) hon').trans (configureOn_shrinks hless' hst')
    have hextent := fun c => extent_shrinkExtent (s.aborted u) e.chan c (parts * s.geo.refs) hx
    have hown := (hextent e.chan).trans (if_pos rfl)
    rw [show ((((s.aborted u).shrinkExtent e.chan (parts * (s.aborted u).geo.refs)).modChan e.chan (fun ctx => ctx.shrunk parts)).extent
      e.chan) = { s.extent e.chan with size := parts * s.geo.refs } from (extent_congr rfl _).trans hown] at hchange
    have hstep := step_applies_ending (change := fun s => applyConfigure s e.chan parts) h (by simp [Entry.immediate, ha]) hu huc hends
      hchange
    refine ⟨_, hstep, hended _ (fun c hcne => chan_setChan_other _ _ hcne) _, ?_, (extent_congr rfl _).trans hown,
      fun c hcne => ((extent_congr rfl _).trans (hextent c)).trans (if_neg hcne), ?_⟩
    · refine ((chan_congr rfl _).trans (chan_setChan_same _ _ hc)).trans ?_
      show ((s.aborted u).chan e.chan).shrunk parts = _
      rw [hctx]
      rfl
    · simp [State.appliedEnding, State.aborted, hz, applied_false, State.modChan_eq]

end Sys2Proof
end

section
/-! CAPTURE_PROFILE and RESTORE_PROFILE at stage 1: the directory entry, the checks in their order, and the starts (R153, R157 to R160). -/

namespace Sys2Proof.Machine

section
variable {s : State} {f : Flight} {e : Entry} {index : Nat}

/-! ### The directory entry (R153) -/

/-- The profile slot that directory entry `index` names. -/
def State.dirSlot (s : State) (index : Nat) : Word :=
  memWord s.mem (s.geo.dirAddr.toNat + 16 * index)

/-- The capacity in directory entry `index`. -/
def State.dirCapacity (s : State) (index : Nat) : Nat :=
  (memWord s.mem (s.geo.dirAddr.toNat + 16 * index + 4)).toNat

/-- Directory entry `index` passes the checks of R153. -/
def State.DirValid (s : State) (index : Nat) : Prop :=
  index < s.geo.dirCount ∧ (s.dirSlot index).toNat % 64 = 0 ∧
    s.inside (s.dirSlot index).toNat (64 + s.dirCapacity index * 1032) = true

theorem readDirEntry_invalid {n : Nat} (hbus : s.bus = []) (hn : 2 ≤ n) (h : ¬ s.DirValid index) : readDirEntry index n s = .ok none s := by
  by_cases hi : index < s.geo.dirCount
  · have h0 := memWords_getD s.mem (s.geo.dirAddr.toNat + 16 * index) n 0 (by omega)
    have h1 := memWords_getD s.mem (s.geo.dirAddr.toNat + 16 * index) n 1 (by omega)
    have hnot : ¬ ((s.dirSlot index).toNat % 64 = 0 ∧ s.inside (s.dirSlot index).toNat (64 + s.dirCapacity index * 1032) = true) :=
      fun hh => h ⟨hi, hh⟩
    simp only [readDirEntry, work_bind, getState_apply, if_pos hi, readWords_quiet _ _ _ hbus, h0, h1, work_pure]
    exact congrArg (EStateM.Result.ok · s) (if_neg hnot)
  · simp [readDirEntry, hi]

theorem readDirEntry_valid {n : Nat} (hbus : s.bus = []) (hn : 2 ≤ n) (h : s.DirValid index) :
    readDirEntry index n s = .ok (some
      { slotAddr := s.dirSlot index, capacity := s.dirCapacity index,
        guard := (memWords s.mem (s.geo.dirAddr.toNat + 16 * index) n).getD 2 0 }) s := by
  obtain ⟨hi, hsound⟩ := h
  have h0 := memWords_getD s.mem (s.geo.dirAddr.toNat + 16 * index) n 0 (by omega)
  have h1 := memWords_getD s.mem (s.geo.dirAddr.toNat + 16 * index) n 1 (by omega)
  simp only [readDirEntry, work_bind, getState_apply, if_pos hi, readWords_quiet _ _ _ hbus, h0, h1, work_pure]
  exact congrArg (EStateM.Result.ok · s) (if_pos hsound)

/-! ### Refusals -/

theorem busyTransfer_none {c : Nat} (h : ∀ u, s.transfer = some u → u.direction = .restore ∧ u.chan = c) : s.busyTransfer c = none := by
  cases hu : s.transfer with
  | none => simp [State.busyTransfer, hu]
  | some u => simp [State.busyTransfer, hu, h u hu]

theorem busyTransfer_some {c : Nat} {u : Transfer} (hu : s.transfer = some u) (h : ¬ (u.direction = .restore ∧ u.chan = c)) :
    s.busyTransfer c = some u := by
  simp only [State.busyTransfer, hu, if_neg h]

theorem stateRefusal_of_not_filters {x : Channel} (h : x.state.filters = false) :
    stateRefusal x = some (.badState, stateNumber x.state) := by
  simp [stateRefusal, h, stateWord]

theorem stateRefusal_of_filters {x : Channel} (h : x.state.filters = true) : stateRefusal x = none := by
  simp [stateRefusal, h]

theorem captureRefusal_locked {c : Nat} {d : DirEntry} (hl : s.lock = true) : captureRefusal s c index d = some (.locked, 0) :=
  if_pos hl

theorem captureRefusal_protected {c : Nat} {d : DirEntry} (hl : s.lock = false) (hg : d.guard ≠ 0) :
    captureRefusal s c index d = some (.protected_, BitVec.ofNat 32 index) :=
  (if_neg (by simp [hl])).trans (if_pos hg)

theorem captureRefusal_tooSmall {c : Nat} {d : DirEntry} (hl : s.lock = false) (hg : d.guard = 0)
    (hf : ¬ ((s.chan c).state = .off ∨ (s.chan c).parts * s.geo.refs ≤ d.capacity)) :
    captureRefusal s c index d = some (.tooSmall, BitVec.ofNat 32 ((s.chan c).parts * s.geo.refs)) :=
  ((if_neg (by simp [hl])).trans (if_neg (not_not.mpr hg))).trans
    (if_pos ⟨fun hoff => hf (.inl hoff), not_le.mp fun hle => hf (.inr hle)⟩)

/-- With room enough and no protection, the transfer in flight and the channel's state decide (R157). -/
theorem captureRefusal_fits {c : Nat} {d : DirEntry} {r : Option (Code × Word)} (hl : s.lock = false) (hg : d.guard = 0)
    (hf : (s.chan c).state = .off ∨ (s.chan c).parts * s.geo.refs ≤ d.capacity)
    (hbusy : ∀ t, s.busyTransfer c = some t → r = some (.busy, BitVec.ofNat 32 t.chan))
    (hidle : s.busyTransfer c = none → r = stateRefusal (s.chan c)) : captureRefusal s c index d = r := by
  have hnot : ¬ ((s.chan c).state ≠ .off ∧ d.capacity < (s.chan c).parts * s.geo.refs) := by
    rintro ⟨hon, hlt⟩
    rcases hf with hoff | hle
    · exact hon hoff
    · omega
  refine ((if_neg (by simp [hl])).trans (if_neg (not_not.mpr hg))).trans ((if_neg hnot).trans ?_)
  cases hb : s.busyTransfer c with
  | none => exact (hidle hb).symm
  | some t => exact (hbusy t hb).symm

theorem restoreRefusal_busy {c : Nat} {t : Transfer} (hb : s.busyTransfer c = some t) :
    restoreRefusal s c = some (.busy, BitVec.ofNat 32 t.chan) := by
  simp [restoreRefusal, hb]

theorem restoreRefusal_idle {c : Nat} (hb : s.busyTransfer c = none) : restoreRefusal s c = stateRefusal (s.chan c) := by
  simp [restoreRefusal, hb]

theorem applyCapture_badSlot {seq : Word} (hbus : s.bus = []) (h : ¬ s.DirValid index) :
    applyCapture seq e index s = .ok (some (.badSlot, BitVec.ofNat 32 index)) s := by
  simp [applyCapture, readDirEntry_invalid hbus (n := 3) (by omega) h]

/-- The third word of a directory entry, the protect field. -/
def State.dirGuard (s : State) (index : Nat) : Word :=
  memWord s.mem (s.geo.dirAddr.toNat + 16 * index + 8)

/-- Directory entry `index` as a capture reads it. -/
def State.captureEntry (s : State) (index : Nat) : DirEntry :=
  { slotAddr := s.dirSlot index, capacity := s.dirCapacity index, guard := s.dirGuard index }

theorem readDirEntry_capture (hbus : s.bus = []) (h : s.DirValid index) :
    readDirEntry index 3 s = .ok (some (s.captureEntry index)) s := by
  rw [readDirEntry_valid hbus (by omega) h, memWords_getD _ _ 3 2 (by omega)]
  rfl

theorem applyCapture_refused {seq : Word} {r : Code × Word} (hbus : s.bus = []) (h : s.DirValid index)
    (hr : captureRefusal s e.chan index (s.captureEntry index) = some r) : applyCapture seq e index s = .ok (some r) s := by
  simp [applyCapture, readDirEntry_capture hbus h, hr]

theorem applyRestore_badSlot (hbus : s.bus = []) (h : ¬ s.DirValid index) :
    applyRestore e index s = .ok (some (.badSlot, BitVec.ofNat 32 index)) s := by
  simp [applyRestore, readDirEntry_invalid hbus (n := 2) (by omega) h]

theorem applyRestore_refused {r : Code × Word} (hbus : s.bus = []) (h : s.DirValid index) (hr : restoreRefusal s e.chan = some r) :
    applyRestore e index s = .ok (some r) s := by
  simp [applyRestore, readDirEntry_valid hbus (n := 2) (by omega) h, hr]

theorem applyRestore_headerRefused {r : Code × Word} (hbus : s.bus = []) (h : s.DirValid index) (hn : restoreRefusal s e.chan = none)
    (hr : headerRefusal s.geo.refs (s.dirCapacity index) (memWord s.mem (s.dirSlot index).toNat)
      (memWord s.mem ((s.dirSlot index).toNat + 4)) = some r) : applyRestore e index s = .ok (some r) s := by
  have h0 := memWords_getD s.mem (s.dirSlot index).toNat 3 0 (by omega)
  have h1 := memWords_getD s.mem (s.dirSlot index).toNat 3 1 (by omega)
  simp only [Nat.mul_zero, Nat.add_zero, Nat.mul_one] at h0 h1
  simp only [applyRestore, work_bind, readDirEntry_valid hbus (n := 2) (by omega) h, getState_apply, hn, readWords_quiet _ _ _ hbus,
    h0, h1, hr, work_pure]

/-- The next unit refuses an entry that starts a transfer. -/
theorem step_refuses {code : Code} {result : Word} (h : s.AppliesNext f e)
    (hends : endsTransfer s e = false) (hz : s.zeroes e = false)
    (hr : applyAction f.count e (s.removeEntry e) = .ok (some (code, result)) (s.removeEntry e)) :
    ∃ t, step s = .next t ∧
      t = { s with table := t.table, mem := t.mem, notice := t.notice, flight := some { f with asks := false } } ∧
      AppliedAs s t e f.count code result := by
  obtain ⟨hreach, -, hm⟩ := h
  have hbus : (s.removeEntry e).bus = [] := hreach.1.2.2.2.2.2
  have happly : applyEntry f.count e s = .ok () ((s.removeEntry e).completing e.addr (lateCode e.late code) f.count result e.notify) := by
    simp [applyEntry, hm, endTransferFor_none (fun _ _ _ => hends), hr, complete_eq _ _ _ _ _ hbus]
  have hstep : step s = .next (s.appliedTo f e s code result) := step_reachesEntry hreach happly
  refine ⟨_, hstep, ?_, appliedAs_appliedTo _ _ _ _ _ _⟩
  simp only [State.appliedTo, hz, applied_false]

theorem applyAction_capture {seq : Word} (hm : e.chan < s.geo.mics) (ha : e.action = .capture index) :
    applyAction seq e s = applyCapture seq e index s := by
  simp [applyAction, Nat.not_le.mpr hm, ha]

theorem applyAction_restore {seq : Word} (hm : e.chan < s.geo.mics) (ha : e.action = .restore index) :
    applyAction seq e s = applyRestore e index s := by
  simp [applyAction, Nat.not_le.mpr hm, ha]

/-- The next unit refuses a capture (R157). -/
theorem step_refuses_capture {code : Code} {result : Word} (h : s.AppliesNext f e) (ha : e.action = .capture index)
    (hr : ¬ s.DirValid index ∧ code = .badSlot ∧ result = BitVec.ofNat 32 index ∨
      s.DirValid index ∧ captureRefusal s e.chan index (s.captureEntry index) = some (code, result)) :
    ∃ t, step s = .next t ∧
      t = { s with table := t.table, mem := t.mem, notice := t.notice, flight := some { f with asks := false } } ∧
      AppliedAs s t e f.count code result := by
  have hm : e.chan < (s.removeEntry e).geo.mics := h.2.2
  have hbus : (s.removeEntry e).bus = [] := h.1.1.2.2.2.2.2
  refine step_refuses h (by simp [endsTransfer, ha]) (by simp [State.zeroes, ha]) ((applyAction_capture hm ha).trans ?_)
  rcases hr with ⟨hinvalid, rfl, rfl⟩ | ⟨hvalid, hr⟩
  · exact applyCapture_badSlot hbus hinvalid
  · exact applyCapture_refused hbus hvalid hr

/-- The next unit refuses a restore (R159). -/
theorem step_refuses_restore {code : Code} {result : Word} (h : s.AppliesNext f e) (ha : e.action = .restore index)
    (hr : ¬ s.DirValid index ∧ code = .badSlot ∧ result = BitVec.ofNat 32 index ∨
      s.DirValid index ∧ (restoreRefusal s e.chan = some (code, result) ∨ restoreRefusal s e.chan = none ∧
        headerRefusal s.geo.refs (s.dirCapacity index) (memWord s.mem (s.dirSlot index).toNat)
          (memWord s.mem ((s.dirSlot index).toNat + 4)) = some (code, result))) :
    ∃ t, step s = .next t ∧
      t = { s with table := t.table, mem := t.mem, notice := t.notice, flight := some { f with asks := false } } ∧
      AppliedAs s t e f.count code result := by
  have hm : e.chan < (s.removeEntry e).geo.mics := h.2.2
  have hbus : (s.removeEntry e).bus = [] := h.1.1.2.2.2.2.2
  refine step_refuses h (by simp [endsTransfer, ha]) (by simp [State.zeroes, ha]) ((applyAction_restore hm ha).trans ?_)
  rcases hr with ⟨hinvalid, rfl, rfl⟩ | ⟨hvalid, hr | ⟨hn, hr⟩⟩
  · exact applyRestore_badSlot hbus hinvalid
  · exact applyRestore_refused hbus hvalid hr
  · exact applyRestore_headerRefused hbus hvalid hn hr

/-! ### Starts (R158, R160) -/

/-- The next unit starts a transfer and completes nothing. -/
theorem step_starts {u : State} (h : s.AppliesNext f e) (hends : endsTransfer s e = false) (hz : s.zeroes e = false)
    (hr : applyAction f.count e (s.removeEntry e) = .ok none u) : step s = .next (u.setFlight (some { f with asks := false })) := by
  obtain ⟨hreach, -, hm⟩ := h
  have happly : applyEntry f.count e s = .ok () u := by
    simp [applyEntry, hm, endTransferFor_none (fun _ _ _ => hends), hr]
  rw [step_reachesEntry hreach happly, hz, applied_false]

/-- The state a capture's start leaves (R158). -/
def State.captureStarted (s : State) (seq : Word) (e : Entry) (index : Nat) : State :=
  { s with
    mem := memWithWords s.mem (s.dirSlot index).toNat (captureHeader (s.chan e.chan) s.geo.refs seq)
    channels := (s.setChan e.chan { s.chan e.chan with capture := true }).channels
    transfer := some
      { direction := .capture, chan := e.chan, index := index, slotAddr := s.dirSlot index, capacity := s.dirCapacity index,
        copy := (s.chan e.chan).parts * s.geo.refs, fill := 0, progress := 0, fitted := false, cmd := e.addr, late := e.late,
        notify := e.notify, parts := (s.chan e.chan).parts, erle := (s.chan e.chan).erle, coupling := (s.chan e.chan).coupling } }

theorem applyCapture_starts {seq : Word} (hbus : s.bus = []) (h : s.DirValid index)
    (hr : captureRefusal s e.chan index (s.captureEntry index) = none) :
    applyCapture seq e index s = .ok none (s.captureStarted seq e index) := by
  simp only [applyCapture, work_bind, readDirEntry_capture hbus h, getState_apply, hr, writeWords_quiet _ _ _ hbus, update_apply,
    work_pure]
  simp only [State.captureStarted, State.captureEntry]
  generalize memWithWords s.mem (s.dirSlot index).toNat (captureHeader (s.chan e.chan) s.geo.refs seq) = m
  rfl

/-- A start does not look at the table. -/
theorem captureStarted_removeEntry (s : State) (seq : Word) (e : Entry) (index : Nat) :
    (s.removeEntry e).captureStarted seq e index = (s.captureStarted seq e index).removeEntry e := by
  have hmem : memWithWords (s.removeEntry e).mem ((s.removeEntry e).dirSlot index).toNat
      (captureHeader ((s.removeEntry e).chan e.chan) (s.removeEntry e).geo.refs seq) =
      memWithWords s.mem (s.dirSlot index).toNat (captureHeader (s.chan e.chan) s.geo.refs seq) := rfl
  simp only [State.captureStarted, hmem]
  generalize memWithWords s.mem (s.dirSlot index).toNat (captureHeader (s.chan e.chan) s.geo.refs seq) = m
  rfl

/-- The state a restore's start leaves (R160). -/
def State.restoreStarted (s : State) (e : Entry) (index : Nat) : State :=
  let header := memWord s.mem ((s.dirSlot index).toNat + 4)
  let measures := memWord s.mem ((s.dirSlot index).toNat + 8)
  let own := (s.chan e.chan).parts
  { s with
    channels := (s.setChan e.chan (s.chan e.chan).enterRestoring).channels
    queue := s.queue.filter (fun d => decide (d ≠ e.chan))
    transfer := some
      { direction := .restore, chan := e.chan, index := index, slotAddr := s.dirSlot index, capacity := s.dirCapacity index,
        copy := min (halfOf header 0) own * s.geo.refs, fill := (own - halfOf header 0) * s.geo.refs, progress := 0,
        fitted := decide (halfOf header 0 ≠ own), cmd := e.addr, late := e.late, notify := e.notify, parts := halfOf header 0,
        erle := clamp (signedHalfOf measures 0) (-96) 240, coupling := clamp (signedHalfOf measures 1) (-240) 48 } }

theorem applyRestore_starts (hbus : s.bus = []) (h : s.DirValid index) (hn : restoreRefusal s e.chan = none)
    (hr : headerRefusal s.geo.refs (s.dirCapacity index) (memWord s.mem (s.dirSlot index).toNat)
      (memWord s.mem ((s.dirSlot index).toNat + 4)) = none) : applyRestore e index s = .ok none (s.restoreStarted e index) := by
  have h0 := memWords_getD s.mem (s.dirSlot index).toNat 3 0 (by omega)
  have h1 := memWords_getD s.mem (s.dirSlot index).toNat 3 1 (by omega)
  have h2 := memWords_getD s.mem (s.dirSlot index).toNat 3 2 (by omega)
  simp only [Nat.mul_zero, Nat.add_zero, Nat.mul_one] at h0 h1 h2
  simp only [applyRestore, work_bind, readDirEntry_valid hbus (n := 2) (by omega) h, getState_apply, hn, readWords_quiet _ _ _ hbus,
    h0, h1, h2, hr, update_apply, work_pure, State.restoreStarted, State.modChan_eq]
  rfl

/-- The words of a capture's header (R154, R178). -/
theorem captureHeader_getElem (x : Channel) (refs : Nat) (seq : Word) :
    captureHeader x refs seq = [1, pairResult x.parts refs, half x.coupling ++ half x.erle, seq] ++ List.replicate 12 0 := rfl

theorem memWord_captureHeader (m : List Host.Cell) (a : Nat) (x : Channel) (refs : Nat) (seq : Word) :
    let m' := memWithWords m a (captureHeader x refs seq)
    memWord m' a = 1 ∧ memWord m' (a + 4) = BitVec.ofNat 16 refs ++ BitVec.ofNat 16 x.parts ∧
      memWord m' (a + 8) = BitVec.ofInt 16 x.coupling ++ BitVec.ofInt 16 x.erle ∧ memWord m' (a + 12) = seq ∧
      (∀ i < 12, memWord m' (a + 16 + 4 * i) = 0) ∧ MemKeeps m m' [(a, 64)] := by
  have hread := memWord_memWithWords m a (captureHeader x refs seq) (by simp [captureHeader])
  have hlen : (captureHeader x refs seq).length = 16 := by simp [captureHeader]
  refine ⟨hread 0 (by omega), hread 1 (by omega), hread 2 (by omega), hread 3 (by omega), fun i hi => ?_, ?_⟩
  · have hword := hread (4 + i) (by omega)
    rw [show a + 4 * (4 + i) = a + 16 + 4 * i by omega] at hword
    rw [hword]
    exact List.getElem_append_right (as := [validityWord .inProgress, pairResult x.parts refs, half x.coupling ++ half x.erle, seq])
      (by simp) |>.trans (List.getElem_replicate _)
  · have hkeeps := memKeeps_memWithWords m a (captureHeader x refs seq)
    rwa [hlen] at hkeeps

end

end Sys2Proof.Machine

namespace Sys2Proof

open Sys2Proof.Machine

/-- Settles O33: the checks of a capture and of a restore, each in its place. -/
theorem profileCommandRefused : Obligations.ProfileCommandRefused := by
  intro s f e index h
  refine ⟨fun ha => ⟨fun hinvalid => ?_, fun hvalid hlock => ?_, fun hvalid hlock hguard => ?_, fun hvalid hlock hguard =>
    ⟨fun hfits => ?_, fun hfits u hu hown => ?_, fun hfits hfree hst => ?_⟩⟩, fun ha => ⟨fun hinvalid => ?_,
    fun hvalid u hu hown => ?_, fun hvalid hfree hst => ?_, fun hvalid hfree hst => ⟨fun husable => ?_, fun husable hrefs => ?_⟩⟩⟩
  · exact step_refuses_capture h ha (.inl ⟨hinvalid, rfl, rfl⟩)
  · exact step_refuses_capture h ha (.inr ⟨hvalid, captureRefusal_locked hlock⟩)
  · exact step_refuses_capture h ha (.inr ⟨hvalid, captureRefusal_protected hlock hguard⟩)
  · exact step_refuses_capture h ha (.inr ⟨hvalid, captureRefusal_tooSmall hlock hguard hfits⟩)
  · refine step_refuses_capture h ha (.inr ⟨hvalid, captureRefusal_fits hlock hguard hfits (fun t ht => ?_) fun hn => ?_⟩)
    · obtain rfl := Option.some.inj ((busyTransfer_some hu hown).symm.trans ht)
      rfl
    · exact absurd ((busyTransfer_some hu hown).symm.trans hn) (by simp)
  · refine step_refuses_capture h ha (.inr ⟨hvalid, captureRefusal_fits hlock hguard hfits (fun t ht => ?_) fun _ => ?_⟩)
    · exact absurd ((busyTransfer_none hfree).symm.trans ht) (by simp)
    · exact (stateRefusal_of_not_filters hst).symm
  · exact step_refuses_restore h ha (.inl ⟨hinvalid, rfl, rfl⟩)
  · exact step_refuses_restore h ha (.inr ⟨hvalid, .inl (restoreRefusal_busy (busyTransfer_some hu hown))⟩)
  · exact step_refuses_restore h ha
      (.inr ⟨hvalid, .inl ((restoreRefusal_idle (busyTransfer_none hfree)).trans (stateRefusal_of_not_filters hst))⟩)
  · exact step_refuses_restore h ha (.inr ⟨hvalid, .inr
      ⟨(restoreRefusal_idle (busyTransfer_none hfree)).trans (stateRefusal_of_filters hst), if_neg husable⟩⟩)
  · exact step_refuses_restore h ha (.inr ⟨hvalid, .inr
      ⟨(restoreRefusal_idle (busyTransfer_none hfree)).trans (stateRefusal_of_filters hst), (if_pos husable).trans (if_pos hrefs)⟩⟩)

/-- Settles O31. -/
theorem captureStarts : Obligations.CaptureStarts := by
  intro s f e index h ha
  have hc := h.chan_lt
  have hm : e.chan < (s.removeEntry e).geo.mics := h.2.2
  have hbus : (s.removeEntry e).bus = [] := h.1.1.2.2.2.2.2
  intro entry slot capacity ctx hindex haligned hinside hlock hguard hroom hidle hst
  have hnone : captureRefusal (s.removeEntry e) e.chan index ((s.removeEntry e).captureEntry index) = none :=
    captureRefusal_fits hlock hguard (.inr hroom)
      (fun t ht => absurd ((busyTransfer_none (s := s) fun u hu => by simp [hidle] at hu).symm.trans ht) (by simp))
      fun _ => (stateRefusal_of_filters hst).symm
  have hstep := step_starts h (by simp [endsTransfer, ha]) (by simp [State.zeroes, ha])
    ((applyAction_capture hm ha).trans (applyCapture_starts hbus ⟨hindex, haligned, hinside⟩ hnone))
  rw [captureStarted_removeEntry] at hstep
  obtain ⟨t, ht⟩ : ∃ t, t = ((s.captureStarted f.count e index).removeEntry e).setFlight (some { f with asks := false }) := ⟨_, rfl⟩
  have hmem : t.mem = memWithWords s.mem slot.toNat (captureHeader ctx s.geo.refs f.count) := by
    simp only [ht, State.setFlight_mem, State.removeEntry_eq, State.setTable_mem, State.captureStarted]
    rfl
  have hchannels : t.channels = (s.setChan e.chan { ctx with capture := true }).channels := by
    simp only [ht, State.setFlight_channels, State.removeEntry_eq, State.setTable_channels, State.captureStarted]
    rfl
  have hheader := memWord_captureHeader s.mem slot.toNat ctx s.geo.refs f.count
  simp only [← hmem] at hheader
  obtain ⟨hvalidity, hparts, hmeasures, hsequence, hzeros, hkeeps⟩ := hheader
  refine ⟨t, ht ▸ hstep, ?_, ?_, fun c hne => ?_, hvalidity, hparts, hmeasures, hsequence, hzeros, hkeeps⟩
  · subst ht
    simp only [State.captureStarted]
    generalize memWithWords s.mem (s.dirSlot index).toNat (captureHeader (s.chan e.chan) s.geo.refs f.count) = m
    rfl
  · exact (chan_congr hchannels _).trans (chan_setChan_same s _ hc)
  · exact (chan_congr hchannels _).trans (chan_setChan_other s _ hne)

/-- Settles O32. -/
theorem restoreStarts : Obligations.RestoreStarts := by
  intro s f e index h ha
  have hc := h.chan_lt
  have hm : e.chan < (s.removeEntry e).geo.mics := h.2.2
  have hbus : (s.removeEntry e).bus = [] := h.1.1.2.2.2.2.2
  intro entry slot capacity saved refs measures own hindex haligned hinside hidle hst hvalidity hlow hhigh hroom hrefs
  have hfree : restoreRefusal (s.removeEntry e) e.chan = none :=
    (restoreRefusal_idle (busyTransfer_none (s := s) fun u hu => by simp [hidle] at hu)).trans (stateRefusal_of_filters hst)
  have hheader : headerRefusal s.geo.refs capacity (memWord s.mem slot.toNat) (memWord s.mem (slot.toNat + 4)) = none :=
    (if_pos ⟨hvalidity, hlow, hhigh, hroom⟩).trans (if_neg (not_not.mpr hrefs))
  have hstep := step_starts h (by simp [endsTransfer, ha]) (by simp [State.zeroes, ha])
    ((applyAction_restore hm ha).trans (applyRestore_starts hbus ⟨hindex, haligned, hinside⟩ hfree hheader))
  refine ⟨_, hstep, ?_, ?_, fun c hne => ?_⟩
  · simp only [State.restoreStarted, State.removeEntry_eq, State.setFlight, State.setTable]
    rfl
  · exact (chan_congr rfl _).trans (chan_setChan_same (s.removeEntry e) _ hc)
  · exact (chan_congr rfl _).trans (chan_setChan_other (s.removeEntry e) _ hne)

end Sys2Proof
end

section
/-! The storage upset (R91, R92) and a restore's end (R161): when it is taken, and that a check takes it first. -/

namespace Sys2Proof.Machine

/-! ### Reads of the pool (R92) -/

section
variable {s : State} {i : Nat}

theorem readSlot_sound (h : (s.slot i).bad = 0#258) : readSlot i s = .ok ((s.slot i).parts, false) s := if_pos h

theorem readSlot_failed (h : (s.slot i).bad ≠ 0#258) : readSlot i s = .ok (Slot.zero.parts, true) (s.setSlot i .zero) := if_neg h

/-- An upset part disagrees with its parity bit. -/
theorem upset_bad_ne_zero (v : Slot) {part : Nat} (value : Word) (h : part < 258) : (v.upset part value).bad ≠ 0#258 := by
  intro hz
  have hbit : (v.upset part value).bad.getLsbD part = false := by rw [hz]; exact BitVec.getLsbD_zero
  simp [Slot.upset, h] at hbit

end

/-! ### A restore's end (R161) -/

section
variable {s : State} {u : Transfer}

/-- The state that taking the end of restore `u` leaves (R161, R166). -/
def State.endTaken (s : State) (u : Transfer) : State :=
  { s with
    transfer := none
    channels := (s.setChan u.chan ((s.chan u.chan).restored u)).channels
    queue := s.queue.filter (fun d => decide (d ≠ u.chan)) ++ [u.chan]
    notice := s.notice || u.notify
    mem := memWithCompletion s.mem u.cmd (lateCode u.late .ok) s.done (pairResult u.parts u.fitted.toNat) }

theorem State.HoldsReadyEnd.endReady (h : s.HoldsReadyEnd u) : u.endReady = true := by
  obtain ⟨-, hd, hle, -, -⟩ := h
  simp [Transfer.endReady, hd, hle]

theorem takeReadyEnd_taken (hu : s.transfer = some u) (hr : u.endReady = true) (hbus : s.bus = []) :
    takeReadyEnd s = .ok () (s.endTaken u) := by
  rw [takeReadyEnd_takes s u hu hr]
  have hbus' : (((s.modChan u.chan (fun ctx => ctx.restored u)).toTail u.chan).setTransfer none).bus = [] := hbus
  simp only [takeRestoreEnd, work_bind, update_apply, completeTransfer_quiet _ _ _ hbus']
  simp only [State.completing, State.setTransfer_mem, State.setTransfer_done, State.setTransfer_notice, State.toTail, State.setQueue_mem, State.setQueue_done, State.setQueue_notice,
    State.modChan_eq, State.setChan_mem, State.setChan_done, State.setChan_notice, State.setChan_queue, State.endTaken]
  generalize memWithCompletion s.mem u.cmd (lateCode u.late .ok) s.done (pairResult u.parts u.fitted.toNat) = m
  simp only [State.setTransfer, State.setQueue, State.setChan, State.setMem, State.setNotice]

theorem takeReadyEnd_ready (h : s.HoldsReadyEnd u) (hbus : s.bus = []) : takeReadyEnd s = .ok () (s.endTaken u) :=
  takeReadyEnd_taken h.1 h.endReady hbus

theorem endTakenFrom_endTaken (s : State) (hc : u.chan < 16) : EndTakenFrom s (s.endTaken u) u := by
  refine ⟨rfl, ?_, fun c hne => ?_, ?_, memKeeps_memWithCompletion _ _ _ _ _⟩
  · exact (chan_congr rfl _).trans (chan_setChan_same _ _ hc)
  · exact (chan_congr rfl _).trans (chan_setChan_other _ _ hne)
  · rw [← lateCode_ok]
    exact memCompleted_memWithCompletion _ _ _ _ _

theorem takeReadyEnd_none (h : s.NoEndReady) : takeReadyEnd s = .ok () s := takeReadyEnd_waits s h

theorem endTaken_noEndReady (s : State) (u : Transfer) : (s.endTaken u).NoEndReady := fun v hv => by simp [State.endTaken] at hv

/-- A check takes a ready end first: it goes on as from the state in which the end is taken (R161, R171). -/
theorem cycleCheck_endTaken (h : s.HoldsReadyEnd u) (hbus : s.bus = []) (byStep : Bool) :
    cycleCheck byStep s = cycleCheck byStep (s.endTaken u) := by
  simp only [cycleCheck, work_bind, takeReadyEnd_ready h hbus, takeReadyEnd_none (endTaken_noEndReady s u)]

theorem endTaken_setIntake (s : State) (u : Transfer) (i : Option Intake) : (s.setIntake i).endTaken u = (s.endTaken u).setIntake i := rfl

theorem endTaken_setStepDue (s : State) (u : Transfer) (v : Bool) : (s.setStepDue v).endTaken u = (s.endTaken u).setStepDue v := rfl

/-- The phases in which the frame in flight stands between two stages, after stage 1 and before the walk (R71, R161). -/
theorem endPoint_iff {f : Flight} (h : s.flight = some f) :
    s.endPoint = true ↔ f.phase = .push ∨ f.phase = .estimate 0 ∨ f.phase = .decide ∨ f.phase = .walk := by
  cases hp : f.phase <;> simp [State.endPoint, h, hp]

theorem endPoint_at_rest (h : s.flight = none) : s.endPoint = true := by
  simp [State.endPoint, h]

theorem moverWorks_iff : s.moverWorks = true ↔ s.engine = .running ∨ s.engine = .stepWait := by
  simp [State.moverWorks]

/-- The intake that a tick or a STEP brings (R137). -/
theorem beginIntake_apply (s : State) : beginIntake s = .ok () (s.setIntake (some s.broughtIntake)) := rfl

/-- The work of a tick that finds no cycle busy: its plan with the check due (R170). -/
theorem tickWork_idle (timing : TickTiming) (h : s.flight = none) :
    tickWork timing s = (do
      let due ← runPlan timing.plan true
      if timing.finish then finishIntake else pure ()
      if due then cycleCheck false else pure ()
      if timing.finish then runStagesFor none else pure ()) (s.setIntake (some s.broughtIntake)) := by
  have hbusy : s.frameBusy = false := by simp [State.frameBusy, h]
  simp [tickWork, hbusy, beginIntake_apply]

theorem exec_blktick_running (timing : TickTiming) (h : s.engine = .running) :
    exec (.blktick timing) s = .next (settle (tickWork timing) s) := by
  simp [exec, execBlktick, h]

/-- A tick whose check comes first finds a ready end taken. -/
theorem tickWork_endTaken {timing : TickTiming} (h : s.HoldsReadyEnd u) (hbus : s.bus = []) (hf : s.flight = none)
    (ht : timing = justBegun ∨ ∃ rest, timing.plan = .frame :: rest) : tickWork timing s = tickWork timing (s.endTaken u) := by
  have hcheck : cycleCheck false (s.setIntake (some s.broughtIntake)) =
      cycleCheck false ((s.endTaken u).setIntake (some (s.endTaken u).broughtIntake)) := by
    have hready : (s.setIntake (some s.broughtIntake)).HoldsReadyEnd u := h
    rw [cycleCheck_endTaken hready hbus, endTaken_setIntake]
    rfl
  have hf' : (s.endTaken u).flight = none := hf
  rw [tickWork_idle timing hf, tickWork_idle timing hf']
  rcases ht with rfl | ⟨rest, hplan⟩
  · simp only [justBegun, runPlan, work_bind, work_pure, Bool.false_eq_true, if_false, if_true, hcheck]
  · simp only [hplan, runPlan, work_bind, if_true, hcheck]

/-- With a STEP's check due and nothing else in flight, the block's own progress is the check (R182). -/
theorem step_check (hpending : s.pending = []) (hworks : s.frameWorks = true) (hintake : s.intake = none) (hf : s.flight = none)
    (hdue : s.stepDue = true) : step s = .next (settle (cycleCheck true) (s.setStepDue false)) := by
  have hprogress : progress s = cycleCheck true (s.setStepDue false) := by simp [progress, hintake, hf, hdue, stepCheck]
  simp [step, execIdle, hpending, hworks, settle, hprogress]

end

end Sys2Proof.Machine

namespace Sys2Proof

open Sys2Proof.Machine

/-- Settles O23. -/
theorem upsetFailsTheNextRead : Obligations.UpsetFailsTheNextRead := by
  intro s slot part v hslot hpart
  have hexec : exec (.storageUpset slot part v) s = .next (s.setSlot slot ((s.slot slot).upset part v)) := by
    simp [exec, execStorageUpset, Config.poolSlots, Config.slotParts, hslot, hpart]
  have hread : (s.setSlot slot ((s.slot slot).upset part v)).slot slot = (s.slot slot).upset part v := by
    rw [slot_setSlot, if_pos rfl]
  refine ⟨_, _, hexec, rfl, fun i hi => ?_, readSlot_failed ?_, ?_, fun i => ?_, ?_⟩
  · rw [slot_setSlot, if_neg hi]
  · rw [hread]
    exact upset_bad_ne_zero _ _ hpart
  · simp only [State.setSlot, State.setPool]
  · rw [slot_setSlot, slot_setSlot]
    split_ifs <;> rfl
  · have hzero : ((s.setSlot slot ((s.slot slot).upset part v)).setSlot slot .zero).slot slot = .zero := by rw [slot_setSlot, if_pos rfl]
    rw [readSlot_sound (by rw [hzero]; rfl), hzero]

/-- Settles O22. -/
theorem restoreEndTaken : Obligations.RestoreEndTaken := by
  intro s u hquiet h between
  have hbus : s.bus = [] := hquiet
  refine ⟨fun hengine => ⟨fun hpoint => ⟨s.endTaken u, ?_, endTakenFrom_endTaken s h.2.2.2.1⟩, fun f hf hnot => ?_⟩, fun hrun hstep => ?_,
    fun hf => ⟨fun timing hengine ht => ⟨s.endTaken u, endTakenFrom_endTaken s h.2.2.2.1, ?_⟩,
      fun hengine hpending hintake hdue => ⟨s.endTaken u, endTakenFrom_endTaken s h.2.2.2.1, ?_⟩⟩⟩
  · have hend : s.endPoint = true := by
      rcases hpoint with hf | ⟨f, hf, hb⟩
      · exact endPoint_at_rest hf
      · exact (endPoint_iff hf).mpr hb
    simp [exec, execRestoreEnd, moverWorks_iff.mpr hengine, hend, settle, takeReadyEnd_ready h hbus]
  · have hend : ¬ s.endPoint = true := fun hend => hnot ((endPoint_iff hf).mp hend)
    simp [exec, execRestoreEnd, hend]
  · have hworks : ¬ s.moverWorks = true := fun hw => (moverWorks_iff.mp hw).elim hrun hstep
    simp [exec, execRestoreEnd, hworks]
  · have hengine' : (s.endTaken u).engine = .running := hengine
    rw [exec_blktick_running timing hengine, exec_blktick_running timing hengine', settle, tickWork_endTaken h hbus hf ht]
    rfl
  · have hworks : s.frameWorks = true := by simp [State.frameWorks, hengine]
    have hready : (s.setStepDue false).HoldsReadyEnd u := h
    rw [step_check hpending hworks hintake hf hdue, step_check (s := s.endTaken u) hpending hworks hintake hf hdue, settle,
      cycleCheck_endTaken hready hbus, endTaken_setStepDue]
    rfl

end Sys2Proof
end

section
/-! The command intake, one unit at a time: looks, the checks of a record in their order, filing, CANCEL and LOCK_PROFILES (R134 to R152). -/

namespace Sys2Proof.Machine

section
variable {s : State} {r : Record} {d : Word} {n : Nat}

/-! ### The intake's next unit -/

/-- With an intake in progress in RUNNING or STEP_WAIT, the block's own progress is the intake's next unit. -/
theorem step_intake {i : Intake} (hpending : s.pending = []) (hengine : s.engine = .running ∨ s.engine = .stepWait)
    (hintake : s.intake = some i) : step s = .next (settle intakeUnit s) := by
  have hworks : s.frameWorks = true := by rcases hengine with h | h <;> simp [State.frameWorks, h]
  have hprogress : progress s = intakeUnit s := by simp [progress, hengine, hintake]
  simp [step, execIdle, hpending, hworks, settle, hprogress]

/-- A record's step that ends leaves the intake open or, after the eighth record, closed (R137, R138). -/
theorem step_record {t : State} (h : s.StepsRecord r d n) (hr : recordStep r d s = .ok () t) :
    step s = .next (t.setIntake (intakeAfter d n)) := by
  obtain ⟨hpending, hengine, hintake, -, -⟩ := h
  rw [step_intake hpending hengine hintake]
  by_cases hn : 8 ≤ n
  · simp [intakeUnit, hintake, intakeStep, hr, settle, intakeAfter, hn, Config.intakeLimit, closeIntake]
  · simp [intakeUnit, hintake, intakeStep, hr, settle, intakeAfter, hn, Config.intakeLimit]

/-! ### Looks (R134 to R136) -/

/-- The candidate address of the next look (R134). -/
def State.candidateAddr (s : State) : Word :=
  match s.anchor with
  | none => s.geo.firstCmd
  | some b => memWord s.mem b.toNat

theorem candidate_quiet (hbus : s.bus = []) : candidate s = .ok s.candidateAddr s := by
  cases h : s.anchor with
  | none => simp [candidate, State.candidateAddr, h]
  | some b => simp [candidate, State.candidateAddr, h, readWord_quiet _ _ hbus]

/-- The record that stands at `a` in shared memory `m` (R132, R178). -/
def recordAt (m : List Host.Cell) (a : Word) : Record :=
  { addr := a, next := memWord m a.toNat, owner := readByte m (a.toNat + 4), kind := readByte m (a.toNat + 5),
    chan := readByte m (a.toNat + 6), duePresent := (readByte m (a.toNat + 7)).getLsbD 0, notify := (readByte m (a.toNat + 7)).getLsbD 1,
    due := memWord m (a.toNat + 8), params := (memWords m (a.toNat + 12) 7).flatMap wordBytes }

theorem memWords_drop (m : List Host.Cell) (a i k : Nat) : (memWords m a (i + k)).drop i = memWords m (a + 4 * i) k := by
  induction i generalizing a with
  | zero => simp
  | succ i ih =>
    rw [show i + 1 + k = i + k + 1 by omega, memWords, List.drop_succ_cons, ih]
    congr 1
    omega

theorem readRecord_quiet (hbus : s.bus = []) (a : Word) : readRecord a s = .ok (recordAt s.mem a) s := by
  have hnext := memWords_getD s.mem a.toNat 10 0 (by omega)
  have hhead := memWords_getD s.mem a.toNat 10 1 (by omega)
  have hdue := memWords_getD s.mem a.toNat 10 2 (by omega)
  have hparams := memWords_drop s.mem a.toNat 3 7
  simp only [readRecord, work_bind, readWords_quiet _ _ _ hbus, work_pure, hnext, hhead, hdue, hparams]
  simp only [byteOf_memWord _ _ _ (show 0 < 4 by omega), byteOf_memWord _ _ _ (show 1 < 4 by omega),
    byteOf_memWord _ _ _ (show 2 < 4 by omega), byteOf_memWord _ _ _ (show 3 < 4 by omega), recordAt]
  rfl

/-- Byte `i` of a run of words. -/
theorem flatMap_wordBytes_getD (m : List Host.Cell) (a k i : Nat) (hi : i < 4 * k) :
    ((memWords m a k).flatMap wordBytes).getD i 0 = readByte m (a + i) := by
  induction k generalizing a i with
  | zero => omega
  | succ k ih =>
    rw [memWords, List.flatMap_cons, wordBytes_memWord]
    match i with
    | 0 => rfl
    | 1 => rfl
    | 2 => rfl
    | 3 => rfl
    | i + 4 =>
      have := ih (a + 4) i (by omega)
      rw [show a + (i + 4) = a + 4 + i by omega]
      simpa using this

/-- The look of an intake (R135, R136). -/
theorem intakeUnit_look {read : Option Word} (hintake : s.intake = some { done := read, taken := n, inHand := none }) :
    intakeUnit s = intakeLook (read.getD s.done) n s := by
  simp [intakeUnit, hintake]

theorem look_ends (hbus : s.bus = []) (h : s.candidateAddr = 0 ∨ (s.candidateAddr.toNat % 64 = 0 ∧
    s.inside s.candidateAddr.toNat 64 = true) ∧ readByte s.mem (s.candidateAddr.toNat + 4) ≠ 1) : look s = .ok none s := by
  by_cases hz : s.candidateAddr = 0
  · simp [look, candidate_quiet hbus, hz]
  · obtain ⟨⟨halign, hinside⟩, howner⟩ := h.resolve_left hz
    have hne : ¬ (recordAt s.mem s.candidateAddr).owner = ownerPosted := howner
    have hsound : ¬ (s.candidateAddr.toNat % 64 ≠ 0 ∨ s.inside s.candidateAddr.toNat 64 = false) := by simp [halign, hinside]
    simp only [look, work_bind, candidate_quiet hbus, getState_apply, if_neg hz, if_neg hsound, readRecord_quiet hbus, if_neg hne,
      work_pure]

theorem look_faults (hbus : s.bus = []) (hz : s.candidateAddr ≠ 0)
    (h : ¬ (s.candidateAddr.toNat % 64 = 0 ∧ s.inside s.candidateAddr.toNat 64 = true)) :
    look s = .error (addressFault .window s.candidateAddr.toNat) s := by
  have hbad : s.candidateAddr.toNat % 64 ≠ 0 ∨ s.inside s.candidateAddr.toNat 64 = false := by
    by_cases halign : s.candidateAddr.toNat % 64 = 0
    · exact .inr (by simpa [halign] using h)
    · exact .inl halign
  simp only [look, work_bind, candidate_quiet hbus, getState_apply, if_neg hz, if_pos hbad, fail_apply]

theorem look_takes (hbus : s.bus = []) (hz : s.candidateAddr ≠ 0)
    (h : s.candidateAddr.toNat % 64 = 0 ∧ s.inside s.candidateAddr.toNat 64 = true) (howner : readByte s.mem (s.candidateAddr.toNat + 4) = 1) :
    look s = .ok (some (recordAt s.mem s.candidateAddr))
      { s with mem := writeBytes s.mem (s.candidateAddr.toNat + 4) [2], anchor := some s.candidateAddr } := by
  have hposted : (recordAt s.mem s.candidateAddr).owner = ownerPosted := howner
  have hsound : ¬ (s.candidateAddr.toNat % 64 ≠ 0 ∨ s.inside s.candidateAddr.toNat 64 = false) := by simp [h]
  simp only [look, work_bind, candidate_quiet hbus, getState_apply, if_neg hz, if_neg hsound, readRecord_quiet hbus, if_pos hposted,
    writeLanes_quiet _ _ _ hbus, update_apply, work_pure, ownerTaken]
  rfl

/-- The detail of an address's fault: its bits 31..2 (R184). -/
theorem addressFault_detail (code : FaultCode) (a : Word) : addressFault code a.toNat = { code := code, detail := a.extractLsb' 2 30 } := by
  simp only [addressFault, EngineFault.mk.injEq, true_and]
  apply BitVec.eq_of_toNat_eq
  simp [Nat.shiftRight_eq_div_pow]

/-! ### The checks of a record (R139, R141) -/

theorem byte_toNat_eq (b : Byte) (k : Nat) (hk : k < 256) : b.toNat = k ↔ b = BitVec.ofNat 8 k := by
  rw [← BitVec.toNat_inj, BitVec.toNat_ofNat, Nat.mod_eq_of_lt hk]

theorem paramHalf_toNat (r : Record) (o : Nat) : (r.paramHalf o).toNat = (r.params.getD (o + 1) 0).toNat * 256 + (r.params.getD o 0).toNat := by
  have hlt := (r.params.getD o 0).isLt
  rw [Record.paramHalf, BitVec.toNat_append, ← Nat.shiftLeft_add_eq_or_of_lt hlt, Nat.shiftLeft_eq]

theorem tuningRange_eq {i : Nat} (hi : i < 10) : tuningRanges.getD i (0, 0) = tuningRange i := by
  interval_cases i <;> rfl

theorem tuningFails_iff (r : Record) {i : Nat} (hi : i < 10) : r.tuningFails i = true ↔ r.TuningFails i := by
  have hzero : r.tuningValue 0 = r.tuningField 0 := rfl
  have hone : r.tuningValue 1 = r.tuningField 1 := rfl
  have hval : r.tuningValue i = r.tuningField i := by
    simp only [Record.tuningValue, Record.tuningField, Record.paramHalf, show 2 + 2 * i + 1 = 3 + 2 * i by omega]
  simp only [Record.TuningFails, tuningRange_eq hi]
  simp [Record.tuningFails, hval, hzero, hone, Record.paramHalf, or_assoc, and_assoc]

theorem tuning_mask_iff (r : Record) : 1024 ≤ (r.paramHalf 0).toNat ↔ 4 ≤ (r.params.getD 1 0).toNat := by
  have hlt := (r.params.getD 0 0).isLt
  have hmask := paramHalf_toNat r 0
  simp only [Nat.zero_add] at hmask
  omega

/-- The first tuning field that fails, if its mask names no field past the ten (R141). -/
theorem paramFault_tuning (hk : r.kind.toNat = 7) (hmask : (r.paramHalf 0).toNat < 1024) :
    r.paramFault = ((List.range 10).find? r.tuningFails).map (fun i => 2 + 2 * i) := by
  simp [Record.paramFault, hk, Nat.not_le.mpr hmask]

theorem find_tuningFails_none (h : ∀ i < 10, ¬ r.TuningFails i) : (List.range 10).find? r.tuningFails = none := by
  rw [List.find?_eq_none]
  intro i hi hf
  have hi10 := List.mem_range.mp hi
  exact h i hi10 ((tuningFails_iff r hi10).mp hf)

theorem find_tuningFails_some {i : Nat} (hi : i < 10) (hf : r.TuningFails i) (hbefore : ∀ k < i, ¬ r.TuningFails k) :
    (List.range 10).find? r.tuningFails = some i := by
  rw [List.find?_range_eq_some]
  refine ⟨(tuningFails_iff r hi).mpr hf, List.mem_range.mpr hi, fun k hk => ?_⟩
  have := fun hh => hbefore k hk ((tuningFails_iff r (by omega)).mp hh)
  simpa using this

/-- A record that stands for an action has every parameter in range, and files as that action (R141, R143). -/
theorem standsFor_sound {action : Action} (h : r.StandsFor action) :
    (1 ≤ r.kind.toNat ∧ r.kind.toNat ≤ 9) ∧ r.paramFault = none ∧ r.action = some action := by
  cases action with
  | configure parts =>
    obtain ⟨hk, rfl, hrange⟩ := h
    have hk' : r.kind.toNat = 1 := by rw [hk]; rfl
    refine ⟨by omega, ?_, ?_⟩
    · simpa [Record.paramFault, hk', Record.param] using hrange
    · simp [Record.action, hk', Record.param]
  | release =>
    have hk' : r.kind.toNat = 2 := by rw [show r.kind = 2 from h]; rfl
    exact ⟨by omega, by simp [Record.paramFault, hk'], by simp [Record.action, hk']⟩
  | reset =>
    have hk' : r.kind.toNat = 3 := by rw [show r.kind = 3 from h]; rfl
    exact ⟨by omega, by simp [Record.paramFault, hk'], by simp [Record.action, hk']⟩
  | freeze =>
    have hk' : r.kind.toNat = 4 := by rw [show r.kind = 4 from h]; rfl
    exact ⟨by omega, by simp [Record.paramFault, hk'], by simp [Record.action, hk']⟩
  | thaw =>
    have hk' : r.kind.toNat = 5 := by rw [show r.kind = 5 from h]; rfl
    exact ⟨by omega, by simp [Record.paramFault, hk'], by simp [Record.action, hk']⟩
  | setWindow w =>
    obtain ⟨hk, hmode, hn, hlimit, hflag⟩ := h
    have hk' : r.kind.toNat = 6 := by rw [hk]; rfl
    obtain ⟨mode, count, complement⟩ := w
    have hparam : r.param 2 = if complement then 1 else 0 := by
      rw [Record.param, hflag]
      cases complement <;> rfl
    have hcount : r.param 1 = count := hn.symm
    simp only at hlimit
    cases mode with
    | all =>
      have hmode' : r.param 0 = 0 := by rw [Record.param, hmode]; rfl
      exact ⟨by omega, by cases complement <;> simp [Record.paramFault, hk', hmode', hcount, hparam, hlimit],
        by cases complement <;> simp [Record.action, hk', hmode', hcount, hparam, windowModeOf]⟩
    | head =>
      have hmode' : r.param 0 = 1 := by rw [Record.param, hmode]; rfl
      exact ⟨by omega, by cases complement <;> simp [Record.paramFault, hk', hmode', hcount, hparam, hlimit],
        by cases complement <;> simp [Record.action, hk', hmode', hcount, hparam, windowModeOf]⟩
    | tail =>
      have hmode' : r.param 0 = 2 := by rw [Record.param, hmode]; rfl
      exact ⟨by omega, by cases complement <;> simp [Record.paramFault, hk', hmode', hcount, hparam, hlimit],
        by cases complement <;> simp [Record.action, hk', hmode', hcount, hparam, windowModeOf]⟩
  | setTuning mask values =>
    obtain ⟨hk, rfl, hmask, rfl, hfails⟩ := h
    have hk' : r.kind.toNat = 7 := by rw [hk]; rfl
    refine ⟨by omega, ?_, ?_⟩
    · rw [paramFault_tuning hk' hmask, find_tuningFails_none hfails, Option.map_none]
    · simp only [Record.action, hk']
      refine congrArg some (congrArg₂ Action.setTuning rfl (List.map_congr_left fun i _ => ?_))
      simp only [Record.tuningValue, Record.tuningField, Record.paramHalf, show 2 + 2 * i + 1 = 3 + 2 * i by omega]
  | capture index =>
    obtain ⟨hk, rfl, hrange⟩ := h
    have hk' : r.kind.toNat = 8 := by rw [hk]; rfl
    refine ⟨by omega, ?_, ?_⟩
    · simpa [Record.paramFault, hk', Record.param] using hrange
    · simp [Record.action, hk', Record.param]
  | restore index =>
    obtain ⟨hk, rfl, hrange⟩ := h
    have hk' : r.kind.toNat = 9 := by rw [hk]; rfl
    refine ⟨by omega, ?_, ?_⟩
    · simpa [Record.paramFault, hk', Record.param] using hrange
    · simp [Record.action, hk', Record.param]

theorem refusal_badKind (h : r.kind.toNat = 0 ∨ 11 < r.kind.toNat) :
    r.refusal s d = some (.badKind, BitVec.ofNat 32 r.kind.toNat) := if_pos h

section
variable (hk : 1 ≤ r.kind.toNat ∧ r.kind.toNat ≤ 9)
include hk

theorem namesChannel_of_range : namesChannel r.kind.toNat = true := by
  simp [namesChannel, hk]

theorem refusal_badChannel (hm : s.geo.mics ≤ r.chan.toNat) : r.refusal s d = some (.badChannel, BitVec.ofNat 32 r.chan.toNat) :=
  (if_neg (by omega)).trans (if_pos ⟨namesChannel_of_range hk, hm⟩)

theorem refusal_far (hm : r.chan.toNat < s.geo.mics) (hfar : r.duePresent = true ∧ 1048576 ≤ signedDiff r.due d) :
    r.refusal s d = some (.range, r.due) :=
  ((if_neg (by omega)).trans (if_neg fun hh => Nat.not_le.mpr hm hh.2)).trans (if_pos ⟨namesChannel_of_range hk, hfar⟩)

theorem refusal_param (hm : r.chan.toNat < s.geo.mics) (hnear : ¬ (r.duePresent = true ∧ 1048576 ≤ signedDiff r.due d)) {offset : Nat}
    (hf : r.paramFault = some offset) : r.refusal s d = some (.range, BitVec.ofNat 32 offset) := by
  refine ((if_neg (by omega)).trans (if_neg fun hh => Nat.not_le.mpr hm hh.2)).trans ((if_neg fun hh => hnear hh.2).trans ?_)
  rw [hf]

theorem refusal_full (hm : r.chan.toNat < s.geo.mics) (hnear : ¬ (r.duePresent = true ∧ 1048576 ≤ signedDiff r.due d))
    (hf : r.paramFault = none) {e : Entry} {back : List Entry} (htable : s.table = e :: back) (hfull : 8 ≤ s.table.length) :
    r.refusal s d = some (.tableFull, e.due) := by
  refine ((if_neg (by omega)).trans (if_neg fun hh => Nat.not_le.mpr hm hh.2)).trans ((if_neg fun hh => hnear hh.2).trans ?_)
  rw [hf]
  refine (if_pos ⟨namesChannel_of_range hk, hfull⟩).trans ?_
  rw [htable]
  rfl

theorem refusal_passes (hm : r.chan.toNat < s.geo.mics) (hnear : ¬ (r.duePresent = true ∧ 1048576 ≤ signedDiff r.due d))
    (hf : r.paramFault = none) (hroom : s.table.length < 8) : r.refusal s d = none := by
  refine ((if_neg (by omega)).trans (if_neg fun hh => Nat.not_le.mpr hm hh.2)).trans ((if_neg fun hh => hnear hh.2).trans ?_)
  rw [hf]
  exact if_neg fun hh => Nat.not_le.mpr hroom hh.2

end

/-- CANCEL and LOCK_PROFILES pass every check (R139). -/
theorem refusal_unfiled (hk : r.kind.toNat = 10 ∨ r.kind.toNat = 11) : r.refusal s d = none ∧ r.action = none := by
  rcases hk with hk | hk <;> simp [Record.refusal, Record.action, Record.paramFault, namesChannel, hk]

/-! ### Filing (R140, R143) -/

/-- A filed entry stands after every entry whose due is at or before its own, and before the rest. -/
theorem insertEntry_split (e : Entry) (table : List Entry) :
    ∃ front back, table = front ++ back ∧ insertEntry e table = front ++ e :: back ∧
      (∀ x ∈ front, atOrBefore x.due e.due = true) ∧ ∀ x, back.head? = some x → atOrBefore x.due e.due = false := by
  induction table with
  | nil => exact ⟨[], [], rfl, rfl, by simp, by simp⟩
  | cons x xs ih =>
    by_cases hx : atOrBefore x.due e.due = true
    · obtain ⟨front, back, htable, hinsert, hfront, hback⟩ := ih
      refine ⟨x :: front, back, by rw [htable]; rfl, by simp [insertEntry, hx, hinsert], ?_, hback⟩
      rintro y (_ | ⟨_, hy⟩)
      · exact hx
      · exact hfront y hy
    · refine ⟨[], x :: xs, rfl, by simp [insertEntry, hx], by simp, ?_⟩
      rintro y ⟨⟩
      simpa using hx

/-! ### A refused record -/

/-- A record's step that only completes the record. -/
theorem step_completes {code : Code} {result : Word} (h : s.StepsRecord r d n)
    (hr : recordStep r d s = .ok () (s.completing r.addr code d result r.notify)) :
    ∃ t, step s = .next t ∧ t = { s with intake := intakeAfter d n, notice := s.notice || r.notify, mem := t.mem } ∧
      CompletedIn t r.addr code d result ∧ KeepsBytesBut s t (completionBytes r.addr) := by
  refine ⟨_, step_record h hr, ?_, memCompleted_memWithCompletion _ _ _ _ _, memKeeps_memWithCompletion _ _ _ _ _⟩
  simp only [State.completing, State.setIntake, State.setNotice, State.setMem]

theorem step_refuses_record {code : Code} {result : Word} (h : s.StepsRecord r d n) (hr : r.refusal s d = some (code, result)) :
    ∃ t, step s = .next t ∧ t = { s with intake := intakeAfter d n, notice := s.notice || r.notify, mem := t.mem } ∧
      CompletedIn t r.addr code d result ∧ KeepsBytesBut s t (completionBytes r.addr) := by
  have hbus : s.bus = [] := h.2.2.2.1
  refine step_completes h ?_
  simp [recordStep, hr, complete_eq _ _ _ _ _ hbus]

end

end Sys2Proof.Machine

namespace Sys2Proof

open Sys2Proof.Machine

/-- Settles O34. -/
theorem lookTakesOrFaults : Obligations.LookTakesOrFaults := by
  intro s read n hpending hengine hbus hintake d a sound
  have ha : s.candidateAddr = a := rfl
  have hunit := intakeUnit_look hintake
  rw [step_intake hpending hengine hintake, settle, hunit]
  refine ⟨fun h => ?_, fun hz hbad => ?_, fun hz hgood howner => ?_⟩
  · have hlook := look_ends hbus h
    simp only [intakeLook, work_bind, hlook, closeIntake, update_apply]
    rfl
  · have hlook := look_faults hbus hz hbad
    simp only [intakeLook, work_bind, hlook, addressFault_detail, State.raise]
    rfl
  · have hlook := look_takes hbus hz hgood howner
    simp only [intakeLook, work_bind, hlook, update_apply, State.setIntake]
    refine ⟨_, recordAt s.mem a, rfl, rfl, rfl, rfl, rfl, rfl, rfl, rfl, rfl, fun i hi => ?_, ?_, ?_⟩
    · exact flatMap_wordBytes_getD _ _ 7 i (by omega)
    · exact readByte_writeBytes_one s.mem (s.candidateAddr.toNat + 4) 2
    · exact memKeeps_writeBytes s.mem (s.candidateAddr.toNat + 4) [2]

/-- Settles O35. -/
theorem recordFiledInOrder : Obligations.RecordFiledInOrder := by
  intro s r d n action h hstands hm hdue hroom
  obtain ⟨hk, hparam, haction⟩ := standsFor_sound hstands
  have hnone : r.refusal s d = none := refusal_passes hk hm (fun hh => by have := hdue hh.1; omega) hparam hroom
  obtain ⟨front, back, htable, hinsert, hfront, hback⟩ := insertEntry_split (r.entry d action) s.table
  have hrecord : recordStep r d s = .ok () (s.setTable (insertEntry (r.entry d action) s.table)) := by
    simp [recordStep, hnone, haction]
  refine ⟨_, r.entry d action, front, back, step_record h hrecord, ?_, rfl, htable, hinsert, hfront, hback⟩
  simp only [State.setIntake, State.setTable]

/-- Settles O36. -/
theorem recordRefused : Obligations.RecordRefused := by
  intro s r d n h refused kind byte far
  refine ⟨fun hk => step_refuses_record h (refusal_badKind hk), fun h1 h9 => ?_⟩
  have hk : 1 ≤ r.kind.toNat ∧ r.kind.toNat ≤ 9 := ⟨h1, h9⟩
  refine ⟨fun hm => step_refuses_record h (refusal_badChannel hk hm), fun hm hfar => step_refuses_record h (refusal_far hk hm hfar),
    fun hm hnear => ?_⟩
  have hfault : ∀ offset, r.paramFault = some offset → refused .range (BitVec.ofNat 32 offset) := fun offset hf =>
    step_refuses_record h (refusal_param hk hm hnear hf)
  refine ⟨fun hk1 hbad => ?_, fun hk6 hbad => ?_, fun hk6 h0 hbad => ?_, fun hk6 h0 h1 hbad => ?_, fun hk7 hbad => ?_,
    fun hk7 hmask i hi hf hbefore => ?_, fun hk89 hbad => ?_, fun action e back hstands htable hfull => ?_⟩
  · refine hfault 0 ?_
    have hnot : ¬ (4 ≤ r.param 0 ∧ r.param 0 ≤ 64) := fun hh => by rcases hbad with hb | hb <;> exact absurd hb (by simp only [byte, Record.param] at *; omega)
    simp only [Record.paramFault, show r.kind.toNat = 1 from hk1, if_neg hnot]
  · refine hfault 0 ?_
    simp only [Record.paramFault, show r.kind.toNat = 6 from hk6, if_pos (show 3 ≤ r.param 0 from hbad)]
  · refine hfault 1 ?_
    simp only [Record.paramFault, show r.kind.toNat = 6 from hk6, if_neg (show ¬ 3 ≤ r.param 0 from Nat.not_le.mpr h0),
      if_pos (show 64 < r.param 1 from hbad)]
  · refine hfault 2 ?_
    simp only [Record.paramFault, show r.kind.toNat = 6 from hk6, if_neg (show ¬ 3 ≤ r.param 0 from Nat.not_le.mpr h0),
      if_neg (show ¬ 64 < r.param 1 from Nat.not_lt.mpr h1), if_pos (show 2 ≤ r.param 2 from hbad)]
  · refine hfault 0 ?_
    simp only [Record.paramFault, show r.kind.toNat = 7 from hk7, if_pos ((tuning_mask_iff r).mpr hbad)]
  · refine hfault _ ?_
    rw [paramFault_tuning hk7 (not_le.mp fun hh => Nat.not_le.mpr hmask ((tuning_mask_iff r).mp hh)), find_tuningFails_some hi hf hbefore,
      Option.map_some]
  · refine hfault 0 ?_
    have hnot : ¬ r.param 0 ≤ 15 := Nat.not_le.mpr hbad
    rcases hk89 with hk8 | hk9
    · simp only [Record.paramFault, show r.kind.toNat = 8 from hk8, if_neg hnot]
    · simp only [Record.paramFault, show r.kind.toNat = 9 from hk9, if_neg hnot]
  · exact step_refuses_record h (refusal_full hk hm hnear (standsFor_sound hstands).2.1 htable hfull)

/-- Settles O37. -/
theorem cancelAndLockComplete : Obligations.CancelAndLockComplete := by
  intro s r d n h
  have hbus : s.bus = [] := h.2.2.2.1
  have hraddr : r.addr.toNat % 64 = 0 := h.2.2.2.2
  refine ⟨fun e hk hfind haddr hne => ?_, fun hk hfind => ?_, fun hk => ?_⟩
  · have hk' : r.kind.toNat = 10 := by rw [hk]; rfl
    obtain ⟨hnone, haction⟩ := refusal_unfiled (s := s) (d := d) (.inl hk')
    have hbus' : ((s.completing e.addr .cancelled d 0 e.notify).setTable (s.table.erase e)).bus = [] := hbus
    have hrecord : recordStep r d s = .ok () (((s.completing e.addr .cancelled d 0 e.notify).setTable (s.table.erase e)).completing
        r.addr .ok d e.due r.notify) := by
      simp only [recordStep, work_bind, getState_apply, hnone, haction, if_pos hk', cancelStep, hfind, complete_eq _ _ _ _ _ hbus,
        update_apply]
      exact complete_eq _ _ _ _ _ hbus'
    refine ⟨_, step_record h hrecord, ?_, ?_, memCompleted_memWithCompletion _ _ _ _ _,
      (memKeeps_memWithCompletion _ _ _ _ _).trans (memKeeps_memWithCompletion _ _ _ _ _)⟩
    · simp only [State.completing, State.setIntake, State.setNotice, State.setMem, State.setTable]
    · exact (memCompleted_memWithCompletion _ _ _ _ _).kept (memKeeps_memWithCompletion _ _ _ _ _)
        (apart_completionBytes (apart_of_aligned haddr hraddr hne))
  · have hk' : r.kind.toNat = 10 := by rw [hk]; rfl
    obtain ⟨hnone, haction⟩ := refusal_unfiled (s := s) (d := d) (.inl hk')
    refine step_completes h ?_
    simp only [recordStep, work_bind, getState_apply, hnone, haction, if_pos hk', cancelStep, hfind]
    exact complete_eq _ _ _ _ _ hbus
  · have hk' : r.kind.toNat = 11 := by rw [hk]; rfl
    obtain ⟨hnone, haction⟩ := refusal_unfiled (s := s) (d := d) (.inr hk')
    have hresult : BitVec.ofNat 32 s.lock.toNat = if s.lock then 1 else 0 := by cases s.lock <;> rfl
    have hbus' : ({ s with lock := true } : State).bus = [] := hbus
    have hrecord : recordStep r d s = .ok () (({ s with lock := true } : State).completing r.addr .ok d (if s.lock then 1 else 0) r.notify) := by
      have hnot : ¬ r.kind.toNat = 10 := by omega
      simp only [recordStep, work_bind, getState_apply, hnone, haction, if_neg hnot, lockStep, update_apply, hresult]
      exact complete_eq _ _ _ _ _ hbus'
    refine ⟨_, step_record h hrecord, ?_, memCompleted_memWithCompletion _ _ _ _ _, memKeeps_memWithCompletion _ _ _ _ _⟩
    simp only [State.completing, State.setIntake, State.setNotice, State.setMem]

end Sys2Proof
end

section
/-! START and START_STEPPED (R181): the page's read, the checks in their order, and the state a START that passes leaves. -/

namespace Sys2Proof.Machine

/-! ### The page's read -/

section
variable {s : State}

theorem readPage_quiet (hbus : s.bus = []) : readPage s = .ok s.page s := by
  have hfields : memWords s.mem (s.pageField 0) 14 = (List.range 14).map (fun i => memWord s.mem (s.xbase.toNat + 4 * i)) :=
    memWords_eq_map _ _ _
  simp only [readPage, work_bind, getState_apply, withFault, readWords_quiet _ _ _ hbus, readWord_quiet _ _ hbus, work_pure, hfields]
  rfl

/-- The only failure to come is that of a read of the word at `b`. -/
def State.FailsReadAt (s : State) (b : Nat) : Prop :=
  s.bus = [{ write := false, addr := b, passes := 0 }]

theorem readWord_failsAt {b a : Nat} (h : s.FailsReadAt b) (ha : wordAddress a = b) :
    ∃ f, readWord a s = .error f s := by
  refine ⟨addressFault .busError (wordAddress a), ?_⟩
  have hbus : s.bus = _ := h
  simp [readWord, busAccess, hbus, busAnswer, ha]

theorem readWord_passes {b a : Nat} (h : s.FailsReadAt b) (ha : wordAddress a ≠ b) :
    readWord a s = .ok (memWord s.mem a) s := by
  have hbus : s.bus = _ := h
  have hne : ¬ b = wordAddress a := fun he => ha he.symm
  have hset : s.setBus [{ write := false, addr := b, passes := 0 }] = s := by rw [← hbus]; rfl
  simp [readWord, busAccess, hbus, busAnswer, hne, hset]

theorem readWords_passes {b : Nat} (h : s.FailsReadAt b) (n a : Nat) (ha : ∀ i < n, wordAddress (a + 4 * i) ≠ b) :
    ∃ ws, readWords a n s = .ok ws s := by
  induction n generalizing a with
  | zero => exact ⟨[], rfl⟩
  | succ n ih =>
    obtain ⟨ws, hws⟩ := ih (a + 4) fun i hi => by
      have := ha (i + 1) (by omega)
      rwa [show a + 4 * (i + 1) = a + 4 + 4 * i by omega] at this
    exact ⟨memWord s.mem a :: ws, by simp only [readWords, work_bind, readWord_passes h (by simpa using ha 0 (by omega)), hws, work_pure]⟩

theorem readWords_failsAt {b : Nat} (h : s.FailsReadAt b) (n a i : Nat) (hi : i < n) (ha : wordAddress (a + 4 * i) = b) :
    ∃ f, readWords a n s = .error f s := by
  induction n generalizing a i with
  | zero => omega
  | succ n ih =>
    by_cases hfirst : wordAddress a = b
    · obtain ⟨f, hf⟩ := readWord_failsAt h hfirst
      exact ⟨f, by simp only [readWords, work_bind, hf]⟩
    · cases i with
      | zero => exact absurd (by simpa using ha) hfirst
      | succ i =>
        obtain ⟨f, hf⟩ := ih (a + 4) i (by omega) (by rwa [show a + 4 + 4 * i = a + 4 * (i + 1) by omega])
        exact ⟨f, by simp only [readWords, work_bind, readWord_passes h hfirst, hf]⟩

theorem wordAddress_page {k : Nat} (halign : s.xbase.toNat % 128 = 0) (hk : k < 32) :
    wordAddress (s.xbase.toNat + 4 * k) = s.xbase.toNat + 4 * k := by
  have := s.xbase.isLt
  unfold wordAddress cellOf
  omega

/-- A failing read of the page raises BUS_ERROR with the page's address (R181). -/
theorem readPage_fails {k : Nat} (halign : s.xbase.toNat % 128 = 0) (hk : k < 14 ∨ k = 16)
    (h : s.FailsReadAt (s.xbase.toNat + 4 * k)) : readPage s = .error (addressFault .busError s.xbase.toNat) s := by
  rcases hk with hk | rfl
  · obtain ⟨f, hf⟩ := readWords_failsAt h 14 (s.pageField 0) k hk (wordAddress_page halign (by omega))
    simp only [readPage, work_bind, getState_apply, withFault, hf]
  · obtain ⟨ws, hws⟩ := readWords_passes h 14 (s.pageField 0) fun i hi he => by
      have := (wordAddress_page halign (by omega)).symm.trans he
      omega
    obtain ⟨f, hf⟩ := readWord_failsAt h (a := s.pageField 0x40) (wordAddress_page (k := 16) halign (by omega))
    simp only [readPage, work_bind, getState_apply, withFault, hws, hf]

end

/-! ### The GEOMETRY checks (R181) -/

section
variable {s : State} {p : Page}

theorem micsTooFew_iff (s : State) (m : Nat) : s.micsTooFew m = true ↔ ¬ ∀ c < 16, m ≤ c → (s.chan c).state = .off := by
  simp [State.micsTooFew]

theorem geometryFault_slots (h : ¬ (2 ≤ p.nat 1 ∧ p.nat 1 ≤ 32)) : geometryFault s p = some (fieldFault 1) :=
  if_pos (by omega)

section
variable (hslots : 2 ≤ p.nat 1 ∧ p.nat 1 ≤ 32)
include hslots

theorem geometryFault_mics (h : ¬ (1 ≤ p.nat 3 ∧ p.nat 3 ≤ 16 ∧ ∀ c < 16, p.nat 3 ≤ c → (s.chan c).state = .off)) :
    geometryFault s p = some (fieldFault 3) :=
  (if_neg (by omega)).trans (if_pos (by
    rw [micsTooFew_iff]
    by_contra hall
    simp only [not_or, not_not, not_lt] at hall
    exact h hall))

variable (hmics : 1 ≤ p.nat 3 ∧ p.nat 3 ≤ 16 ∧ ∀ c < 16, p.nat 3 ≤ c → (s.chan c).state = .off)
include hmics

omit hslots in
theorem not_mics : ¬ (p.nat 3 < 1 ∨ 16 < p.nat 3 ∨ s.micsTooFew (p.nat 3) = true) := by
  rw [micsTooFew_iff]
  rintro (h | h | h)
  · omega
  · omega
  · exact h hmics.2.2

theorem geometryFault_refs (h : ¬ (1 ≤ p.nat 4 ∧ p.nat 4 ≤ 4 ∧ (s.alloc ≠ [] → p.nat 4 = s.geo.refs))) :
    geometryFault s p = some (fieldFault 4) :=
  ((if_neg (by omega)).trans (if_neg (not_mics hmics))).trans (if_pos (by
    by_contra hall
    simp only [not_or, not_and, not_not, not_lt] at hall
    exact h ⟨hall.1, hall.2.1, fun hne => by_contra fun hr => hne (hall.2.2 hr)⟩))

variable (hrefs : 1 ≤ p.nat 4 ∧ p.nat 4 ≤ 4 ∧ (s.alloc ≠ [] → p.nat 4 = s.geo.refs))
include hrefs

omit hslots hmics in
theorem not_refs : ¬ (p.nat 4 < 1 ∨ 4 < p.nat 4 ∨ (p.nat 4 ≠ s.geo.refs ∧ s.alloc ≠ [])) := by
  rintro (h | h | ⟨hne, halloc⟩)
  · omega
  · omega
  · exact hne (hrefs.2.2 halloc)

theorem geometryFault_stride (h : ¬ (64 + 512 * p.nat 4 + 1024 * p.nat 3 + 64 + 32 * p.nat 3 ≤ p.nat 2 ∧ p.nat 2 % 16 = 0)) :
    geometryFault s p = some (fieldFault 2) :=
  (((if_neg (by omega)).trans (if_neg (not_mics hmics))).trans (if_neg (not_refs hrefs))).trans (if_pos (by
    unfold slotSize
    omega))

variable (hstride : 64 + 512 * p.nat 4 + 1024 * p.nat 3 + 64 + 32 * p.nat 3 ≤ p.nat 2 ∧ p.nat 2 % 16 = 0)
include hstride

/-- With checks 2 to 5 passed, the rest of the GEOMETRY checks decide. -/
theorem geometryFault_rest : geometryFault s p = if p.nat 1 - 1 < p.nat 5 then some (fieldFault 5)
    else if 16 < p.nat 11 then some (fieldFault 11)
    else if p.nat 13 ≤ p.nat 12 then some (fieldFault 13)
    else none :=
  (((if_neg (by omega)).trans (if_neg (not_mics hmics))).trans (if_neg (not_refs hrefs))).trans (if_neg (by
    unfold slotSize
    omega))

end

theorem geometryFault_none (h : p.GeometryPasses s) : geometryFault s p = none := by
  obtain ⟨hslots, hmics, hrefs, hstride, hlatency, hdirectory, hwindow⟩ := h
  rw [geometryFault_rest hslots hmics hrefs hstride, if_neg (by omega), if_neg (by omega), if_neg (by omega)]

/-! ### The WINDOW checks (R181) -/

theorem heldOutside_eq (s : State) (p : Page) :
    s.heldOutside p = (s.heldStructures.find? (fun x => !p.inside x.1.toNat x.2)).map Prod.fst := by
  have hrecords : ∀ l : List Word, ((l.map (fun a => (a, 64))).find? (fun x : Word × Nat => !p.inside x.1.toNat x.2)).map Prod.fst =
      l.find? (fun a => !p.inside a.toNat 64) := by
    intro l
    induction l with
    | nil => rfl
    | cons a l ih =>
      cases h : p.inside a.toNat 64
      · simp [h]
      · simpa [h] using ih
  have hsplit : s.heldStructures = s.heldRecords.map (fun a => (a, 64)) ++
      s.transfer.toList.map (fun u => (u.slotAddr, 64 + u.capacity * 1032)) := by
    cases ht : s.transfer <;> simp [State.heldStructures, State.heldRecords, ht]
  rw [hsplit, List.find?_append, State.heldOutside]
  have hfirst := hrecords s.heldRecords
  cases hfind : (s.heldRecords.map (fun a => (a, 64))).find? (fun x : Word × Nat => !p.inside x.1.toNat x.2) with
  | some x =>
    rw [hfind, Option.map_some] at hfirst
    simp [← hfirst]
  | none =>
    rw [hfind, Option.map_none] at hfirst
    rw [← hfirst]
    cases ht : s.transfer with
    | none => simp
    | some u =>
      have hbytes : profileBytes u.capacity = 64 + u.capacity * 1032 := rfl
      cases hin : p.inside u.slotAddr.toNat (64 + u.capacity * 1032) <;> simp [hbytes, hin]

theorem heldOutside_some {front back : List (Word × Nat)} {a : Word} {n : Nat} (h : s.heldStructures = front ++ (a, n) :: back)
    (hfront : ∀ x ∈ front, p.inside x.1.toNat x.2 = true) (hout : p.inside a.toNat n = false) : s.heldOutside p = some a := by
  have hnone : front.find? (fun x => !p.inside x.1.toNat x.2) = none := by
    rw [List.find?_eq_none]
    intro x hx
    simp [hfront x hx]
  rw [heldOutside_eq, h, List.find?_append, hnone]
  simp [hout]

theorem heldOutside_none (hanchor : ∀ a, s.anchor = some a → p.inside a.toNat 64 = true)
    (htable : ∀ e ∈ s.table, p.inside e.addr.toNat 64 = true)
    (htransfer : ∀ t, s.transfer = some t → p.inside t.cmd.toNat 64 = true ∧ p.inside t.slotAddr.toNat (profileBytes t.capacity) = true) :
    s.heldOutside p = none := by
  have hrecords : s.heldRecords.find? (fun a => !p.inside a.toNat 64) = none := by
    rw [List.find?_eq_none]
    intro a ha
    simp only [State.heldRecords, List.mem_append, Option.mem_toList, List.mem_map] at ha
    rcases ha with (ha | ⟨e, he, rfl⟩) | ⟨t, ht, rfl⟩
    · simp [hanchor a ha]
    · simp [htable e he]
    · simp [(htransfer t ht).1]
  unfold State.heldOutside
  rw [hrecords]
  cases ht : s.transfer with
  | none => rfl
  | some t => simp [(htransfer t ht).2]

section
variable (hpage : p.inside s.xbase.toNat 128 = true)
include hpage

theorem pointerFault_ring (h : ¬ (p.nat 0 % 16 = 0 ∧ p.inside (p.nat 0) (p.nat 1 * p.nat 2) = true)) :
    pointerFault s p = some (windowFault (p.field 0)) :=
  (if_neg (by simp [hpage])).trans (if_pos (by
    by_contra hall
    simp only [not_or, not_not, Bool.not_eq_false] at hall
    exact h hall))

variable (hring : p.nat 0 % 16 = 0 ∧ p.inside (p.nat 0) (p.nat 1 * p.nat 2) = true)
include hring

omit hpage in
theorem not_ring : ¬ (p.nat 0 % 16 ≠ 0 ∨ p.inside (p.nat 0) (p.nat 1 * p.nat 2) = false) := by
  simp [hring]

theorem pointerFault_directory (h : ¬ (0 < p.nat 11 → p.nat 10 % 16 = 0 ∧ p.inside (p.nat 10) (p.nat 11 * 16) = true)) :
    pointerFault s p = some (windowFault (p.field 10)) :=
  ((if_neg (by simp [hpage])).trans (if_neg (not_ring hring))).trans (if_pos (by
    by_contra hall
    simp only [not_and, not_or, not_not, Bool.not_eq_false] at hall
    exact h hall))

variable (hdirectory : 0 < p.nat 11 → p.nat 10 % 16 = 0 ∧ p.inside (p.nat 10) (p.nat 11 * 16) = true)
include hdirectory

omit hpage hring in
theorem not_directory : ¬ (0 < p.nat 11 ∧ (p.nat 10 % 16 ≠ 0 ∨ p.inside (p.nat 10) (p.nat 11 * 16) = false)) := by
  rintro ⟨hlt, h⟩
  obtain ⟨h1, h2⟩ := hdirectory hlt
  simp [h1, h2] at h

theorem pointerFault_first (h : ¬ (s.anchor = none → p.field 9 ≠ 0 → p.nat 9 % 64 = 0 ∧ p.inside (p.nat 9) 64 = true)) :
    pointerFault s p = some (windowFault (p.field 9)) :=
  (((if_neg (by simp [hpage])).trans (if_neg (not_ring hring))).trans (if_neg (not_directory hdirectory))).trans
    (if_pos (by
      by_contra hall
      simp only [not_and, not_or, not_not, Bool.not_eq_false] at hall
      exact h hall))

variable (hfirst : s.anchor = none → p.field 9 ≠ 0 → p.nat 9 % 64 = 0 ∧ p.inside (p.nat 9) 64 = true)
include hfirst

theorem pointerFault_held : pointerFault s p = (s.heldOutside p).map windowFault :=
  (((if_neg (by simp [hpage])).trans (if_neg (not_ring hring))).trans (if_neg (not_directory hdirectory))).trans
    (if_neg (by
      rintro ⟨hanchor, hne, h⟩
      obtain ⟨h1, h2⟩ := hfirst hanchor hne
      simp [h1, h2] at h))

end

theorem pointerFault_none (h : p.PointersPass s) : pointerFault s p = none := by
  obtain ⟨hpage, hring, hdirectory, hfirst, hanchor, htable, htransfer⟩ := h
  rw [pointerFault_held hpage hring hdirectory hfirst, heldOutside_none hanchor htable htransfer]
  rfl

end

/-! ### START as taken -/

section
variable {s : State}

theorem exec_start_halted (h : s.engine = .halted) : exec .start s = .next (settle (startWork .running) s.heed) := by
  simp [exec, execStart, State.attempt, State.takes, State.act, h]

theorem exec_startStepped_halted (h : s.engine = .halted) : exec .startStepped s = .next (settle (startWork .stepWait) s.heed) := by
  simp [exec, execStartStepped, State.attempt, State.takes, State.act, h]

/-- START and START_STEPPED whose checks raise a fault. -/
theorem start_faults {code : FaultCode} {detail : BitVec 30} (h : s.engine = .halted)
    (hwork : ∀ enters, startWork enters s.heed = .error { code := code, detail := detail } s.heed) : StartFaults s code detail := by
  refine ⟨_, exec_start_halted h, ?_, ?_⟩
  · rw [exec_startStepped_halted h, settle, hwork, settle, hwork]
  · rw [settle, hwork]
    rfl

theorem startWork_misaligned (enters : EngineState) (h : s.xbase.toNat % 128 ≠ 0) :
    startWork enters s = .error (windowFault s.xbase) s := by
  simp [startWork, h]

theorem startWork_fails {f : EngineFault} (enters : EngineState) (halign : s.xbase.toNat % 128 = 0) (hbus : s.bus = [])
    (hf : startFault s s.page = some f) : startWork enters s = .error f s := by
  simp [startWork, halign, readPage_quiet hbus, hf]

theorem start_fails {f : EngineFault} (h : s.engine = .halted) (halign : s.xbase.toNat % 128 = 0) (hbus : s.bus = [])
    (hf : startFault s s.page = some f) : StartFaults s f.code f.detail :=
  start_faults h fun enters => startWork_fails (s := s.heed) enters halign hbus hf

theorem start_fails_geometry {i : Nat} (h : s.engine = .halted) (halign : s.xbase.toNat % 128 = 0) (hbus : s.bus = [])
    (hf : geometryFault s s.page = some (fieldFault i)) : StartFaults s .geometry (BitVec.ofNat 30 i) :=
  start_fails h halign hbus (f := fieldFault i) (by simp [startFault, hf])

theorem start_fails_window {a : Word} (h : s.engine = .halted) (halign : s.xbase.toNat % 128 = 0) (hbus : s.bus = [])
    (hg : s.page.GeometryPasses s) (hf : pointerFault s s.page = some (windowFault a)) : StartFaults s .window (a.extractLsb' 2 30) := by
  have hfault : startFault s s.page = some (windowFault a) := by simp [startFault, geometryFault_none hg, hf]
  have := start_fails h halign hbus hfault
  rwa [windowFault, addressFault_detail] at this

/-! ### A START that passes -/

theorem clamp_eq_max_min {lo hi : Int} (h : lo ≤ hi) (v : Int) : clamp v lo hi = max lo (min hi v) := by
  unfold clamp
  omega

theorem page_geometry_eq (p : Page) : p.geometry =
    { ringBase := p.field 0, slotCount := p.nat 1, stride := p.nat 2, mics := p.nat 3, refs := p.nat 4,
      latency := if p.nat 5 = 0 then p.nat 1 - 1 else p.nat 5, tFe := max (-400) (min (-40) (p.field 6).toInt),
      farHold := max 0 (min 64 (p.field 7).toInt), tRes := max (-400) (min 0 (p.field 8).toInt), firstCmd := p.field 9,
      dirAddr := p.field 10, dirCount := p.nat 11, winBase := p.field 12, winLimit := p.field 13 } := by
  simp [Page.geometry, latencyOf, clamp_eq_max_min]

/-- Shared memory after a START has written T and the four totals (R168). -/
def State.startedMem (s : State) : List Host.Cell :=
  memWithWords (writeBytes s.mem (s.pageField 0x3C) (wordBytes s.page.done)) (s.pageField 0x44)
    [s.idleTotal, s.overloadTotal, s.dropTotal, s.gapTotal]

/-- The state that the five steps of a START leave, a ready end not yet taken (R181). -/
def State.started (s : State) (enters : EngineState) : State :=
  { s with
    engine := enters
    taken := s.page.done
    done := s.page.done
    geo := s.page.geometry
    history := .cleared
    tickPending := false
    pendIdle := 0
    pendOverload := 0
    pendDropped := 0
    pendGap := 0
    stepResult := .none
    transfer := s.transfer.map Transfer.resumed
    mem := s.startedMem }

theorem startWork_passes (enters : EngineState) (halign : s.xbase.toNat % 128 = 0) (hbus : s.bus = []) (hf : startFault s s.page = none) :
    startWork enters s = takeReadyEnd (s.started enters) := by
  have hbus' : (s.startWith s.page).bus = [] := hbus
  have hnot : ¬ s.xbase.toNat % 128 ≠ 0 := not_not.mpr halign
  simp only [startWork, work_bind, getState_apply, if_neg hnot, readPage_quiet hbus, hf, update_apply]
  simp only [writeTaken, writeIdleTotal, writeOverloadTotal, writeDropTotal, writeGapTotal, work_bind, getState_apply,
    writeWord_quiet _ _ _ hbus', State.setMem_bus, hbus', writeWord_quiet, State.setMem_mem, State.pageField, State.setMem_xbase,
    State.setMem_idleTotal, State.setMem_overloadTotal, State.setMem_dropTotal, State.setMem_gapTotal]
  refine congrArg takeReadyEnd ?_
  simp only [State.started, State.startedMem, State.startWith, State.resumeMover, State.setEngine, State.setMem, State.setTransfer,
    memWithWords, State.pageField]

theorem startedMem_spec (s : State) :
    memWord s.startedMem (s.pageField 0x3C) = s.page.done ∧ memWord s.startedMem (s.pageField 0x44) = s.idleTotal ∧
      memWord s.startedMem (s.pageField 0x48) = s.overloadTotal ∧ memWord s.startedMem (s.pageField 0x4C) = s.dropTotal ∧
      memWord s.startedMem (s.pageField 0x50) = s.gapTotal ∧
      MemKeeps s.mem s.startedMem [(s.pageField 0x3C, 4), (s.pageField 0x44, 16)] := by
  have htotals := memKeeps_memWithWords (writeBytes s.mem (s.pageField 0x3C) (wordBytes s.page.done)) (s.pageField 0x44)
    [s.idleTotal, s.overloadTotal, s.dropTotal, s.gapTotal]
  have hread := memWord_memWithWords (writeBytes s.mem (s.pageField 0x3C) (wordBytes s.page.done)) (s.pageField 0x44)
    [s.idleTotal, s.overloadTotal, s.dropTotal, s.gapTotal] (by simp)
  refine ⟨?_, hread 0 (by simp), hread 1 (by simp), hread 2 (by simp), hread 3 (by simp), (memKeeps_writeWord _ _ _).trans htotals⟩
  rw [State.startedMem, htotals.word, memWord_writeBytes_wordBytes]
  intro r hr
  obtain rfl := List.mem_singleton.mp hr
  simp only [State.pageField, List.length_cons, List.length_nil]
  exact apart_of_le (by omega) (by omega)

theorem startedFrom_started (s : State) (enters : EngineState) : StartedFrom s (s.heed.started enters) enters := by
  obtain ⟨htaken, hidle, hoverload, hdrop, hgap, hkeeps⟩ := startedMem_spec s
  refine ⟨?_, htaken, hidle, hoverload, hdrop, hgap, hkeeps⟩
  simp only [State.started, page_geometry_eq, State.heed]
  rfl

theorem resumed_endReady (u : Transfer) : u.resumed.endReady = u.endReady := rfl

theorem started_noEndReady (enters : EngineState) (h : s.NoEndReady) : (s.started enters).NoEndReady := by
  intro v hv
  obtain ⟨u, hu, rfl⟩ := Option.map_eq_some_iff.mp hv
  exact (resumed_endReady u).trans (h u hu)

theorem start_passes (h : s.engine = .halted) (halign : s.xbase.toNat % 128 = 0) (hbus : s.bus = [])
    (hg : s.page.GeometryPasses s) (hp : s.page.PointersPass s) :
    exec .start s = .next (settle takeReadyEnd (s.heed.started .running)) ∧
      exec .startStepped s = .next (settle takeReadyEnd (s.heed.started .stepWait)) := by
  have hf : startFault s.heed s.heed.page = none := by
    have hgeometry : geometryFault s.heed s.heed.page = none := geometryFault_none hg
    have hpointer : pointerFault s.heed s.heed.page = none := pointerFault_none hp
    simp [startFault, hgeometry, hpointer]
  constructor
  · rw [exec_start_halted h, settle, startWork_passes (s := s.heed) _ halign hbus hf]
    rfl
  · rw [exec_startStepped_halted h, settle, startWork_passes (s := s.heed) _ halign hbus hf]
    rfl

/-- A ready end is taken at once after a START, as from the state in which the mover holds nothing (R161). -/
theorem settle_started_end {v : Transfer} (enters : EngineState) (hbus : s.bus = []) (hv : s.HoldsReadyEnd v) :
    settle takeReadyEnd (s.heed.started enters) = (({ s with transfer := none } : State).heed.started enters).endTaken v := by
  obtain ⟨htransfer, hd, hle, hc, halign⟩ := hv
  have hready : (s.heed.started enters).HoldsReadyEnd v.resumed := by
    refine ⟨?_, hd, hle, hc, halign⟩
    have : s.heed.transfer = some v := htransfer
    show Option.map Transfer.resumed s.heed.transfer = _
    rw [this, Option.map_some]
  rw [settle, takeReadyEnd_ready hready hbus]
  rfl

end

end Sys2Proof.Machine

namespace Sys2Proof

open Sys2Proof.Machine

/-- Settles O7. -/
theorem startEntersRunning : Obligations.StartEntersRunning := by
  intro s hengine hquiet halign hg hp
  obtain ⟨hstart, hstepped⟩ := start_passes hengine halign hquiet hg hp
  refine ⟨fun hnone => ?_, fun v hv => ?_⟩
  · have hnone' : s.heed.NoEndReady := hnone
    refine ⟨_, _, hstart, hstepped, ?_, ?_⟩
    · rw [settle, takeReadyEnd_none (started_noEndReady _ hnone')]
      exact startedFrom_started _ _
    · rw [settle, takeReadyEnd_none (started_noEndReady _ hnone')]
      exact startedFrom_started _ _
  · rw [settle_started_end _ hquiet hv] at hstart hstepped
    exact ⟨_, _, _, _, hstart, hstepped, startedFrom_started { s with transfer := none } _,
      endTakenFrom_endTaken _ hv.2.2.2.1, startedFrom_started { s with transfer := none } _,
      endTakenFrom_endTaken _ hv.2.2.2.1⟩

/-- Settles O8. -/
theorem startGeometryFaults : Obligations.StartGeometryFaults := by
  intro s hengine hquiet halign p slots mics refs stride latency directory window
  have hfails := fun i hf => start_fails_geometry (i := i) hengine halign hquiet hf
  refine ⟨fun h => hfails 1 (geometryFault_slots h), fun hs h => hfails 3 (geometryFault_mics hs h),
    fun hs hm h => hfails 4 (geometryFault_refs hs hm h), fun hs hm hr h => hfails 2 (geometryFault_stride hs hm hr h),
    fun hs hm hr ht h => hfails 5 ?_, fun hs hm hr ht hl h => hfails 11 ?_, fun hs hm hr ht hl hd h => hfails 13 ?_⟩
  · exact (geometryFault_rest hs hm hr ht).trans (if_pos (not_le.mp h))
  · exact ((geometryFault_rest hs hm hr ht).trans (if_neg (not_lt.mpr hl))).trans (if_pos (not_le.mp h))
  · exact (((geometryFault_rest hs hm hr ht).trans (if_neg (not_lt.mpr hl))).trans (if_neg (not_lt.mpr hd))).trans
      (if_pos (not_lt.mp h))

/-- Settles O9. -/
theorem startPointerFaults : Obligations.StartPointerFaults := by
  intro s hengine p page ring directory first
  refine ⟨fun hmis => ?_, fun halign k hk hbus => ?_, fun halign hquiet hg => ?_⟩
  · have := start_faults (code := .window) (detail := s.xbase.extractLsb' 2 30) hengine fun enters => by
      rw [startWork_misaligned (s := s.heed) enters hmis, windowFault, addressFault_detail]
      rfl
    exact this
  · refine start_faults hengine fun enters => ?_
    have halign' : ¬ s.heed.xbase.toNat % 128 ≠ 0 := not_not.mpr halign
    simp only [startWork, work_bind, getState_apply, if_neg halign', readPage_fails (s := s.heed) halign hk hbus, addressFault_detail]
    rfl
  · have hwindow := fun a hf => start_fails_window (a := a) hengine halign hquiet hg hf
    refine ⟨fun h => hwindow _ (if_pos (eq_false_of_ne_true h)), fun hpage h => hwindow _ (pointerFault_ring hpage h),
      fun hpage hring h => hwindow _ (pointerFault_directory hpage hring h),
      fun hpage hring hdirectory h => hwindow _ (pointerFault_first hpage hring hdirectory h),
      fun hpage hring hdirectory hfirst front back a n hheld hfront hout => hwindow _ ?_⟩
    rw [pointerFault_held hpage hring hdirectory hfirst, heldOutside_some hheld hfront hout]
    rfl

end Sys2Proof
end

section
/-! HALT and ABORT (R164, R176, R183): an intake in progress is cut first, then the frame in flight ends, then the transfer. -/

namespace Sys2Proof.Machine

section
variable {s : State} {f : Flight} {u : Transfer}

/-! ### The intake cut (R138, R180) -/

theorem exec_halt (h : s.engine = .running ∨ s.engine = .stepWait) : exec .halt s = .next (afterCut s State.halt) := by
  have htakes : s.takes .halt = true := by simpa [State.takes] using h
  simp [exec, execHalt, State.attempt, State.act, htakes]

theorem exec_abort (h : s.engine = .running ∨ s.engine = .stepWait ∨ s.engine = .draining) :
    exec .abort s = .next (afterCut s (settle abortWork)) := by
  have htakes : s.takes .abort = true := by simpa [State.takes, or_assoc] using h
  simp [exec, execAbort, State.attempt, State.act, htakes]

theorem afterCut_none (act : State → State) (h : s.intake = none) : afterCut s act = act s.heed := by
  simp [afterCut, cutIntake, h]

/-- An intake with no record in hand is dropped. -/
theorem afterCut_waiting (act : State → State) {i : Intake} (h : s.intake = some i) (hi : i.inHand = none) :
    afterCut s act = act (s.setIntake none).heed := by
  simp [afterCut, cutIntake, closeIntake, h, hi]

/-- A record in hand completes its step first; a fault of it comes before the action, which is then ignored. -/
theorem afterCut_inHand (act : State → State) {i : Intake} {r : Record} (h : s.intake = some i) (hi : i.inHand = some r) :
    (∃ t, recordStep r (i.done.getD s.done) s = .ok () t ∧ afterCut s act = act (t.setIntake none).heed) ∨
      ∃ fault t, recordStep r (i.done.getD s.done) s = .error fault t ∧ afterCut s act = (t.raise fault).ignore := by
  cases hstep : recordStep r (i.done.getD s.done) s with
  | ok a t => exact .inl ⟨t, rfl, by simp [afterCut, cutIntake, closeIntake, h, hi, hstep]⟩
  | error fault t => exact .inr ⟨fault, t, rfl, by simp [afterCut, cutIntake, h, hi, hstep]⟩

/-- The block's own progress makes the step of the record in hand. -/
theorem execIdle_inHand {i : Intake} {r : Record} (hw : s.engine = .running ∨ s.engine = .stepWait) (h : s.intake = some i)
    (hi : i.inHand = some r) : execIdle s = .next (settle (intakeStep (i.done.getD s.done) i.taken r) s) := by
  have hworks : s.frameWorks = true := by
    rcases hw with hw | hw
    all_goals simp [State.frameWorks, hw]
  have hprogress : progress s = intakeStep (i.done.getD s.done) i.taken r s := by simp [progress, hw, h, intakeUnit, hi]
  simp [execIdle, hworks, settle, hprogress]

/-- The step of a record, made or faulted; its fault is raised by the progress that makes it. -/
theorem settle_intakeStep_ok {r : Record} {d : Word} {n : Nat} {t : State} (h : recordStep r d s = .ok () t) :
    ∃ i, settle (intakeStep d n r) s = t.setIntake i := by
  by_cases hn : Config.intakeLimit ≤ n
  · exact ⟨none, by simp [settle, intakeStep, closeIntake, h, hn]⟩
  · exact ⟨some { done := some d, taken := n, inHand := none }, by simp [settle, intakeStep, h, hn]⟩

theorem settle_intakeStep_error {r : Record} {d : Word} {n : Nat} {fault : EngineFault} {t : State}
    (h : recordStep r d s = .error fault t) : settle (intakeStep d n r) s = t.raise fault := by
  simp [settle, intakeStep, h]

theorem recordStep_engine {r : Record} {d : Word} {t : State} (h : recordStep r d s = .ok () t) : t.engine = s.engine :=
  (Moves.sameClock ((does_recordStep r d s).ok h).1).engine

/-- HALT and ABORT within an intake act as after it, on the state that its last step leaves (R138). -/
theorem exec_within_intake {i : Intake} {instr : Instr} {act : State → State} (hw : s.engine = .running ∨ s.engine = .stepWait)
    (hexec : ∀ t : State, (t.engine = .running ∨ t.engine = .stepWait) → exec instr t = .next (afterCut t act))
    (h : s.intake = some i) :
    (i.inHand = none → exec instr s = exec instr { s with intake := none }) ∧
      ∀ r t, i.inHand = some r → execIdle s = .next t →
        (t.engine ≠ .faulted → exec instr s = exec instr { t with intake := none }) ∧
          (t.engine = .faulted → exec instr s = .next { t with ignored := true }) := by
  have hrest := fun t ht => hexec t ht
  refine ⟨fun hi => ?_, fun r t hi ht => ?_⟩
  · rw [hexec s hw, hexec { s with intake := none } hw, afterCut_waiting act h hi, afterCut_none act rfl]
    rfl
  · rw [execIdle_inHand hw h hi] at ht
    obtain rfl := Host.Outcome.next.inj ht
    rw [hexec s hw]
    rcases afterCut_inHand act h hi with ⟨t, hstep, hcut⟩ | ⟨fault, t, hstep, hcut⟩
    · obtain ⟨j, hj⟩ := settle_intakeStep_ok (n := i.taken) hstep
      have hengine : t.engine = s.engine := recordStep_engine hstep
      rw [hj, hcut]
      refine ⟨fun _ => ?_, fun hf => ?_⟩
      · rw [hexec { t.setIntake j with intake := none } (by simpa [hengine] using hw), afterCut_none act rfl]
        rfl
      · rw [State.setIntake_engine, hengine] at hf
        simp [hf] at hw
    · rw [settle_intakeStep_error hstep, hcut]
      exact ⟨fun hn => absurd rfl hn, fun _ => rfl⟩

/-! ### The frame's end (R176) -/

/-- Shared memory after ABORT ends frame `f`: status ABORTED, and D at T. -/
def State.frameAbortedMem (s : State) (f : Flight) : List Host.Cell :=
  writeBytes (writeBytes s.mem (s.geo.slotOf f.count + 6) [3#8]) (s.pageField 0x40) (wordBytes s.taken)

/-- The state after ABORT ends frame `f` (R176). -/
def State.frameAborted (s : State) (f : Flight) : State :=
  { s with flight := none, done := s.taken, notice := s.notice || f.event, mem := s.frameAbortedMem f }

theorem abortFrame_quiet (f : Flight) (h : s.bus = []) : abortFrame f s = .ok () (s.frameAborted f) := by
  simp only [abortFrame, writeStatus, writeDone, work_bind, getState_apply, update_apply, noticeIf_apply, writeLanes_quiet _ _ s h,
    State.setMem_taken, State.pageField, State.setMem_xbase]
  rw [writeWord_quiet _ _ _ (by exact h), show statusByte .aborted = 3#8 from rfl]
  simp only [State.frameAborted, State.frameAbortedMem, State.pageField, State.setMem, State.setDone, State.setNotice, State.setFlight]

theorem frameAborted_mem (f : Flight) (h : Apart (s.geo.slotOf f.count + 6) 1 (s.pageField 0x40) 4) :
    readByte (s.frameAborted f).mem (s.geo.slotOf f.count + 6) = 3 ∧ memWord (s.frameAborted f).mem (s.pageField 0x40) = s.taken ∧
      MemKeeps s.mem (s.frameAborted f).mem [(s.geo.slotOf f.count + 6, 1), (s.pageField 0x40, 4)] := by
  have hdone := memKeeps_writeWord (writeBytes s.mem (s.geo.slotOf f.count + 6) [3#8]) (s.pageField 0x40) s.taken
  refine ⟨?_, memWord_writeBytes_wordBytes _ _ _, (memKeeps_writeBytes s.mem _ [3#8]).trans hdone⟩
  refine (hdone.byte fun r hr => ?_).trans (readByte_writeBytes_one _ _ _)
  obtain rfl := List.mem_singleton.mp hr
  exact h

/-- The state in which ABORT has ended the frame in flight, if there is one. -/
def State.frameEnded (s : State) : State :=
  (s.flight.map s.frameAborted).getD s

theorem frameEnded_none (h : s.flight = none) : s.frameEnded = s := by simp [State.frameEnded, h]

theorem frameEnded_some (h : s.flight = some f) : s.frameEnded = s.frameAborted f := by simp [State.frameEnded, h]

/-- What ending the frame changes, whether there is one or not. -/
theorem frameEnded_eq (s : State) :
    s.frameEnded = { s with
      flight := none
      done := if s.flight.isSome then s.taken else s.done
      notice := s.notice || (s.flight.map Flight.event).getD false
      mem := (s.flight.map s.frameAbortedMem).getD s.mem } := by
  unfold State.frameEnded
  cases h : s.flight with
  | none =>
    simp only [Option.map_none, Option.getD_none, Bool.or_false, Option.isSome_none, Bool.false_eq_true, if_false]
    rw [← h]
  | some f => simp [State.frameAborted]

theorem frameEnded_heed (s : State) : s.heed.frameEnded = s.frameEnded.heed := by
  cases h : s.flight with
  | none => rw [frameEnded_none h, frameEnded_none (s := s.heed) h]
  | some f =>
    rw [frameEnded_some h, frameEnded_some (s := s.heed) h]
    simp only [State.frameAborted, State.frameAbortedMem, State.heed, State.pageField]

/-- ABORT ends the frame, then a transfer, then clears tick-pending and enters HALTED (R164, R176, R183). -/
theorem abortWork_none (h : s.bus = []) (hu : s.transfer = none) :
    abortWork s = .ok () (((s.frameEnded.setTickPending false).setStepDue false).setEngine .halted) := by
  cases hf : s.flight with
  | none => simp [abortWork, hf, hu, frameEnded_none hf]
  | some f => simp [abortWork, hf, hu, frameEnded_some hf, abortFrame_quiet f h]

theorem abortWork_some (h : s.bus = []) (hu : s.transfer = some u) {t : State} (hend : endByAbort u s.frameEnded = .ok () t) :
    abortWork s = .ok () (((t.setTickPending false).setStepDue false).setEngine .halted) := by
  cases hf : s.flight with
  | none =>
    rw [frameEnded_none hf] at hend
    simp [abortWork, hf, hu, hend]
  | some f =>
    rw [frameEnded_some hf] at hend
    simp [abortWork, hf, hu, abortFrame_quiet f h, hend]

/-! ### The transfer's end (R164) -/

/-- The channels after ABORT ends transfer `u`. -/
def State.abortedChannels (s : State) (u : Transfer) : Vector Channel 16 :=
  if u.direction = .capture then (s.setChan u.chan { s.chan u.chan with capture := false }).channels
  else (s.setChan u.chan (s.chan u.chan).resetValues).channels

/-- The state after ABORT ends transfer `u` (R164). -/
def State.transferAborted (s : State) (u : Transfer) : State :=
  { s with
    transfer := none
    channels := s.abortedChannels u
    pool := if u.direction = .capture then s.pool else (s.zeroExtent u.chan).pool
    queue := if u.direction = .capture then s.queue else u.chan :: s.queue.filter (fun d => decide (d ≠ u.chan))
    notice := s.notice || u.notify
    mem := abortedMem s.mem u s.done }

theorem endByAbort_eq (u : Transfer) (h : s.bus = []) : endByAbort u s = .ok () (s.transferAborted u) := by
  have hlate : lateCode u.late .aborted = .aborted := lateCode_of_ne (by simp)
  cases hd : u.direction with
  | capture =>
    simp only [endByAbort, hd, endCaptureEarly_quiet u .aborted _ h, hlate, State.transferAborted, State.abortedChannels, if_true,
      abortedMem, State.endCapture, State.modChan_eq, State.completing, State.setNotice, State.setMem, State.setTransfer, State.setChan]
  | restore =>
    have hbus : ((s.resetChannel u.chan).setTransfer none).bus = [] := by rwa [State.setTransfer_bus, resetChannel_eq]
    have hne : ¬ Direction.restore = Direction.capture := by decide
    simp only [endByAbort, hd, work_bind, update_apply]
    rw [completeTransfer_quiet u .aborted _ hbus]
    simp only [hlate, State.transferAborted, hd, State.abortedChannels, if_neg hne, abortedMem, State.completing, State.setNotice,
      State.setMem, State.setTransfer, resetChannel_eq]

/-- A transfer's end by ABORT, in shared memory. -/
theorem abortedMem_spec (m : List Host.Cell) {d : Word} (h : u.direction = .capture → Apart u.slotAddr.toNat 4 u.cmd.toNat 64) :
    (u.direction = .capture → memWord (abortedMem m u d) u.slotAddr.toNat = 3) ∧
      MemCompleted (abortedMem m u d) u.cmd .aborted d (BitVec.ofNat 32 u.progress) ∧
      MemKeeps m (abortedMem m u d) ((if u.direction = .capture then [(u.slotAddr.toNat, 4)] else []) ++ completionBytes u.cmd) := by
  refine ⟨fun hd => ?_, memCompleted_memWithCompletion _ _ _ _ _, MemKeeps.trans ?_ (memKeeps_memWithCompletion _ u.cmd _ _ _)⟩
  · rw [abortedMem, if_pos hd, (memKeeps_memWithCompletion _ u.cmd _ _ _).word (apart_completionBytes (h hd)),
      memWord_writeBytes_wordBytes]
  · split_ifs
    · exact memKeeps_writeWord m _ 3
    · exact MemKeeps.refl m _

/-- The state an ABORT leaves that ends the frame in flight, if there is one, and transfer `u`. -/
def State.allAborted (s : State) (u : Transfer) : State :=
  { s with
    ignored := false
    tickPending := false
    stepDue := false
    engine := .halted
    flight := none
    transfer := none
    done := if s.flight.isSome then s.taken else s.done
    notice := (s.notice || (s.flight.map Flight.event).getD false) || u.notify
    channels := s.abortedChannels u
    pool := if u.direction = .capture then s.pool else (s.zeroExtent u.chan).pool
    queue := if u.direction = .capture then s.queue else u.chan :: s.queue.filter (fun d => decide (d ≠ u.chan))
    mem := abortedMem s.frameEnded.mem u (if s.flight.isSome then s.taken else s.done) }

theorem exec_abort_transfer (hw : s.engine = .running ∨ s.engine = .stepWait ∨ s.engine = .draining) (h : s.bus = [])
    (hi : s.intake = none) (hu : s.transfer = some u) : exec .abort s = .next (s.allAborted u) := by
  have hbus : s.frameEnded.bus = [] := by rw [frameEnded_eq]; exact h
  have hend := endByAbort_eq (s := s.frameEnded.heed) u hbus
  rw [← frameEnded_heed] at hend
  rw [exec_abort hw, afterCut_none _ hi, settle, abortWork_some (s := s.heed) h hu hend, frameEnded_heed]
  simp only [State.transferAborted, State.allAborted, State.abortedChannels, State.zeroExtent, State.zeroSlots, State.extent, State.setPool,
    State.setChan, State.chan, frameEnded_eq, State.heed, State.setTickPending, State.setStepDue, State.setEngine]

/-- The memory of a frame's end: its regions, and what they read as. -/
theorem frameEnded_mem (h : ∀ f, s.flight = some f → Apart (s.geo.slotOf f.count + 6) 1 (s.pageField 0x40) 4) :
    (∀ f, s.flight = some f →
      readByte s.frameEnded.mem (s.geo.slotOf f.count + 6) = 3 ∧ memWord s.frameEnded.mem (s.pageField 0x40) = s.taken) ∧
      MemKeeps s.mem s.frameEnded.mem s.abortRegions := by
  cases hf : s.flight with
  | none =>
    rw [frameEnded_none hf]
    exact ⟨fun f h => by simp at h, MemKeeps.refl _ _⟩
  | some f =>
    obtain ⟨hstatus, hdone, hkeeps⟩ := frameAborted_mem f (h f hf)
    rw [frameEnded_some hf]
    refine ⟨fun g hg => ?_, by simpa [State.abortRegions, hf] using hkeeps⟩
    obtain rfl := Option.some.inj hg
    exact ⟨hstatus, hdone⟩

/-- What the ABORT of a frame and a transfer leaves in shared memory. -/
theorem allAborted_mem (h : ∀ f, s.flight = some f → Apart (s.geo.slotOf f.count + 6) 1 (s.pageField 0x40) 4)
    (hcmd : ∀ r ∈ s.abortRegions, Apart r.1 r.2 u.cmd.toNat 64)
    (hslot : u.direction = .capture →
      Apart u.slotAddr.toNat 4 u.cmd.toNat 64 ∧ ∀ r ∈ s.abortRegions, Apart r.1 r.2 u.slotAddr.toNat 4) :
    (∀ f, s.flight = some f →
      readByte (s.allAborted u).mem (s.geo.slotOf f.count + 6) = 3 ∧ memWord (s.allAborted u).mem (s.pageField 0x40) = s.taken) ∧
      (u.direction = .capture → memWord (s.allAborted u).mem u.slotAddr.toNat = 3) ∧
      MemKeeps s.mem (s.allAborted u).mem
        (s.abortRegions ++ ((if u.direction = .capture then [(u.slotAddr.toNat, 4)] else []) ++ completionBytes u.cmd)) := by
  obtain ⟨hframe, hkept⟩ := frameEnded_mem h
  obtain ⟨hinvalid, -, hkeeps⟩ := abortedMem_spec (u := u) s.frameEnded.mem (d := if s.flight.isSome then s.taken else s.done)
    fun hd => (hslot hd).1
  have hclear : ∀ q ∈ s.abortRegions,
      ∀ r ∈ (if u.direction = .capture then [(u.slotAddr.toNat, 4)] else []) ++ completionBytes u.cmd, Apart q.1 q.2 r.1 r.2 := by
    intro q hq r hr
    rcases List.mem_append.mp hr with hr | hr
    · split_ifs at hr with hd
      · obtain rfl := List.mem_singleton.mp hr
        exact (hslot hd).2 q hq
      · simp at hr
    · exact apart_completionBytes (hcmd q hq) r hr
  refine ⟨fun f hf => ?_, hinvalid, hkept.trans hkeeps⟩
  obtain ⟨hstatus, hdone⟩ := hframe f hf
  have hmem : ∀ q ∈ [(s.geo.slotOf f.count + 6, 1), (s.pageField 0x40, 4)], q ∈ s.abortRegions := by simp [State.abortRegions, hf]
  exact ⟨(hkeeps.byte (hclear (s.geo.slotOf f.count + 6, 1) (hmem _ (by simp)))).trans hstatus, (hkeeps.word (hclear (s.pageField 0x40, 4) (hmem _ (by simp)))).trans hdone⟩

end

end Sys2Proof.Machine

namespace Sys2Proof

open Sys2Proof.Machine

/-- Settles O10. -/
theorem haltAndAbortEndTheFrame : Obligations.HaltAndAbortEndTheFrame := by
  refine ⟨fun s hw hi => ?_, fun s hw hquiet hi hu _ => ⟨fun hf => ?_, fun f hf hapart => ?_⟩, fun s i hw hi => ?_⟩
  · rw [exec_halt hw, afterCut_none _ hi]
    simp only [State.halt, State.frameBusy, State.heed_flight]
    rfl
  · rw [exec_abort hw, afterCut_none _ hi, settle, abortWork_none (by exact hquiet) (by exact hu), frameEnded_none (by exact hf)]
    rfl
  · obtain ⟨hstatus, hdone, hkeeps⟩ := frameAborted_mem f hapart
    refine ⟨{ s.frameAborted f with ignored := false, tickPending := false, stepDue := false, engine := .halted }, ?_, ?_, hstatus, hdone,
      hkeeps⟩
    · rw [exec_abort hw, afterCut_none _ hi, settle, abortWork_none (by exact hquiet) (by exact hu), frameEnded_some (by exact hf)]
      simp only [State.frameAborted, State.frameAbortedMem, State.heed, State.pageField, State.setTickPending, State.setStepDue,
        State.setEngine]
    · simp only [State.frameAborted]
  · obtain ⟨hwait, hhand⟩ := exec_within_intake (instr := .halt) hw (fun t => exec_halt) hi
    obtain ⟨hwait', hhand'⟩ := exec_within_intake (instr := .abort) hw
      (fun t ht => exec_abort (ht.imp_right .inl)) hi
    exact ⟨fun hn => ⟨hwait hn, hwait' hn⟩, fun r t hr ht =>
      ⟨fun hok => ⟨(hhand r t hr ht).1 hok, (hhand' r t hr ht).1 hok⟩, fun hf => ⟨(hhand r t hr ht).2 hf, (hhand' r t hr ht).2 hf⟩⟩⟩

/-- Settles O11. -/
theorem abortEndsTheTransfer : Obligations.AbortEndsTheTransfer := by
  intro s u hw hquiet hi hu hc _ _ hapart hcmd
  have hexec := exec_abort_transfer hw hquiet hi hu
  have hshape : s.allAborted u =
      { s with ignored := false, tickPending := false, stepDue := false, engine := .halted, flight := none, transfer := none,
               done := if s.flight.isSome then s.taken else s.done,
               notice := (s.notice || (s.flight.map Flight.event).getD false) || u.notify, channels := (s.allAborted u).channels,
               pool := (s.allAborted u).pool, queue := (s.allAborted u).queue, mem := (s.allAborted u).mem } := by
    simp only [State.allAborted]
  have hevent : (s.flight.map Flight.event).getD false = (match s.flight with
      | none => false
      | some f => f.event) := by cases s.flight <;> rfl
  rw [hevent] at hshape
  have hcompleted : CompletedIn (s.allAborted u) u.cmd .aborted (if s.flight.isSome then s.taken else s.done)
      (BitVec.ofNat 32 u.progress) := memCompleted_memWithCompletion _ _ _ _ _
  have hother : ∀ c, c ≠ u.chan → (s.allAborted u).chan c = s.chan c := by
    intro c hne
    by_cases hd : u.direction = .capture
    · exact (chan_congr (if_pos hd) c).trans (chan_setChan_other _ _ hne)
    · exact (chan_congr (if_neg hd) c).trans (chan_setChan_other _ _ hne)
  refine ⟨fun hd hslot _ hregions => ?_, fun hd => ?_⟩
  · obtain ⟨hframe, hinvalid, hkeeps⟩ := allAborted_mem hapart hcmd fun _ => ⟨hslot, hregions⟩
    refine ⟨s.allAborted u, ⟨hexec, hshape, hcompleted, hother, hframe⟩, ?_, hinvalid hd, if_pos hd, if_pos hd, ?_⟩
    · exact (chan_congr (if_pos hd) _).trans (chan_setChan_same _ _ hc)
    · simpa [hd, memKeeps_iff] using hkeeps
  · have hne : ¬ u.direction = .capture := by simp [hd]
    obtain ⟨hframe, -, hkeeps⟩ := allAborted_mem hapart hcmd fun h => absurd h hne
    refine ⟨s.allAborted u, ⟨hexec, hshape, hcompleted, hother, hframe⟩, ?_, if_neg hne, fun i => ?_, ?_⟩
    · exact (chan_congr (if_neg hne) _).trans (chan_setChan_same _ _ hc)
    · exact (slot_congr (if_neg hne) i).trans (slot_zeroSlots s _ _ i)
    · simpa [hd, memKeeps_iff] using hkeeps

end Sys2Proof
end

section
/-! The cycle check (R171 to R173) when no access fails: an idle check, a frame taken, a mismatch, a drop; and the gap push it makes of
the history (R20, R23). -/

namespace Sys2Proof.Machine

/-! ### Gap pushes (R20, R23) -/

section
variable {s : State}

theorem pushZeros_succ (ring : List Spectrum) (k : Nat) :
    pushZeros ring (k + 1) = (List.replicate (k + 1) Spectrum.zero ++ ring).take 64 := by
  induction k generalizing ring with
  | zero => rfl
  | succ k ih =>
    have hrep : List.replicate (k + 2) Spectrum.zero ++ ring = List.replicate (k + 1) Spectrum.zero ++ Spectrum.zero :: ring := by
      rw [List.replicate_succ' (n := k + 1), List.append_assoc]
      rfl
    rw [pushZeros, ih, hrep, pushRing, show Config.ringDepth = 64 from rfl, List.take_append, List.take_append, List.take_take,
      Nat.min_eq_left (Nat.sub_le _ _)]

/-- A free rational lies between bounds that are in order. -/
theorem pickRat_mem {lo hi : Rat} (choice : Rat) (h : lo ≤ hi) : lo ≤ pickRat lo hi choice ∧ pickRat lo hi choice ≤ hi := by
  unfold pickRat
  split_ifs with h1 h2 h3
  · exact ⟨le_rfl, h⟩
  · exact ⟨le_rfl, h⟩
  · exact ⟨h, le_rfl⟩
  · exact ⟨not_lt.mp h2, not_lt.mp h3⟩

/-- The power step of a zero spectrum: a sixteenth less, within a relative 2^-24 (R23). -/
theorem powerStep_zero {pw : Rat} (choice : Rat) (h : 0 ≤ pw) :
    pw * (15 / 16 * (1 - 1 / 2 ^ 24)) ≤ powerStep pw (0, 0) choice ∧ powerStep pw (0, 0) choice ≤ pw * (15 / 16 * (1 + 1 / 2 ^ 24)) := by
  have hlo : max 0 ((pw + (0 - pw) / 16) * (1 - 1 / 2 ^ 24)) = pw * (15 / 16 * (1 - 1 / 2 ^ 24)) := by
    rw [max_eq_right (mul_nonneg (by linarith) (by norm_num))]
    ring
  have hhi : max 0 ((pw + (0 - pw) / 16) * (1 + 1 / 2 ^ 24)) = pw * (15 / 16 * (1 + 1 / 2 ^ 24)) := by
    rw [max_eq_right (mul_nonneg (by linarith) (by norm_num))]
    ring
  unfold powerStep
  rw [hlo, hhi]
  exact pickRat_mem _ (mul_le_mul_of_nonneg_left (by norm_num) h)

theorem powerSteps_getD (n : Nat) (power : List Rat) (spectra : List Spectrum) (b : Nat) (h : b < power.length) :
    (powerSteps n power spectra).getD b 0 = powerStep (power.getD b 0) (newPower spectra b) (Config.powerStep n b) := by
  simp [powerSteps, List.getD, h]

theorem powerDecay_bounds (n : Nat) (power : List Rat) (k b : Nat) (h : 0 ≤ power.getD b 0) :
    power.getD b 0 * (15 / 16 * (1 - 1 / 2 ^ 24)) ^ k ≤ (powerDecay n power k).getD b 0 ∧
      (powerDecay n power k).getD b 0 ≤ power.getD b 0 * (15 / 16 * (1 + 1 / 2 ^ 24)) ^ k := by
  induction k generalizing n power with
  | zero => simp [powerDecay]
  | succ k ih =>
    by_cases hb : b < power.length
    · have hstep := powerSteps_getD n power [] b hb
      obtain ⟨hlo, hhi⟩ := powerStep_zero (Config.powerStep n b) h
      have hnext : 0 ≤ (powerSteps n power []).getD b 0 := by
        rw [hstep]
        exact powerStep_nonneg _ _ _
      obtain ⟨hlower, hupper⟩ := ih (n + 1) _ hnext
      rw [hstep, show newPower [] b = (0, 0) from rfl] at hlower hupper
      have hsucc : ∀ q : Rat, power.getD b 0 * q ^ (k + 1) = power.getD b 0 * q * q ^ k := fun q => by ring
      rw [powerDecay, hsucc, hsucc]
      exact ⟨(mul_le_mul_of_nonneg_right hlo (by positivity)).trans hlower, hupper.trans (mul_le_mul_of_nonneg_right hhi (by positivity))⟩
    · have hzero : ∀ l : List Rat, l.length = power.length → l.getD b 0 = 0 := fun l hl =>
        List.getD_eq_default _ _ (by omega)
      rw [hzero _ rfl, hzero _ (powerDecay_length _ _ _)]
      simp

/-- What the model's gap push makes of the history is what R20 and R23 say of it. -/
theorem gapPushed_gapPush (h : History) (refs n k : Nat) : GapPushed h (h.gapPush refs n k) refs k := by
  unfold GapPushed History.gapPush
  cases k with
  | zero => rfl
  | succ k =>
    have hk : ¬ k + 1 = 0 := Nat.succ_ne_zero k
    rw [if_neg hk, if_neg hk]
    refine ⟨rfl, fun r hr => ?_, fun r hr => ?_, powerDecay_length _ _ _, fun b hb => powerDecay_bounds _ _ _ _ hb⟩
    · simp [hr, pushZeros_succ, zeroBlock, Config.blockLength]
    · simp [Nat.not_lt.mpr hr]

end

/-! ### Words of the control page -/

section
variable {s : State}

/-- Fields of the control page at offsets that do not overlap. -/
theorem apart_pageFields (s : State) {i n j m : Nat} (h : i + n ≤ j ∨ j + m ≤ i) (hi : i + n ≤ 4096) (hj : j + m ≤ 4096) :
    Apart (s.pageField i) n (s.pageField j) m := by
  unfold State.pageField
  rcases h with h | h
  · exact apart_of_le (by omega) (by omega)
  · exact apart_of_ge (by omega) (by omega)

/-- A page field reads as before after a write to another. -/
theorem memWord_pageField_other (s : State) (m : List Host.Cell) {i j : Nat} (w : Word) (h : i + 4 ≤ j ∨ j + 4 ≤ i)
    (hi : i ≤ 4000) (hj : j ≤ 4000) : memWord (writeBytes m (s.pageField j) (wordBytes w)) (s.pageField i) = memWord m (s.pageField i) :=
  memWord_writeBytes_apart m (apart_pageFields s h (by omega) (by simp [wordBytes]; omega))

/-- A run within the 128 bytes of the page. -/
theorem apart_page {a n : Nat} (h : Apart a n s.xbase.toNat 128) {i m : Nat} (hi : i + m ≤ 128) : Apart a n (s.pageField i) m :=
  h.sub le_rfl le_rfl (Nat.le_add_right _ _) (by unfold State.pageField; omega)

/-- A write keeps two memories equal at a byte where they are. -/
theorem readByte_writeBytes_congr {m m' : List Host.Cell} {a b : Nat} {bytes : List Byte} (h : readByte m a = readByte m' a) :
    readByte (writeBytes m b bytes) a = readByte (writeBytes m' b bytes) a := by
  induction bytes generalizing m m' b with
  | nil => exact h
  | cons v vs ih =>
    refine ih ?_
    by_cases hc : cellOf a = cellOf b
    · have hsame : ∀ n : List Host.Cell, readByte (writeByte n b v) a = v := fun n => by
        simp [readByte, writeByte, hc]
      rw [hsame, hsame]
    · rw [readByte_writeByte_other _ _ hc, readByte_writeByte_other _ _ hc, h]

/-- One write within a list of regions. -/
theorem memKeeps_write_in {m : List Host.Cell} {a : Nat} {bytes : List Byte} {rs : List (Nat × Nat)} {q : Nat × Nat} (hq : q ∈ rs)
    (ha : q.1 ≤ a) (hb : a + bytes.length ≤ q.1 + q.2) : MemKeeps m (writeBytes m a bytes) rs :=
  (memKeeps_writeBytes m a bytes).cover fun r hr => ⟨q, hq, by
    obtain rfl := List.mem_singleton.mp hr
    exact ⟨ha, hb⟩⟩

end

/-! ### An idle check (R171) -/

section
variable {s : State}

/-- The state after an idle check that a tick made. -/
def State.idled (s : State) : State :=
  { s with
    idleTotal := s.idleTotal + 1
    pendIdle := min 255 (s.pendIdle + 1)
    mem := writeBytes s.mem (s.pageField 0x44) (wordBytes (s.idleTotal + 1)) }

theorem idleCheck_tick (h : s.bus = []) : idleCheck false s = .ok () s.idled := by
  simp only [idleCheck, Bool.false_eq_true, if_false, work_bind, update_apply, writeIdleTotal, getState_apply]
  rw [writeWord_quiet _ _ _ (by exact h)]
  simp only [State.idled, saturatingAdd, Config.pendingLimit, State.setMem, State.pageField]

theorem idleCheck_step (s : State) : idleCheck true s = .ok () (s.setStepResult .noFrame) := rfl

theorem idled_mem (s : State) :
    memWord s.idled.mem (s.pageField 0x44) = s.idleTotal + 1 ∧ MemKeeps s.mem s.idled.mem [(s.pageField 0x44, 4)] :=
  ⟨memWord_writeBytes_wordBytes _ _ _, memKeeps_writeWord _ _ _⟩

/-! ### Taking a frame (R173) -/

/-- The state after the frame with count D is taken, its header's sequence being D. -/
def State.frameTaken (s : State) (byStep : Bool) : State :=
  { s with
    taken := s.done + 1
    flight := some (s.begun s.done (memWord s.mem (s.geo.slotOf s.done + 4)) byStep)
    mem := writeBytes s.mem (s.pageField 0x3C) (wordBytes (s.done + 1)) }

theorem takesFrame_frameTaken (s : State) (byStep : Bool) : s.TakesFrame (s.frameTaken byStep) byStep :=
  ⟨rfl, memWord_writeBytes_wordBytes _ _ _, memKeeps_writeWord _ _ _⟩

/-- Shared memory after a mismatch. -/
def State.mismatchMem (s : State) : List Host.Cell :=
  writeBytes
    (writeBytes
      (writeBytes (writeBytes s.mem (s.pageField 0x3C) (wordBytes (s.done + 1))) (s.pageField 0x50) (wordBytes (s.gapTotal + 1)))
      (s.geo.slotOf s.done + 6) [2#8])
    (s.pageField 0x40) (wordBytes (s.done + 1))

/-- The state after a mismatch. -/
def State.mismatched (s : State) (byStep : Bool) : State :=
  { s with
    taken := s.done + 1
    done := s.done + 1
    gapTotal := s.gapTotal + 1
    pendGap := min 255 (s.pendGap + 1)
    history := s.history.gapPush s.geo.refs s.free 1
    free := s.free + 1
    notice := s.notice || decide (byteOf (memWord s.mem (s.geo.slotOf s.done + 4)) 1 ≠ 0)
    stepResult := if byStep then .noFrame else s.stepResult
    mem := s.mismatchMem }

/-- The header's words read as before T is written, where the slot's head lies apart from T's field. -/
theorem header_after_taken (h : Apart (s.geo.slotOf s.done) 8 (s.pageField 0x3C) 4) (w : Word) :
    memWords (writeBytes s.mem (s.pageField 0x3C) (wordBytes w)) (s.geo.slotOf s.done) 2 =
      [memWord s.mem (s.geo.slotOf s.done), memWord s.mem (s.geo.slotOf s.done + 4)] := by
  simp only [memWords]
  rw [memWord_writeBytes_apart _ (h.sub le_rfl (by omega) le_rfl (by simp [wordBytes])),
    memWord_writeBytes_apart _ (h.sub (by omega) (by omega) le_rfl (by simp [wordBytes]))]

/-- Taking a frame: T is set and written, then the header decides (R173). -/
theorem takeFrame_quiet (byStep : Bool) (hbus : s.bus = []) (h : Apart (s.geo.slotOf s.done) 8 (s.pageField 0x3C) 4) :
    takeFrame byStep s =
      (if memWord s.mem (s.geo.slotOf s.done) = s.done then
        update fun t => t.setFlight (some (s.begun s.done (memWord s.mem (s.geo.slotOf s.done + 4)) byStep))
      else mismatchFrame (decide (byteOf (memWord s.mem (s.geo.slotOf s.done + 4)) 1 ≠ 0)) byStep)
        ((s.setTaken (s.done + 1)).setMem (writeBytes s.mem (s.pageField 0x3C) (wordBytes (s.done + 1)))) := by
  generalize ht : (s.setTaken (s.done + 1)).setMem (writeBytes s.mem (s.pageField 0x3C) (wordBytes (s.done + 1))) = t
  have htaken : writeTaken (s.setTaken (s.done + 1)) = .ok () t := by
    simp only [writeTaken, work_bind, getState_apply]
    rw [writeWord_quiet _ _ _ (by exact hbus), ← ht]
    rfl
  have hheader : memWords t.mem (t.geo.slotOf t.done) 2 =
      [memWord s.mem (s.geo.slotOf s.done), memWord s.mem (s.geo.slotOf s.done + 4)] := by
    rw [← ht]
    exact header_after_taken h (s.done + 1)
  have hdone : t.done = s.done := by rw [← ht]; rfl
  have hbegin : ∀ w, Flight.begin t w byStep = s.begun s.done w byStep := fun w => by rw [← ht]; rfl
  simp only [takeFrame, work_bind, update_apply, htaken, getState_apply]
  rw [readWords_quiet _ _ _ (by rw [← ht]; exact hbus), hheader, hdone]
  simp only [List.getD_cons_zero, List.getD_cons_succ]
  by_cases hseq : memWord s.mem (s.geo.slotOf s.done) = s.done
  · rw [if_pos hseq, if_pos hseq, update_apply, update_apply, hbegin]
  · rw [if_neg hseq, if_neg hseq]

theorem takeFrame_takes (byStep : Bool) (hbus : s.bus = []) (h : Apart (s.geo.slotOf s.done) 8 (s.pageField 0x3C) 4)
    (hseq : memWord s.mem (s.geo.slotOf s.done) = s.done) : takeFrame byStep s = .ok () (s.frameTaken byStep) := by
  rw [takeFrame_quiet byStep hbus h, if_pos hseq, update_apply]
  simp only [State.frameTaken, State.setTaken, State.setMem, State.setFlight]

theorem countedGapPush_quiet (k : Nat) (hk : k ≠ 0) (hbus : s.bus = []) :
    countedGapPush k s =
      .ok () ((s.countedGap k).setMem
        (writeBytes s.mem (s.pageField 0x50) (wordBytes (s.gapTotal + BitVec.ofNat 32 (min k 64))))) := by
  have hbus' : (s.countedGap k).bus = [] := by rw [s.countedGap_eq k hk]; exact hbus
  simp only [countedGapPush, writeGapTotalAfter, if_neg hk, work_bind, update_apply, writeGapTotal, getState_apply]
  rw [writeWord_quiet _ _ _ hbus', s.countedGap_eq k hk]
  simp only [State.setMem, State.pageField, gapBlocks, Config.ringDepth]

theorem takeFrame_mismatch (byStep : Bool) (hbus : s.bus = []) (h : Apart (s.geo.slotOf s.done) 8 (s.pageField 0x3C) 4)
    (hseq : memWord s.mem (s.geo.slotOf s.done) ≠ s.done) : takeFrame byStep s = .ok () (s.mismatched byStep) := by
  rw [takeFrame_quiet byStep hbus h, if_neg hseq]
  generalize hm : writeBytes s.mem (s.pageField 0x3C) (wordBytes (s.done + 1)) = m
  have hstep : ∀ t : State, (if byStep = true then update fun s => s.setStepResult .noFrame else pure ()) t =
      .ok () (t.setStepResult (if byStep then .noFrame else t.stepResult)) := fun t => by cases byStep <;> rfl
  simp only [mismatchFrame, work_bind, writeStatus, advanceDone, writeDone, update_apply, getState_apply]
  rw [countedGapPush_quiet 1 (by decide) (by exact hbus), State.countedGap_eq _ 1 (by decide)]
  simp only [gapBlocks, Config.ringDepth, show min 1 64 = 1 from rfl, State.setMem, State.setTaken]
  rw [writeLanes_quiet _ _ _ (by exact hbus), show statusByte .mismatch = 2#8 from rfl]
  simp only [State.setMem, State.pageField]
  rw [writeWord_quiet _ _ _ (by exact hbus)]
  simp only [noticeIf_apply, hstep]
  simp only [State.mismatched, State.mismatchMem, hm]
  simp only [State.pageField, State.setMem, State.setDone, State.setNotice, State.setStepResult, saturatingAdd, Config.pendingLimit,
    show BitVec.ofNat 32 1 = (1 : Word) from rfl]

theorem findsMismatch_mismatched (byStep : Bool) (h : Apart (s.geo.slotOf s.done) 8 s.xbase.toNat 128) :
    s.FindsMismatch (s.mismatched byStep) byStep := by
  have hstatus : ∀ i, i + 4 ≤ 128 → Apart (s.geo.slotOf s.done + 6) 1 (s.pageField i) 4 := fun i hi =>
    (apart_page h hi).sub (by omega) (by omega) le_rfl le_rfl
  have hfields : ∀ (m : List Host.Cell) (i : Nat), i + 4 ≤ 128 →
      memWord (writeBytes m (s.geo.slotOf s.done + 6) [2#8]) (s.pageField i) = memWord m (s.pageField i) := fun m i hi =>
    memWord_writeBytes_apart m (hstatus i hi).symm
  refine ⟨rfl, gapPushed_gapPush _ _ _ _, ?_, ?_, ?_, ?_, ?_⟩
  · refine ((memKeeps_writeWord _ _ _).byte fun r hr => ?_).trans (readByte_writeBytes_one _ _ _)
    obtain rfl := List.mem_singleton.mp hr
    exact hstatus _ (by omega)
  · simp only [State.mismatched, State.mismatchMem]
    rw [memWord_pageField_other _ _ _ (by omega) (by omega) (by omega), hfields _ _ (by omega),
      memWord_pageField_other _ _ _ (by omega) (by omega) (by omega), memWord_writeBytes_wordBytes]
  · exact memWord_writeBytes_wordBytes _ _ _
  · simp only [State.mismatched, State.mismatchMem]
    rw [memWord_pageField_other _ _ _ (by omega) (by omega) (by omega), hfields _ _ (by omega), memWord_writeBytes_wordBytes]
  · have hpage : ∀ (m : List Host.Cell) (i : Nat) (w : Word), (0x3C ≤ i ∧ i ≤ 0x40 ∨ i = 0x50) →
        MemKeeps m (writeBytes m (s.pageField i) (wordBytes w))
          [(s.geo.slotOf s.done + 6, 1), (s.pageField 0x3C, 8), (s.pageField 0x50, 4)] := by
      rintro m i w (hi | rfl)
      · exact memKeeps_write_in (q := (s.pageField 0x3C, 8)) (by simp) (by unfold State.pageField; simp; omega)
          (by unfold State.pageField; simp [wordBytes]; omega)
      · exact memKeeps_write_in (q := (s.pageField 0x50, 4)) (by simp) le_rfl le_rfl
    refine (((hpage _ 0x3C (s.done + 1) (by omega)).trans_same (hpage _ 0x50 (s.gapTotal + 1) (by omega))).trans_same ?_).trans_same
      (hpage _ 0x40 _ (by omega))
    exact memKeeps_write_in (q := (s.geo.slotOf s.done + 6, 1)) (by simp) le_rfl le_rfl

/-! ### Another T before the frame is taken -/

/-- Taking a frame sets T and writes it, so that the T before it is of no matter. -/
theorem takesFrame_of_retaken {t : State} {byStep : Bool} {x : Word} {y : List Host.Cell}
    (hk : MemKeeps s.mem y [(s.pageField 0x3C, 4)]) (hslot : Apart (s.geo.slotOf s.done) 8 (s.pageField 0x3C) 4)
    (h : { s with taken := x, mem := y }.TakesFrame t byStep) : s.TakesFrame t byStep := by
  obtain ⟨ht, hword, hkeeps⟩ := h
  have hheader : memWord y (s.geo.slotOf s.done + 4) = memWord s.mem (s.geo.slotOf s.done + 4) := hk.word fun r hr => by
    obtain rfl := List.mem_singleton.mp hr
    exact hslot.sub (by omega) (by omega) le_rfl le_rfl
  refine ⟨?_, hword, hk.trans_same hkeeps⟩
  rw [← hheader]
  exact ht

theorem findsMismatch_of_retaken {t : State} {byStep : Bool} {x : Word} {y : List Host.Cell}
    (hk : MemKeeps s.mem y [(s.pageField 0x3C, 4)]) (hslot : Apart (s.geo.slotOf s.done) 8 (s.pageField 0x3C) 4)
    (h : { s with taken := x, mem := y }.FindsMismatch t byStep) : s.FindsMismatch t byStep := by
  obtain ⟨ht, hpushed, hstatus, htaken, hdone, hgap, hkeeps⟩ := h
  have hheader : memWord y (s.geo.slotOf s.done + 4) = memWord s.mem (s.geo.slotOf s.done + 4) := hk.word fun r hr => by
    obtain rfl := List.mem_singleton.mp hr
    exact hslot.sub (by omega) (by omega) le_rfl le_rfl
  refine ⟨?_, hpushed, hstatus, htaken, hdone, hgap, MemKeeps.trans_same (hk.cover fun r hr => ?_) hkeeps⟩
  · rw [← hheader]
    exact ht
  · obtain rfl := List.mem_singleton.mp hr
    exact ⟨(s.pageField 0x3C, 8), by simp, le_rfl, by simp⟩

/-! ### Drops (R172) -/

/-- Shared memory after a drop of `d` frames that writes `w` as T. -/
def State.droppedMem (s : State) (w : Word) (d : Nat) : List Host.Cell :=
  writeBytes
    (writeBytes
      (writeBytes (writeBytes s.mem (s.pageField 0x3C) (wordBytes w)) (s.pageField 0x40) (wordBytes (s.done + BitVec.ofNat 32 d)))
      (s.pageField 0x4C) (wordBytes (s.dropTotal + BitVec.ofNat 32 d)))
    (s.pageField 0x50) (wordBytes (s.gapTotal + BitVec.ofNat 32 (min d 64)))

/-- The state after a drop of `d` frames, T being D. -/
def State.dropped (s : State) (d : Nat) : State :=
  { s with
    taken := s.done + BitVec.ofNat 32 d
    done := s.done + BitVec.ofNat 32 d
    dropTotal := s.dropTotal + BitVec.ofNat 32 d
    gapTotal := s.gapTotal + BitVec.ofNat 32 (min d 64)
    pendDropped := min 255 (s.pendDropped + d)
    pendGap := min 255 (s.pendGap + min d 64)
    history := s.history.gapPush s.geo.refs s.free (min d 64)
    free := s.free + min d 64
    mem := s.droppedMem (s.done + BitVec.ofNat 32 d) d }

/-- The drop as the unit makes it: T goes up from where it stands. -/
theorem dropFrames_quiet (d : Nat) (hd : d ≠ 0) (hbus : s.bus = []) :
    dropFrames d s =
      .ok () { s.dropped d with taken := s.taken + BitVec.ofNat 32 d, mem := s.droppedMem (s.taken + BitVec.ofNat 32 d) d } := by
  simp only [dropFrames, work_bind, update_apply, writeTaken, writeDone, writeDropTotal, getState_apply]
  rw [writeWord_quiet _ _ _ (by exact hbus)]
  simp only [State.setMem, State.pageField]
  rw [writeWord_quiet _ _ _ (by exact hbus)]
  simp only [State.setMem]
  rw [writeWord_quiet _ _ _ (by exact hbus)]
  simp only [State.setMem]
  rw [countedGapPush_quiet d hd (by exact hbus), State.countedGap_eq _ d hd]
  simp only [State.setMem, State.dropped, State.droppedMem, State.pageField, saturatingAdd, Config.pendingLimit, gapBlocks, Config.ringDepth]

/-- What a drop writes stands in the page, whatever T it writes. -/
theorem droppedMem_spec (s : State) (w : Word) (d : Nat) :
    memWord (s.droppedMem w d) (s.pageField 0x3C) = w ∧ memWord (s.droppedMem w d) (s.pageField 0x40) = s.done + BitVec.ofNat 32 d ∧
      memWord (s.droppedMem w d) (s.pageField 0x4C) = s.dropTotal + BitVec.ofNat 32 d ∧
      memWord (s.droppedMem w d) (s.pageField 0x50) = s.gapTotal + BitVec.ofNat 32 (min d 64) ∧
      MemKeeps s.mem (s.droppedMem w d) [(s.pageField 0x3C, 8), (s.pageField 0x4C, 8)] := by
  have hother := fun (m : List Host.Cell) (w : Word) {i j : Nat} => memWord_pageField_other s m (i := i) (j := j) w
  refine ⟨?_, ?_, ?_, memWord_writeBytes_wordBytes _ _ _, ?_⟩
  · rw [State.droppedMem, hother _ _ (by omega) (by omega) (by omega), hother _ _ (by omega) (by omega) (by omega),
      hother _ _ (by omega) (by omega) (by omega), memWord_writeBytes_wordBytes]
  · rw [State.droppedMem, hother _ _ (by omega) (by omega) (by omega), hother _ _ (by omega) (by omega) (by omega),
      memWord_writeBytes_wordBytes]
  · rw [State.droppedMem, hother _ _ (by omega) (by omega) (by omega), memWord_writeBytes_wordBytes]
  · have hcounts : ∀ (m : List Host.Cell) (i : Nat) (v : Word), 0x3C ≤ i → i ≤ 0x40 →
        MemKeeps m (writeBytes m (s.pageField i) (wordBytes v)) [(s.pageField 0x3C, 8), (s.pageField 0x4C, 8)] := fun m i v h h' =>
      memKeeps_write_in (q := (s.pageField 0x3C, 8)) (by simp) (by simp [State.pageField]; omega)
        (by simp [State.pageField, wordBytes]; omega)
    have htotals : ∀ (m : List Host.Cell) (i : Nat) (v : Word), 0x4C ≤ i → i ≤ 0x50 →
        MemKeeps m (writeBytes m (s.pageField i) (wordBytes v)) [(s.pageField 0x3C, 8), (s.pageField 0x4C, 8)] := fun m i v h h' =>
      memKeeps_write_in (q := (s.pageField 0x4C, 8)) (by simp) (by simp [State.pageField]; omega)
        (by simp [State.pageField, wordBytes]; omega)
    exact (((hcounts _ _ _ (by omega) (by omega)).trans_same (hcounts _ _ _ (by omega) (by omega))).trans_same
      (htotals _ _ _ (by omega) (by omega))).trans_same (htotals _ _ _ (by omega) (by omega))

theorem dropsFrames_dropped (s : State) (d : Nat) : s.DropsFrames (s.dropped d) d := by
  obtain ⟨htaken, hdone, hdrop, hgap, hkeeps⟩ := droppedMem_spec s (s.done + BitVec.ofNat 32 d) d
  exact ⟨rfl, gapPushed_gapPush _ _ _ _, htaken, hdone, hdrop, hgap, hkeeps⟩

/-- Two drops that differ in the T they write. -/
theorem droppedMem_retaken (s : State) (v w : Word) (d : Nat) :
    MemKeeps (s.droppedMem v d) (s.droppedMem w d) [(s.pageField 0x3C, 4)] := by
  intro a ha
  have hword : ∀ v : Word, ∀ i < (wordBytes v).length, cellOf a ≠ cellOf (s.pageField 0x3C + i) := fun v i hi =>
    ha _ (List.mem_singleton_self _) i (by simpa [wordBytes] using hi)
  have hsame : ∀ (m m' : List Host.Cell) (b : Nat) (bytes : List Byte), readByte m a = readByte m' a →
      readByte (writeBytes m b bytes) a = readByte (writeBytes m' b bytes) a := fun m m' b bytes h => readByte_writeBytes_congr h
  exact hsame _ _ _ _ (hsame _ _ _ _ (hsame _ _ _ _ ((readByte_writeBytes_other _ _ _ _ (hword w)).trans
    (readByte_writeBytes_other _ _ _ _ (hword v)).symm)))

end

end Sys2Proof.Machine
end

section
/-! The cycle check as a whole (R171 to R173), and the ticks it answers with nothing in the chain: idle, busy, and over a backlog
(R137, R170). -/

namespace Sys2Proof.Machine

section
variable {s : State}

/-! ### The check's three outcomes -/

theorem cycleCheck_idle (byStep : Bool) (hbus : s.bus = []) (hready : s.NoEndReady) (hb : signedDiff s.fillCount s.done ≤ 0) :
    cycleCheck byStep s = idleCheck byStep s := by
  have hb' : signedDiff (memWord s.mem (s.pageField 0x38)) s.done ≤ 0 := hb
  simp only [cycleCheck, work_bind, takeReadyEnd_none hready, getState_apply, readWord_quiet _ s hbus, if_pos hb']

theorem cycleCheck_takes (byStep : Bool) (hbus : s.bus = []) (hready : s.NoEndReady) (hb : 0 < signedDiff s.fillCount s.done)
    (hl : signedDiff s.fillCount s.done ≤ s.geo.latency) : cycleCheck byStep s = takeFrame byStep s := by
  have hb' : ¬ signedDiff (memWord s.mem (s.pageField 0x38)) s.done ≤ 0 := not_le.mpr hb
  have hl' : ¬ (s.geo.latency : Int) < signedDiff (memWord s.mem (s.pageField 0x38)) s.done := not_lt.mpr hl
  simp only [cycleCheck, work_bind, takeReadyEnd_none hready, getState_apply, readWord_quiet _ s hbus, if_neg hb', if_neg hl']

/-- The frames a check over a backlog drops (R172). -/
def State.backlog (s : State) : Nat :=
  (signedDiff s.fillCount s.done - s.geo.latency).toNat

theorem cycleCheck_drops (byStep : Bool) (hbus : s.bus = []) (hready : s.NoEndReady)
    (hl : (s.geo.latency : Int) < signedDiff s.fillCount s.done) :
    cycleCheck byStep s = takeFrame byStep
      { s.dropped s.backlog with
        taken := s.taken + BitVec.ofNat 32 s.backlog
        mem := s.droppedMem (s.taken + BitVec.ofNat 32 s.backlog) s.backlog } := by
  have hb' : ¬ signedDiff (memWord s.mem (s.pageField 0x38)) s.done ≤ 0 := by
    have h : ¬ signedDiff s.fillCount s.done ≤ 0 := by omega
    exact h
  have hl' : (s.geo.latency : Int) < signedDiff (memWord s.mem (s.pageField 0x38)) s.done := hl
  have hd : s.backlog ≠ 0 := by unfold State.backlog; omega
  have hdrop := dropFrames_quiet s.backlog hd hbus
  rw [show s.backlog = (signedDiff (memWord s.mem (s.pageField 0x38)) s.done - s.geo.latency).toNat from rfl] at hdrop ⊢
  simp only [cycleCheck, work_bind, takeReadyEnd_none hready, getState_apply, readWord_quiet _ s hbus, if_neg hb', if_pos hl', hdrop]

/-- A check that finds a frame takes it, or ends it as a mismatch, after the backlog's drop (R171 to R173). -/
theorem cycleCheck_taking (byStep : Bool) (hbus : s.bus = []) (hready : s.NoEndReady) (hb : 0 < signedDiff s.fillCount s.done)
    {n : Word} (hn : n = s.done + BitVec.ofNat 32 s.backlog)
    (hclear : Apart (s.geo.slotOf n) 8 s.xbase.toNat 128 ∨
      signedDiff s.fillCount s.done ≤ s.geo.latency ∧ memWord s.mem (s.geo.slotOf n) = n ∧
        Apart (s.geo.slotOf n) 8 (s.pageField 0x3C) 4) :
    ∃ t, cycleCheck byStep s = .ok () t ∧ ∃ m,
      (if (s.geo.latency : Int) < signedDiff s.fillCount s.done then s.DropsFrames m s.backlog else m = s) ∧
      (memWord s.mem (s.geo.slotOf n) = n → m.TakesFrame t byStep) ∧ (memWord s.mem (s.geo.slotOf n) ≠ n → m.FindsMismatch t byStep) := by
  by_cases hl : (s.geo.latency : Int) < signedDiff s.fillCount s.done
  · have hpage : Apart (s.geo.slotOf n) 8 s.xbase.toNat 128 := by
      rcases hclear with h | ⟨h, -⟩
      · exact h
      · omega
    have hslot : Apart (s.geo.slotOf n) 8 (s.pageField 0x3C) 4 := apart_page hpage (by omega)
    obtain ⟨-, -, -, -, hkeeps⟩ := droppedMem_spec s (s.taken + BitVec.ofNat 32 s.backlog) s.backlog
    have hread : memWord (s.droppedMem (s.taken + BitVec.ofNat 32 s.backlog) s.backlog) (s.geo.slotOf n) = memWord s.mem (s.geo.slotOf n) :=
      hkeeps.word fun r hr => by
        simp only [List.mem_cons, List.not_mem_nil, or_false] at hr
        rcases hr with rfl | rfl
        · exact (apart_page hpage (by omega)).sub le_rfl (by omega) le_rfl le_rfl
        · exact (apart_page hpage (by omega)).sub le_rfl (by omega) le_rfl le_rfl
    have hretaken := droppedMem_retaken s (s.done + BitVec.ofNat 32 s.backlog) (s.taken + BitVec.ofNat 32 s.backlog) s.backlog
    rw [cycleCheck_drops byStep hbus hready hl]
    subst hn
    by_cases hseq : memWord s.mem (s.geo.slotOf (s.done + BitVec.ofNat 32 s.backlog)) = s.done + BitVec.ofNat 32 s.backlog
    · refine ⟨_, takeFrame_takes byStep hbus hslot (hread.trans hseq), s.dropped s.backlog, (if_pos hl).mpr (dropsFrames_dropped s _),
        fun _ => ?_, fun hne => absurd hseq hne⟩
      exact takesFrame_of_retaken (s := s.dropped s.backlog) hretaken hslot (takesFrame_frameTaken _ byStep)
    · refine ⟨_, takeFrame_mismatch byStep hbus hslot (fun h => hseq (hread.symm.trans h)), s.dropped s.backlog, (if_pos hl).mpr (dropsFrames_dropped s _),
        fun h => absurd h hseq, fun _ => ?_⟩
      exact findsMismatch_of_retaken (s := s.dropped s.backlog) hretaken hslot (findsMismatch_mismatched byStep hpage)
  · have hzero : s.backlog = 0 := by unfold State.backlog; omega
    have hdone : n = s.done := by rw [hn, hzero]; simp
    subst hdone
    rw [cycleCheck_takes byStep hbus hready hb (not_lt.mp hl)]
    have hslot : Apart (s.geo.slotOf s.done) 8 (s.pageField 0x3C) 4 := by
      rcases hclear with h | ⟨-, -, h⟩
      · exact apart_page h (by omega)
      · exact h
    by_cases hseq : memWord s.mem (s.geo.slotOf s.done) = s.done
    · exact ⟨_, takeFrame_takes byStep hbus hslot hseq, s, (if_neg hl).mpr rfl, fun _ => takesFrame_frameTaken s byStep, fun hne => absurd hseq hne⟩
    · refine ⟨_, takeFrame_mismatch byStep hbus hslot hseq, s, (if_neg hl).mpr rfl, fun h => absurd h hseq, fun _ => findsMismatch_mismatched byStep ?_⟩
      rcases hclear with h | ⟨-, h, -⟩
      · exact h
      · exact absurd h hseq

/-! ### A tick's own work -/

/-- A tick that finds no cycle busy and waits after it: its intake begun, its check made. -/
theorem exec_justBegun_idle (h : s.engine = .running) (hf : s.flight = none) :
    exec (.blktick justBegun) s = .next (settle (cycleCheck false) (s.setIntake (some s.broughtIntake))) := by
  rw [exec_blktick_running _ h, settle, tickWork_idle _ hf]
  simp only [justBegun, runPlan, work_bind, work_pure, Bool.false_eq_true, if_false, if_true]
  cases hc : cycleCheck false (s.setIntake (some s.broughtIntake)) with
  | ok a t => simp only [settle, hc]
  | error f t => simp only [settle, hc]

/-- A tick that finds the cycle busy and waits after it. -/
theorem exec_justBegun_busy (h : s.engine = .running) (hf : s.flight.isSome = true) :
    exec (.blktick justBegun) s = .next (settle (busyTick >>= fun _ => beginIntake) s) := by
  have hbusy : s.frameBusy = true := hf
  rw [exec_blktick_running _ h, settle, settle]
  simp only [tickWork, work_bind, getState_apply, hbusy, if_true, justBegun, runPlan, Bool.not_true, Bool.false_eq_true, if_false]
  cases hb : busyTick s with
  | ok a t => rfl
  | error f t => rfl

/-! ### Work with nothing to do -/

/-- Nothing waits in the chain, no frame is in flight, and an intake in progress has just begun. -/
def State.AtRest (s : State) : Prop :=
  s.anchor = none ∧ s.geo.firstCmd = 0 ∧ (s.intake = none ∨ s.intake = some freshIntake) ∧ s.flight = none ∧ s.bus = []

theorem State.AtRest.closed (h : s.AtRest) : (s.setIntake none).AtRest := by
  obtain ⟨hanchor, hfirst, -, hf, hbus⟩ := h
  exact ⟨hanchor, hfirst, .inl rfl, hf, hbus⟩

theorem State.AtRest.idled (h : s.AtRest) : s.idled.AtRest := h

theorem setIntake_eq_self {i : Option Intake} (h : s.intake = i) : s.setIntake i = s := by
  subst h
  rfl

/-- An empty chain ends an intake at its first look (R135). -/
theorem intakeUnit_rest (h : s.AtRest) : intakeUnit s = .ok () (s.setIntake none) := by
  obtain ⟨hanchor, hfirst, hi, -, -⟩ := h
  rcases hi with hi | hi
  · simp [intakeUnit, hi, setIntake_eq_self hi]
  · simp [intakeUnit, hi, freshIntake, intakeLook, look, candidate, hanchor, hfirst, closeIntake]

theorem runIntake_rest (h : s.AtRest) (n : Nat) : runIntake (n + 1) s = .ok () (s.setIntake none) := by
  have hdone : ∀ k, runIntake k (s.setIntake none) = .ok () (s.setIntake none) := fun k => by cases k <;> simp [runIntake]
  cases hi : s.intake with
  | none => simp [runIntake, hi, setIntake_eq_self hi]
  | some i => simp [runIntake, hi, intakeUnit_rest h, hdone]

theorem stageUnit_rest (h : s.flight = none) : stageUnit s = .ok () s := by simp [stageUnit, h]

theorem runStages_rest (h : s.flight = none) (n : Nat) : runStages n s = .ok () s := by cases n <;> simp [runStages, h]

/-- What is left of a tick that finishes, once its busy check and its intake have begun. -/
def finishTick (plan : List Party) (due : Bool) : Work Unit := do
  let still ← runPlan plan due
  finishIntake
  if still then cycleCheck false else pure ()
  runStagesFor none

/-- With nothing to take, any plan comes to an ended intake, and to the idle check if it was due. -/
theorem finishTick_rest (plan : List Party) (due : Bool) (h : s.AtRest)
    (hcheck : due = true → s.NoEndReady ∧ signedDiff s.fillCount s.done ≤ 0) :
    finishTick plan due s = .ok () ((if due then s.idled else s).setIntake none) := by
  have hbus : s.bus = [] := h.2.2.2.2
  have hf : s.flight = none := h.2.2.2.1
  induction plan generalizing due s with
  | nil =>
    have hintake : finishIntake s = .ok () (s.setIntake none) := runIntake_rest h 31
    cases due with
    | false => simp [finishTick, runPlan, hintake, runStagesFor, runStages_rest (s := s.setIntake none) hf]
    | true =>
      obtain ⟨hready, hb⟩ := hcheck rfl
      have hidle : cycleCheck false (s.setIntake none) = .ok () (s.setIntake none).idled :=
        (cycleCheck_idle false (s := s.setIntake none) hbus hready hb).trans (idleCheck_tick hbus)
      have hstages : runStagesFor none (s.setIntake none).idled = .ok () (s.setIntake none).idled :=
        runStages_rest (s := (s.setIntake none).idled) hf _
      simp only [finishTick, runPlan, work_bind, work_pure, hintake, if_true, hidle, hstages]
      rfl
  | cons p rest ih =>
    cases p with
    | intake =>
      have hstep : finishTick (.intake :: rest) due s = finishTick rest due (s.setIntake none) := by
        simp only [finishTick, runPlan, work_bind, intakeUnit_rest h]
      rw [hstep, ih due h.closed hcheck hbus hf]
      cases due <;> rfl
    | frame =>
      cases due with
      | false =>
        have hstep : finishTick (.frame :: rest) false s = finishTick rest false s := by
          simp only [finishTick, runPlan, Bool.false_eq_true, if_false, work_bind, stageUnit_rest hf]
        rw [hstep, ih false h (fun h => by simp at h) hbus hf]
      | true =>
        obtain ⟨hready, hb⟩ := hcheck rfl
        have hidle : cycleCheck false s = .ok () s.idled := (cycleCheck_idle false hbus hready hb).trans (idleCheck_tick hbus)
        have hstep : finishTick (.frame :: rest) true s = finishTick rest false s.idled := by
          simp only [finishTick, runPlan, if_true, work_bind, hidle]
        rw [hstep, ih false h.idled (fun h => by simp at h) hbus hf]
        rfl

theorem tickWork_finish (plan : List Party) (hf : s.flight = none) :
    tickWork { plan := plan, finish := true } s = finishTick plan true (s.setIntake (some s.broughtIntake)) := by
  rw [tickWork_idle _ hf]
  rfl

/-- The state after a tick over a busy cycle whose tick-pending is set. -/
def State.overloaded (s : State) : State :=
  { s with
    overloadTotal := s.overloadTotal + 1
    pendOverload := min 255 (s.pendOverload + 1)
    intake := some s.broughtIntake
    mem := writeBytes s.mem (s.pageField 0x48) (wordBytes (s.overloadTotal + 1)) }

theorem busyTick_overload (hbus : s.bus = []) (hp : s.tickPending = true) :
    (busyTick >>= fun _ => beginIntake) s = .ok () s.overloaded := by
  simp only [busyTick, work_bind, getState_apply]
  rw [if_pos hp]
  simp only [work_bind, update_apply, writeOverloadTotal, getState_apply]
  rw [writeWord_quiet _ _ _ (by exact hbus)]
  simp only [beginIntake_apply, State.overloaded, saturatingAdd, Config.pendingLimit, State.setMem, State.setIntake, State.pageField,
    State.broughtIntake]

end

end Sys2Proof.Machine

namespace Sys2Proof

open Sys2Proof.Machine

/-- Settles O12. -/
theorem tickIdleOrBusy : Obligations.TickIdleOrBusy := by
  intro s
  refine ⟨fun h timing => if_neg h, fun h hf hquiet hready _ hb => ⟨?_, fun hchain plan => ?_⟩, fun h hf hp => ?_,
    fun h hf hp hquiet _ => ?_⟩
  · refine ⟨(s.setIntake (some s.broughtIntake)).idled, ?_, rfl, idled_mem _⟩
    rw [exec_justBegun_idle h hf, settle, cycleCheck_idle (s := s.setIntake (some s.broughtIntake)) false hquiet hready hb, idleCheck_tick (by exact hquiet)]
  · obtain ⟨hanchor, hfirst, hi⟩ := hchain
    have hrest : (s.setIntake (some s.broughtIntake)).AtRest :=
      ⟨hanchor, hfirst, .inr (by simp [State.broughtIntake, hi]), hf, hquiet⟩
    refine ⟨s.idled, ?_, rfl, idled_mem s⟩
    rw [exec_blktick_running _ h, settle, tickWork_finish plan hf, finishTick_rest plan true hrest fun _ => ⟨hready, hb⟩]
    show Host.Outcome.next (s.idled.setIntake none) = _
    rw [setIntake_eq_self (s := s.idled) hi]
  · have hbusy : (busyTick >>= fun _ => beginIntake) s = .ok () { s with tickPending := true, intake := some s.broughtIntake } := by
      simp [busyTick, hp, beginIntake_apply, State.setTickPending, State.setIntake, State.broughtIntake]
    rw [exec_justBegun_busy h hf, settle, hbusy]
  · refine ⟨s.overloaded, ?_, rfl, memWord_writeBytes_wordBytes _ _ _, memKeeps_writeWord _ _ _⟩
    rw [exec_justBegun_busy h hf, settle, busyTick_overload hquiet hp]

/-- Settles O14. -/
theorem tickDropsTheBacklog : Obligations.TickDropsTheBacklog := by
  intro s h hf hquiet hready _ hl d n hpage
  have hb : 0 < signedDiff s.fillCount s.done := by omega
  obtain ⟨t, hcheck, m, hm, htakes, hmismatch⟩ := cycleCheck_taking (s := s.setIntake (some s.broughtIntake)) (n := n) false hquiet hready hb
    rfl (.inl hpage)
  refine ⟨m, t, ?_, ?_, htakes, hmismatch⟩
  · rw [exec_justBegun_idle h hf, settle, hcheck]
  · exact (if_pos (show ((s.setIntake (some s.broughtIntake)).geo.latency : Int) <
      signedDiff (s.setIntake (some s.broughtIntake)).fillCount (s.setIntake (some s.broughtIntake)).done from hl)).mp hm

end Sys2Proof
end

section
/-! Work that neither reads nor changes the waiting commands and the intake: every unit of the frame, and the cycle check. It makes the
same of a state whatever stands there (R137: the intake waits, and goes on as it is). -/

namespace Sys2Proof.Machine

/-- The state with the waiting commands and the intake changed. -/
def State.beside (s : State) (p : List Instr → List Instr) (q : Option Intake → Option Intake) : State :=
  { s with pending := p s.pending, intake := q s.intake }

/-- The same change made to the state that work leaves. -/
def besideOf {α : Type} (p : List Instr → List Instr) (q : Option Intake → Option Intake) :
    EStateM.Result EngineFault State α → EStateM.Result EngineFault State α
  | .ok a t => .ok a (t.beside p q)
  | .error f t => .error f (t.beside p q)

/-- Work that commutes with a change of the waiting commands and the intake. -/
def Aloof {α : Type} (p : List Instr → List Instr) (q : Option Intake → Option Intake) (w : Work α) : Prop :=
  ∀ s, w (s.beside p q) = besideOf p q (w s)

section
variable {α β : Type} {p : List Instr → List Instr} {q : Option Intake → Option Intake}

/-! ### How such work is put together -/

theorem aloof_pure (a : α) : Aloof p q (pure a : Work α) := fun _ => rfl

theorem aloof_bind {w : Work α} {g : α → Work β} (hw : Aloof p q w) (hg : ∀ a, Aloof p q (g a)) : Aloof p q (w >>= g) := by
  intro s
  simp only [work_bind, hw s]
  cases w s with
  | ok a t => exact hg a t
  | error f t => rfl

theorem aloof_getState_bind {k : State → Work β} (hk : ∀ s : State, k (s.beside p q) = k s) (hw : ∀ s, Aloof p q (k s)) :
    Aloof p q (getState >>= k) := by
  intro s
  simp only [work_bind, getState_apply, hk]
  exact hw s s

theorem aloof_update {g : State → State} (hg : ∀ s : State, g (s.beside p q) = (g s).beside p q) : Aloof p q (update g) := fun s => by
  simp only [update_apply, hg, besideOf]

theorem aloof_ite {c : Prop} [Decidable c] {v w : Work α} (hv : Aloof p q v) (hw : Aloof p q w) : Aloof p q (if c then v else w) := by
  split
  · exact hv
  · exact hw

/-! ### Accesses of shared memory and of the pool -/

theorem busAccess_aloof (write : Bool) (a : Nat) : Aloof p q (busAccess write a) := by
  intro s
  show (if (busAnswer s.bus write (wordAddress a)).1 then _ else _) = besideOf p q (if (busAnswer s.bus write (wordAddress a)).1 then _ else _)
  split <;> rfl

theorem readWord_aloof (a : Nat) : Aloof p q (readWord a) :=
  aloof_bind (busAccess_aloof false a) fun _ => aloof_getState_bind (fun _ => rfl) fun _ => aloof_pure _

theorem writeLanes_aloof (a : Nat) (bytes : List Byte) : Aloof p q (writeLanes a bytes) :=
  aloof_bind (busAccess_aloof true a) fun _ => aloof_update fun _ => rfl

theorem writeWord_aloof (a : Nat) (w : Word) : Aloof p q (writeWord a w) := writeLanes_aloof a _

theorem readWords_aloof (a n : Nat) : Aloof p q (readWords a n) := by
  induction n generalizing a with
  | zero => exact aloof_pure _
  | succ n ih => exact aloof_bind (readWord_aloof a) fun w => aloof_bind (ih _) fun ws => aloof_pure _

theorem writeWords_aloof (a : Nat) (ws : List Word) : Aloof p q (writeWords a ws) := by
  induction ws generalizing a with
  | nil => exact aloof_pure _
  | cons w ws ih => exact aloof_bind (writeWord_aloof a w) fun _ => ih _

theorem noticeIf_aloof (asked : Bool) : Aloof p q (noticeIf asked) := aloof_ite (aloof_update fun _ => rfl) (aloof_pure _)

theorem complete_aloof (address : Word) (code : Code) (sequence result : Word) (notify : Bool) :
    Aloof p q (complete address code sequence result notify) :=
  aloof_bind (writeWord_aloof _ _) fun _ => aloof_bind (writeWord_aloof _ _) fun _ => aloof_bind (writeWord_aloof _ _) fun _ =>
    aloof_bind (writeLanes_aloof _ _) fun _ => noticeIf_aloof _

theorem writeTaken_aloof : Aloof p q writeTaken := aloof_getState_bind (fun _ => rfl) fun _ => writeWord_aloof _ _

theorem writeDone_aloof (d : Word) : Aloof p q (writeDone d) := aloof_getState_bind (fun _ => rfl) fun _ => writeWord_aloof _ _

theorem writeIdleTotal_aloof : Aloof p q writeIdleTotal := aloof_getState_bind (fun _ => rfl) fun _ => writeWord_aloof _ _

theorem writeDropTotal_aloof : Aloof p q writeDropTotal := aloof_getState_bind (fun _ => rfl) fun _ => writeWord_aloof _ _

theorem writeGapTotal_aloof : Aloof p q writeGapTotal := aloof_getState_bind (fun _ => rfl) fun _ => writeWord_aloof _ _

theorem writeGapTotalAfter_aloof (k : Nat) : Aloof p q (writeGapTotalAfter k) := aloof_ite (aloof_pure _) writeGapTotal_aloof

theorem writeStatus_aloof (n : Word) (status : SlotStatus) : Aloof p q (writeStatus n status) :=
  aloof_getState_bind (fun _ => rfl) fun _ => writeLanes_aloof _ _

theorem readDirEntry_aloof (index words : Nat) : Aloof p q (readDirEntry index words) :=
  aloof_getState_bind (fun _ => rfl) fun _ => aloof_ite (aloof_bind (readWords_aloof _ _) fun _ => aloof_pure _) (aloof_pure _)

theorem setSlot_beside (s : State) (i : Nat) (v : Slot) : (s.beside p q).setSlot i v = (s.setSlot i v).beside p q := rfl

theorem readSlot_aloof (i : Nat) : Aloof p q (readSlot i) := by
  intro s
  have hslot : (s.beside p q).slot i = s.slot i := slot_congr rfl i
  by_cases h : (s.slot i).bad = 0#258
  · rw [readSlot_sound h, readSlot_sound (by rwa [hslot]), hslot, besideOf]
  · have h' : ((s.beside p q).slot i).bad ≠ 0#258 := by rwa [hslot]
    simp only [readSlot_failed h, readSlot_failed h', besideOf, setSlot_beside]

theorem freshUse_aloof : Aloof p q freshUse := fun _ => rfl

theorem setFlight_aloof (f : Flight) : Aloof p q (setFlight f) := aloof_update fun _ => rfl

/-! ### Ends of a transfer -/

theorem completeTransfer_aloof (u : Transfer) (code : Code) (result : Word) : Aloof p q (completeTransfer u code result) :=
  aloof_getState_bind (fun _ => rfl) fun _ => complete_aloof _ _ _ _ _

theorem endCaptureEarly_aloof (u : Transfer) (code : Code) (result : Word) : Aloof p q (endCaptureEarly u code result) :=
  aloof_bind (aloof_update fun _ => rfl) fun _ => aloof_bind (writeWord_aloof _ _) fun _ => completeTransfer_aloof _ _ _

theorem endCaptureFailed_aloof (u : Transfer) (j : Nat) : Aloof p q (endCaptureFailed u j) :=
  aloof_bind (aloof_update fun _ => rfl) fun _ => endCaptureEarly_aloof _ _ _

theorem endByApplication_aloof (u : Transfer) : Aloof p q (endByApplication u) := by
  unfold endByApplication
  cases u.direction with
  | capture => exact endCaptureEarly_aloof _ _ _
  | restore => exact aloof_bind (aloof_update fun _ => rfl) fun _ => completeTransfer_aloof _ _ _

theorem takeReadyEnd_aloof : Aloof p q takeReadyEnd := by
  refine aloof_getState_bind (fun _ => rfl) fun s => ?_
  cases s.transfer with
  | none => exact aloof_pure _
  | some u => exact aloof_ite (aloof_bind (aloof_update fun _ => rfl) fun _ => completeTransfer_aloof _ _ _) (aloof_pure _)

/-! ### Stage 1 -/

theorem endTransferFor_aloof (e : Entry) : Aloof p q (endTransferFor e) := by
  refine aloof_getState_bind (fun _ => rfl) fun s => ?_
  cases s.transfer with
  | none => exact aloof_pure _
  | some u => exact aloof_ite (endByApplication_aloof u) (aloof_pure _)

theorem applyCapture_aloof (seq : Word) (e : Entry) (index : Nat) : Aloof p q (applyCapture seq e index) := by
  refine aloof_bind (readDirEntry_aloof _ _) fun found => ?_
  cases found with
  | none => exact aloof_pure _
  | some d =>
    refine aloof_getState_bind (fun _ => rfl) fun s => ?_
    cases captureRefusal s e.chan index d with
    | some refusal => exact aloof_pure _
    | none =>
      exact aloof_bind (writeWords_aloof _ _) fun _ => aloof_bind (aloof_update fun _ => rfl) fun _ => aloof_pure _

theorem applyRestore_aloof (e : Entry) (index : Nat) : Aloof p q (applyRestore e index) := by
  refine aloof_bind (readDirEntry_aloof _ _) fun found => ?_
  cases found with
  | none => exact aloof_pure _
  | some d =>
    refine aloof_getState_bind (fun _ => rfl) fun s => ?_
    cases restoreRefusal s e.chan with
    | some refusal => exact aloof_pure _
    | none =>
      refine aloof_bind (readWords_aloof _ _) fun ws => ?_
      simp only
      cases headerRefusal s.geo.refs d.capacity (ws.getD 0 0) (ws.getD 1 0) with
      | some refusal => exact aloof_pure _
      | none => exact aloof_bind (aloof_update fun _ => rfl) fun _ => aloof_pure _

theorem applyNow_aloof {e : Entry} {change : State → State × Code × Word} (h : e.immediate = some change) :
    Aloof p q (applyNow change) := by
  intro s
  have hchange : change (s.beside p q) = ((change s).1.beside p q, (change s).2) := immediate_outside h s p q id
  simp only [applyNow, hchange, besideOf]

theorem applyAction_aloof (seq : Word) (e : Entry) : Aloof p q (applyAction seq e) := by
  refine aloof_getState_bind (fun _ => rfl) fun s => aloof_ite (aloof_pure _) ?_
  cases he : e.action with
  | capture index => exact applyCapture_aloof _ _ _
  | restore index => exact applyRestore_aloof _ _
  | _ => exact applyNow_aloof (e := e) (by simp only [Entry.immediate, he])

theorem applyEntry_aloof (seq : Word) (e : Entry) : Aloof p q (applyEntry seq e) := by
  have hrest : Aloof p q (do
      update fun s => s.removeEntry e
      let outcome ← applyAction seq e
      match outcome with
      | some r => complete e.addr (lateCode e.late r.1) seq r.2 e.notify
      | none => pure ()) := by
    refine aloof_bind (aloof_update fun _ => rfl) fun _ => aloof_bind (applyAction_aloof _ _) fun outcome => ?_
    cases outcome with
    | some r => exact complete_aloof _ _ _ _ _
    | none => exact aloof_pure _
  exact aloof_getState_bind (fun _ => rfl) fun s =>
    aloof_ite (aloof_bind (endTransferFor_aloof e) fun _ => hrest) hrest

theorem applyUnit_aloof (f : Flight) : Aloof p q (applyUnit f) := by
  refine aloof_getState_bind (fun _ => rfl) fun s => ?_
  cases s.dueEntry f.count with
  | some e => exact aloof_bind (applyEntry_aloof _ _) fun _ => setFlight_aloof _
  | none => exact setFlight_aloof _

/-! ### Stages 2 and 3 -/

theorem readRefBlocks_aloof (g : Geometry) (seq : Word) (r n : Nat) : Aloof p q (readRefBlocks g seq r n) := by
  induction n generalizing r with
  | zero => exact aloof_pure _
  | succ n ih => exact aloof_bind (readWords_aloof _ _) fun _ => aloof_bind (ih _) fun _ => aloof_pure _

theorem countedGap_beside (s : State) (k : Nat) : (s.beside p q).countedGap k = (s.countedGap k).beside p q := by
  unfold State.countedGap
  split <;> rfl

theorem pushed_beside (s : State) (k : Nat) (blocks : List (List Int)) :
    (s.beside p q).pushed k blocks = (s.pushed k blocks).beside p q := by
  unfold State.pushed
  rw [countedGap_beside]
  rfl

theorem pushUnit_aloof (f : Flight) : Aloof p q (pushUnit f) :=
  aloof_getState_bind (fun _ => rfl) fun _ => aloof_bind (readRefBlocks_aloof _ _ _ _) fun _ =>
    aloof_bind (aloof_update fun s => pushed_beside s _ _) fun _ => aloof_bind (writeGapTotalAfter_aloof _) fun _ => setFlight_aloof _

theorem estimateUnit_aloof (f : Flight) (c : Nat) : Aloof p q (estimateUnit f c) :=
  aloof_getState_bind (fun _ => rfl) fun _ => aloof_bind (readWords_aloof _ _) fun _ =>
    aloof_ite (setFlight_aloof _) (setFlight_aloof _)

theorem engineFoundParity_aloof (c j : Nat) : Aloof p q (engineFoundParity c j) := by
  refine aloof_bind (aloof_update fun _ => rfl) fun _ => aloof_getState_bind (fun _ => rfl) fun s => ?_
  cases s.transfer with
  | none => exact aloof_pure _
  | some u => exact aloof_ite (endCaptureFailed_aloof _ _) (aloof_pure _)

theorem filterRead_aloof (f : Flight) (c left : Nat) : Aloof p q (filterRead f c left) := by
  refine aloof_getState_bind (fun _ => rfl) fun s => aloof_bind (readSlot_aloof _) fun r => ?_
  have hrest : Aloof p q
      (update fun t => t.setFlight (t.flight.map fun g => g.afterRead c r (f.asksAfterRead c s.geo.mics left))) :=
    aloof_update fun _ => rfl
  exact aloof_ite (aloof_bind (engineFoundParity_aloof _ _) fun _ => hrest) hrest

theorem filterUnit_aloof (f : Flight) (c : Nat) : Aloof p q (filterUnit f c) := by
  refine aloof_getState_bind (fun _ => rfl) fun s => aloof_ite ?_ (filterRead_aloof _ _ _)
  exact aloof_getState_bind (fun _ => rfl) fun _ => aloof_bind freshUse_aloof fun _ => setFlight_aloof _

/-! ### Stages 5 to 8 -/

theorem adaptSlot_aloof (ctx : Channel) (err : List Int) (c j : Nat) : Aloof p q (adaptSlot ctx err c j) := by
  refine aloof_getState_bind (fun _ => rfl) fun s => aloof_bind (readSlot_aloof _) fun r => ?_
  have hrest : Aloof p q (do
      let n ← freshUse
      update fun t => t.writeSlot ((s.extent c).base + j)
        (updatedParts n (stepSize ctx) s.history.power (s.history.paired s.geo.refs j) err r.1)
      pure r.2) :=
    aloof_bind freshUse_aloof fun _ => aloof_bind (aloof_update fun _ => rfl) fun _ => aloof_pure _
  exact aloof_ite (aloof_bind (aloof_update fun _ => rfl) fun _ => hrest) hrest

theorem adaptUnit_aloof (f : Flight) (todo : List (Nat × Nat)) : Aloof p q (adaptUnit f todo) := by
  cases todo with
  | nil => exact setFlight_aloof _
  | cons cj rest => exact aloof_bind (adaptSlot_aloof _ _ _ _) fun _ => setFlight_aloof _

theorem commitUnit_aloof (f : Flight) (c : Nat) : Aloof p q (commitUnit f c) := by
  refine aloof_update fun s => ?_
  have hdiverges : (s.beside p q).divergesIn f c = s.divergesIn f c := rfl
  have hcommits : (s.beside p q).commits f c = s.commits f c := rfl
  simp only [hdiverges, hcommits]
  split_ifs <;> rfl

theorem zeroingUnit_aloof (f : Flight) (c k : Nat) : Aloof p q (zeroingUnit f c k) := by
  refine aloof_update fun s => ?_
  have hextent : (s.beside p q).extent c = s.extent c := rfl
  have hqueue : ∀ (t : State) (x : Channel), (t.beside p q).requeueDiverged c x = (t.requeueDiverged c x).beside p q := fun t x => by
    unfold State.requeueDiverged
    split <;> rfl
  have hcommit : ∀ x : Channel, (s.beside p q).commitChan c x = (s.commitChan c x).beside p q := fun x => rfl
  simp only [hextent, hcommit, hqueue, setSlot_beside]
  generalize Slot.zero = v
  split_ifs <;> rfl

theorem suppressUnit_aloof (f : Flight) (c : Nat) : Aloof p q (suppressUnit f c) := by
  refine aloof_update fun s => ?_
  by_cases h : (f.ctx c).state = .off
  · simp only [if_pos h]
    rfl
  · simp only [if_neg h]
    rfl

theorem outputUnit_aloof (f : Flight) (c : Nat) : Aloof p q (outputUnit f c) :=
  aloof_getState_bind (fun _ => rfl) fun _ => aloof_bind (writeWords_aloof _ _) fun _ => setFlight_aloof _

theorem writeRecords_aloof (f : Flight) (c n : Nat) : Aloof p q (writeRecords f c n) := by
  induction n generalizing c with
  | zero => exact aloof_pure _
  | succ n ih => exact aloof_getState_bind (fun _ => rfl) fun _ => aloof_bind (writeWords_aloof _ _) fun _ => ih _

theorem reportUnit_aloof (f : Flight) : Aloof p q (reportUnit f) :=
  aloof_getState_bind (fun _ => rfl) fun _ => aloof_bind (writeWords_aloof _ _) fun _ => aloof_bind (aloof_update fun _ => rfl) fun _ =>
    aloof_bind (writeRecords_aloof _ _ _) fun _ => setFlight_aloof _

theorem statusUnit_aloof (f : Flight) : Aloof p q (statusUnit f) := aloof_bind (writeStatus_aloof _ _) fun _ => setFlight_aloof _

/-- No unit of the frame touches the waiting commands or the intake. -/
theorem frameUnit_aloof (f : Flight) : Aloof p q (frameUnit f) := by
  unfold frameUnit
  cases f.phase with
  | apply => exact applyUnit_aloof f
  | push => exact pushUnit_aloof f
  | estimate c => exact estimateUnit_aloof f c
  | filter c => exact filterUnit_aloof f c
  | decide => exact aloof_update fun _ => rfl
  | walk => exact aloof_update fun _ => rfl
  | adapt todo => exact adaptUnit_aloof f todo
  | commit c => exact commitUnit_aloof f c
  | zeroing c k => exact zeroingUnit_aloof f c k
  | suppress c => exact suppressUnit_aloof f c
  | output c => exact outputUnit_aloof f c
  | report => exact reportUnit_aloof f
  | status => exact statusUnit_aloof f
  | count => exact aloof_pure _

/-! ### The cycle check -/

theorem idleCheck_aloof (byStep : Bool) : Aloof p q (idleCheck byStep) :=
  aloof_ite (aloof_update fun _ => rfl) (aloof_bind (aloof_update fun _ => rfl) fun _ => writeIdleTotal_aloof)

theorem countedGapPush_aloof (k : Nat) : Aloof p q (countedGapPush k) :=
  aloof_bind (aloof_update fun s => countedGap_beside s k) fun _ => writeGapTotalAfter_aloof k

theorem dropFrames_aloof (d : Nat) : Aloof p q (dropFrames d) :=
  aloof_bind (aloof_update fun _ => rfl) fun _ => aloof_bind writeTaken_aloof fun _ => aloof_getState_bind (fun _ => rfl) fun _ =>
    aloof_bind (writeDone_aloof _) fun _ => aloof_bind writeDropTotal_aloof fun _ => countedGapPush_aloof d

theorem advanceDone_aloof : Aloof p q advanceDone :=
  aloof_getState_bind (fun _ => rfl) fun _ => aloof_bind (writeDone_aloof _) fun _ => aloof_update fun _ => rfl

theorem mismatchFrame_aloof (notify byStep : Bool) : Aloof p q (mismatchFrame notify byStep) :=
  aloof_bind (countedGapPush_aloof 1) fun _ => aloof_getState_bind (fun _ => rfl) fun _ => aloof_bind (writeStatus_aloof _ _) fun _ =>
    aloof_bind advanceDone_aloof fun _ => aloof_bind (noticeIf_aloof _) fun _ =>
      aloof_ite (aloof_update fun _ => rfl) (aloof_pure _)

theorem takeFrame_aloof (byStep : Bool) : Aloof p q (takeFrame byStep) :=
  aloof_bind (aloof_update fun _ => rfl) fun _ => aloof_bind writeTaken_aloof fun _ => aloof_getState_bind (fun _ => rfl) fun _ =>
    aloof_bind (readWords_aloof _ _) fun _ => aloof_ite (aloof_update fun _ => rfl) (mismatchFrame_aloof _ _)

theorem cycleCheck_aloof (byStep : Bool) : Aloof p q (cycleCheck byStep) := by
  refine aloof_bind takeReadyEnd_aloof fun _ => aloof_getState_bind (fun _ => rfl) fun s => ?_
  refine aloof_bind (readWord_aloof _) fun fill => aloof_getState_bind (fun _ => rfl) fun t => ?_
  refine aloof_ite (idleCheck_aloof byStep) ?_
  exact aloof_ite (aloof_bind (dropFrames_aloof _) fun _ => takeFrame_aloof byStep) (takeFrame_aloof byStep)

/-! ### The intake's units, beside the waiting commands alone -/

theorem cancelStep_aloof (r : Record) (d : Word) : Aloof p q (cancelStep r d) := by
  refine aloof_getState_bind (fun _ => rfl) fun s => ?_
  cases s.table.find? (fun e => decide (e.addr = r.target)) with
  | none => exact complete_aloof _ _ _ _ _
  | some e => exact aloof_bind (complete_aloof _ _ _ _ _) fun _ => aloof_bind (aloof_update fun _ => rfl) fun _ => complete_aloof _ _ _ _ _

theorem recordStep_aloof (r : Record) (d : Word) : Aloof p q (recordStep r d) := by
  refine aloof_getState_bind (fun _ => rfl) fun s => ?_
  cases r.refusal s d with
  | some refusal => exact complete_aloof _ _ _ _ _
  | none =>
    cases r.action with
    | some action => exact aloof_update fun _ => rfl
    | none =>
      exact aloof_ite (cancelStep_aloof r d) (aloof_getState_bind (fun _ => rfl) fun _ =>
        aloof_bind (aloof_update fun _ => rfl) fun _ => complete_aloof _ _ _ _ _)

theorem candidate_aloof : Aloof p q candidate := by
  refine aloof_getState_bind (fun _ => rfl) fun s => ?_
  cases s.anchor with
  | none => exact aloof_pure _
  | some a => exact readWord_aloof _

theorem look_aloof : Aloof p q look :=
  aloof_bind candidate_aloof fun _ => aloof_getState_bind (fun _ => rfl) fun _ => aloof_ite (aloof_pure _)
    (aloof_ite (fun _ => rfl) (aloof_bind (aloof_bind (readWords_aloof _ _) fun _ => aloof_pure _) fun _ =>
      aloof_ite (aloof_bind (writeLanes_aloof _ _) fun _ => aloof_bind (aloof_update fun _ => rfl) fun _ => aloof_pure _)
        (aloof_pure _)))

theorem closeIntake_aloof : Aloof p id closeIntake := aloof_update fun _ => rfl

theorem intakeUnit_aloof : Aloof p id intakeUnit := by
  refine aloof_getState_bind (fun _ => rfl) fun s => ?_
  cases s.intake with
  | none => exact aloof_pure _
  | some i =>
    cases hi : i.inHand with
    | some r =>
      simp only [hi]
      exact aloof_bind (recordStep_aloof _ _) fun _ => aloof_ite closeIntake_aloof (aloof_update fun _ => rfl)
    | none =>
      simp only [hi]
      refine aloof_bind look_aloof fun found => ?_
      cases found with
      | none => exact closeIntake_aloof
      | some r => exact aloof_update fun _ => rfl

/-- The block's own progress does not touch the waiting commands. -/
theorem progress_aloof : Aloof p id progress := by
  refine aloof_getState_bind (fun _ => rfl) fun s => aloof_ite intakeUnit_aloof ?_
  cases s.flight with
  | some f => exact frameUnit_aloof f
  | none => exact aloof_ite (aloof_bind (aloof_update fun _ => rfl) fun _ => cycleCheck_aloof true) (aloof_pure _)

end

/-! ### What it leaves -/

section
variable {α : Type} {w : Work α} {s t : State} {a : α} {f : EngineFault}

theorem beside_self (s : State) : s.beside (fun _ => s.pending) (fun _ => s.intake) = s := rfl

/-- Aloof work leaves the waiting commands. -/
theorem Aloof.pending (h : ∀ p, Aloof p id w) (e : w s = .ok a t) : t.pending = s.pending := by
  have hs := h (fun _ => s.pending) s
  have hself : s.beside (fun _ => s.pending) id = s := rfl
  rw [hself, e, besideOf, EStateM.Result.ok.injEq] at hs
  rw [hs.2]
  rfl

/-- Aloof work leaves the intake. -/
theorem Aloof.intake (h : ∀ p q, Aloof p q w) (e : w s = .ok a t) : t.intake = s.intake := by
  have hs := h (fun _ => s.pending) (fun _ => s.intake) s
  rw [beside_self, e, besideOf, EStateM.Result.ok.injEq] at hs
  rw [hs.2]
  rfl

/-- Aloof work makes the same with another intake. -/
theorem Aloof.setIntake_ok (h : ∀ p q, Aloof p q w) (e : w s = .ok a t) (i : Option Intake) :
    w (s.setIntake i) = .ok a (t.setIntake i) := by
  have hs := h id (fun _ => i) s
  rw [e, besideOf] at hs
  exact hs

theorem Aloof.setIntake_error (h : ∀ p q, Aloof p q w) (e : w s = .error f t) (i : Option Intake) :
    w (s.setIntake i) = .error f (t.setIntake i) := by
  have hs := h id (fun _ => i) s
  rw [e, besideOf] at hs
  exact hs

/-- A fault ends the intake: it is raised alike, whatever intake was in progress. -/
theorem raise_setIntake (t : State) (i : Option Intake) (f : EngineFault) : (t.setIntake i).raise f = t.raise f := rfl

/-- Aloof work made with the intake taken away, and the intake put back, unless a fault has ended it. -/
theorem Aloof.settle_put_back (h : ∀ p q, Aloof p q w) (hengine : ∀ a t, w s = .ok a t → t.engine ≠ .faulted) (i : Option Intake) :
    settle w s = if (settle w (s.setIntake i)).engine = .faulted then settle w (s.setIntake i)
      else (settle w (s.setIntake i)).setIntake s.intake := by
  cases e : w s with
  | ok a t =>
    have hi : t.intake = s.intake := Aloof.intake h e
    have hne : ¬ (t.setIntake i).engine = .faulted := hengine a t e
    simp only [settle, e, Aloof.setIntake_ok h e i, if_neg hne]
    rw [← hi]
    rfl
  | error f t =>
    have hfaulted : ((t.setIntake i).raise f).engine = .faulted := rfl
    simp only [settle, e, Aloof.setIntake_error h e i, if_pos hfaulted]
    rfl

end

end Sys2Proof.Machine
end

section
/-! Ticks and their plans (R34, R137, R171): every unit a tick makes is one that the block's own progress would make. -/

namespace Sys2Proof.Machine

/-! ### Runs of units beside the waiting commands -/

section
variable {p : List Instr → List Instr} {q : Option Intake → Option Intake}

theorem stageUnit_aloof : Aloof p q stageUnit := by
  refine aloof_getState_bind (fun _ => rfl) fun s => ?_
  cases s.flight with
  | none => exact aloof_pure _
  | some f => exact aloof_ite (aloof_pure _) (frameUnit_aloof f)

theorem runStages_aloof (n : Nat) : Aloof p q (runStages n) := by
  induction n with
  | zero => exact aloof_pure _
  | succ n ih =>
    refine aloof_getState_bind (fun _ => rfl) fun s => ?_
    cases s.flight with
    | none => exact aloof_pure _
    | some f => exact aloof_ite (aloof_pure _) (aloof_bind (frameUnit_aloof f) fun _ => ih)

theorem runPlan_aloof (plan : List Party) (due : Bool) : Aloof p id (runPlan plan due) := by
  induction plan generalizing due with
  | nil => exact aloof_pure _
  | cons party rest ih =>
    cases party with
    | intake => exact aloof_bind intakeUnit_aloof fun _ => ih due
    | frame =>
      exact aloof_ite (aloof_bind (cycleCheck_aloof false) fun _ => ih false) (aloof_bind stageUnit_aloof fun _ => ih false)

theorem runStep_aloof (n : Nat) : Aloof p id (runStep n) := by
  induction n with
  | zero => exact aloof_pure _
  | succ n ih => exact aloof_getState_bind (fun _ => rfl) fun s => aloof_ite (aloof_bind progress_aloof fun _ => ih) (aloof_pure _)

theorem busyTick_aloof : Aloof p q busyTick :=
  aloof_getState_bind (fun _ => rfl) fun _ => aloof_ite
    (aloof_bind (aloof_update fun _ => rfl) fun _ => aloof_getState_bind (fun _ => rfl) fun _ => writeWord_aloof _ _)
    (aloof_update fun _ => rfl)

end

/-! ### One unit of a party -/

section
variable {s m : State}

/-- A fault has ended whatever was in progress: neither party has anything left to do. -/
theorem makes_raised (t : State) (f : EngineFault) (party : Party) : (t.raise f).Makes party (t.raise f) := by
  cases party <;> rfl

theorem makes_intake (hpending : m.pending = []) (hengine : m.engine = .running ∨ m.engine = .stepWait) :
    m.Makes .intake (settle intakeUnit m) := by
  cases hi : m.intake with
  | none =>
    refine (if_pos hi).mpr ?_
    simp [settle, intakeUnit, hi]
  | some i =>
    refine (if_neg (by simp [hi])).mpr ?_
    exact step_intake hpending hengine hi

/-- With the intake taken away the next unit is the frame's. -/
theorem step_frame {f : Flight} (hpending : m.pending = []) (hworks : m.frameWorks = true) (hf : m.flight = some f) :
    step { m with intake := none } = .next (settle (frameUnit f) (m.setIntake none)) := by
  have hprogress : progress (m.setIntake none) = frameUnit f (m.setIntake none) := by simp [progress, hf]
  have hworks' : (m.setIntake none).frameWorks = true := hworks
  show step (m.setIntake none) = _
  simp [step, execIdle, hpending, hworks', settle, hprogress]

theorem ne_faulted_of_works (h : s.frameWorks = true) : s.engine ≠ .faulted := by
  intro hf
  simp [State.frameWorks, hf] at h

theorem makes_frame (hpending : m.pending = []) (hworks : m.frameWorks = true) : m.Makes .frame (settle stageUnit m) := by
  unfold State.Makes
  cases hf : m.flight with
  | none => simp [settle, stageUnit, hf]
  | some f =>
    by_cases hended : f.phase.stagesEnded = true
    · simp [settle, stageUnit, hf, hended]
    · have hstage : settle stageUnit m = settle (frameUnit f) m := by simp [settle, stageUnit, hf, hended]
      have hstep := step_frame hpending hworks hf
      simp only [hf] at hstep
      simp only [if_neg hended]
      refine ⟨_, hstep, ?_⟩
      rw [hstage]
      refine Aloof.settle_put_back (fun _ _ => frameUnit_aloof f) (fun a t e => ?_) none
      rw [Turns.engine ((does_frameUnit m f hf hworks).turns.ok e).1]
      exact ne_faulted_of_works hworks

/-- The unit a party makes in a plan. -/
def unitOf : Party → Work Unit
  | .intake => intakeUnit
  | .frame => stageUnit

theorem makes_unitOf (hpending : m.pending = []) (hengine : m.engine = .running) (party : Party) :
    m.Makes party (settle (unitOf party) m) := by
  cases party with
  | intake => exact makes_intake hpending (.inl hengine)
  | frame => exact makes_frame hpending (by simp [State.frameWorks, hengine])

/-! ### The check among the units -/

theorem checks_raised (t : State) (f : EngineFault) : (t.raise f).Checks (t.raise f) :=
  ⟨t.raise f, by simp [exec, execBlktick, State.raise], rfl⟩

theorem checks_running (hengine : m.engine = .running) (hf : m.flight = none) : m.Checks (settle (cycleCheck false) m) := by
  refine ⟨_, exec_justBegun_idle hengine hf, ?_⟩
  refine Aloof.settle_put_back (fun _ _ => cycleCheck_aloof false) (fun a t e => ?_) _
  rw [Turns.engine ((does_cycleCheck false m).ok e).1, hengine]
  decide

/-! ### Plans -/

/-- A plan with the check due leaves it due exactly when no unit of it is the frame's. -/
theorem runPlan_still {plan : List Party} {due still : Bool} {t : State} (h : runPlan plan due s = .ok still t) :
    still = (due && !decide (Party.frame ∈ plan)) := by
  induction plan generalizing due s with
  | nil =>
    simp only [runPlan, work_pure, EStateM.Result.ok.injEq] at h
    simp [h.1]
  | cons party rest ih =>
    cases party with
    | intake =>
      simp only [runPlan, work_bind] at h
      cases hu : intakeUnit s with
      | ok a u =>
        rw [hu] at h
        simpa using ih h
      | error f u => simp [hu] at h
    | frame =>
      have hrest : ∀ u : State, runPlan rest false u = .ok still t → still = false := fun u hu => by simpa using ih hu
      simp only [runPlan] at h
      cases due with
      | false =>
        simp only [Bool.false_eq_true, if_false, work_bind] at h
        cases hu : stageUnit s with
        | ok a u =>
          rw [hu] at h
          simpa using hrest u h
        | error f u => simp [hu] at h
      | true =>
        simp only [if_true, work_bind] at h
        cases hu : cycleCheck false s with
        | ok a u =>
          rw [hu] at h
          simpa using hrest u h
        | error f u => simp [hu] at h

/-- What a plan leaves of a running state. -/
theorem runPlan_running {plan : List Party} {due still : Bool} {t : State} (hengine : s.engine = .running)
    (h : runPlan plan due s = .ok still t) : t.engine = .running ∧ t.pending = s.pending :=
  ⟨(Turns.engine ((does_runPlan plan due s (by simp [State.frameWorks, hengine])).ok h).1).trans hengine,
    Aloof.pending (fun _ => runPlan_aloof plan due) h⟩

theorem runPlan_one_false (party : Party) : runPlan [party] false = (do unitOf party; pure false) := by
  cases party <;> rfl

/-- Units of the intake leave the frame, and the check due as it was. -/
theorem does_intakes (k : Nat) (due : Bool) (s : State) :
    Does Move (runPlan (List.replicate k .intake) due) s (fun still _ => still = due) := by
  induction k generalizing s with
  | zero => exact does_pure rfl
  | succ k ih => exact does_bind (does_intakeUnit s) fun _ t _ => ih t

/-- A run of intake units ends where the intake does. -/
theorem runPlan_intakes (n : Nat) (due : Bool) (s : State) :
    runPlan (List.replicate n .intake) due s = (do runIntake n; pure due) s := by
  induction n generalizing s with
  | zero => rfl
  | succ n ih =>
    cases hi : s.intake with
    | none =>
      have hdone : ∀ k, runIntake k s = .ok () s := fun k => by cases k <;> simp [runIntake, hi]
      have hunit : intakeUnit s = .ok () s := by simp [intakeUnit, hi]
      simp only [List.replicate_succ, runPlan, work_bind, hunit, ih, hdone, work_pure]
    | some i =>
      simp only [List.replicate_succ, runPlan, runIntake, work_bind, getState_apply, hi]
      cases intakeUnit s with
      | ok a t => simp only [ih, work_bind]
      | error f t => rfl

/-- A run of frame units with no check due makes units of the stages. -/
theorem runPlan_stages (n : Nat) (s : State) : runPlan (List.replicate n .frame) false s = (do runStages n; pure false) s := by
  induction n with
  | zero => rfl
  | succ n ih =>
    rw [List.replicate_succ', runPlan_append]
    simp only [work_bind, ih, runStages_last]
    cases runStages n s with
    | ok a t =>
      simp only [work_pure, runPlan, Bool.false_eq_true, if_false, work_bind]
    | error f t => rfl

/-- What is left of a tick after its busy check. -/
def restOfTick (timing : TickTiming) (due : Bool) : Work Unit := do
  let still ← runPlan timing.plan due
  if timing.finish then finishIntake else pure ()
  if still then cycleCheck false else pure ()
  if timing.finish then runStagesFor none else pure ()

theorem restOfTick_plan (plan : List Party) (due : Bool) (s : State) :
    restOfTick { plan := plan, finish := false } due s = (do
      let still ← runPlan plan due
      if still then cycleCheck false else pure ()) s := by
  simp only [restOfTick, Bool.false_eq_true, if_false, work_bind]
  cases runPlan plan due s with
  | ok still t =>
    cases still with
    | false => rfl
    | true =>
      simp only [if_true, work_bind]
      cases cycleCheck false t <;> rfl
  | error f t => rfl

/-- A tick of a busy cycle, and then the intake it brings. -/
def tickBegin : Work Unit := do
  let s ← getState
  if s.frameBusy then busyTick else pure ()
  beginIntake

theorem tickWork_eq (timing : TickTiming) (s : State) :
    tickWork timing s = (do tickBegin; restOfTick timing (!s.frameBusy)) s := by
  cases hb : s.frameBusy with
  | false => simp only [tickWork, tickBegin, restOfTick, work_bind, getState_apply, hb, Bool.false_eq_true, if_false]
  | true =>
    simp only [tickWork, tickBegin, restOfTick, work_bind, getState_apply, hb, if_true]
    cases busyTick s <;> rfl

theorem tickBegin_ok {t : State} (h : tickBegin s = .ok () t) : t.engine = s.engine ∧ t.pending = s.pending := by
  have hkept : ∀ u : State, u.engine = s.engine ∧ u.pending = s.pending → beginIntake u = .ok () t →
      t.engine = s.engine ∧ t.pending = s.pending := fun u hu he => by
    rw [beginIntake_apply] at he
    obtain ⟨-, rfl⟩ := EStateM.Result.ok.inj he
    exact hu
  cases hb : s.frameBusy with
  | false =>
    simp only [tickBegin, work_bind, getState_apply, hb, Bool.false_eq_true, if_false] at h
    exact hkept s ⟨rfl, rfl⟩ h
  | true =>
    simp only [tickBegin, work_bind, getState_apply, hb, if_true] at h
    cases hu : busyTick s with
    | ok a u =>
      rw [hu] at h
      exact hkept u ⟨(Moves.sameClock ((does_busyTick s).ok hu).1).engine, Aloof.pending (fun _ => busyTick_aloof) hu⟩ h
    | error f u => simp [hu] at h

/-- A tick that finishes makes the plan's units, then those of the intake, then the check, then those of the stages. -/
theorem restOfTick_finish (plan : List Party) (due : Bool) (s : State) (n : Nat)
    (hn : n = if (due && !decide (Party.frame ∈ plan)) = true then Config.frameFuel + 1 else Config.frameFuel) :
    restOfTick { plan := plan, finish := true } due s =
      restOfTick { plan := plan ++ List.replicate Config.intakeFuel .intake ++ List.replicate n .frame, finish := false } due s := by
  rw [restOfTick_plan, runPlan_append, runPlan_append]
  simp only [restOfTick, if_true, work_bind, finishIntake]
  cases hplan : runPlan plan due s with
  | error f t => rfl
  | ok still t =>
    rw [← runPlan_still hplan] at hn
    simp only [runPlan_intakes, work_bind]
    cases runIntake Config.intakeFuel t with
    | error f u => rfl
    | ok a u =>
      simp only [work_pure, runStagesFor, Option.getD_none]
      subst hn
      cases still with
      | false =>
        simp only [Bool.false_eq_true, if_false, runPlan_stages, work_bind, work_pure]
        cases runStages Config.frameFuel u <;> rfl
      | true =>
        simp only [if_true, List.replicate_succ, runPlan, work_bind]
        cases cycleCheck false u with
        | error f v => rfl
        | ok b v =>
          simp only [runPlan_stages, work_bind, work_pure]
          cases runStages Config.frameFuel v <;> rfl

end

end Sys2Proof.Machine

namespace Sys2Proof

open Sys2Proof.Machine

/-- The tick that takes a frame or finds a mismatch: O13's first half. -/
theorem justBegun_taking {s : State} (h : s.engine = .running) (hf : s.flight = none) (hquiet : s.Quiet) (hready : s.NoEndReady)
    (hb : 0 < signedDiff s.fillCount s.done) (hl : signedDiff s.fillCount s.done ≤ s.geo.latency) :
    (Apart (s.geo.slotOf s.done) 8 (s.pageField 0x3C) 4 → memWord s.mem (s.geo.slotOf s.done) = s.done →
      ∃ t, exec (.blktick justBegun) s = .next t ∧ { s with intake := some s.broughtIntake }.TakesFrame t false) ∧
    (Apart (s.geo.slotOf s.done) 8 s.xbase.toNat 128 → memWord s.mem (s.geo.slotOf s.done) ≠ s.done →
      ∃ t, exec (.blktick justBegun) s = .next t ∧ { s with intake := some s.broughtIntake }.FindsMismatch t false) := by
  have hcheck := fun t (ht : takeFrame false (s.setIntake (some s.broughtIntake)) = .ok () t) => show
      exec (.blktick justBegun) s = .next t by
    rw [exec_justBegun_idle h hf, settle, cycleCheck_takes (s := s.setIntake (some s.broughtIntake)) false hquiet hready hb hl, ht]
  refine ⟨fun hslot hseq => ⟨_, hcheck _ (takeFrame_takes false hquiet hslot hseq), takesFrame_frameTaken _ _⟩, fun hpage hseq => ?_⟩
  exact ⟨_, hcheck _ (takeFrame_mismatch false hquiet (apart_page hpage (by omega)) hseq), findsMismatch_mismatched _ hpage⟩

/-- The planned tick's result, from the states its parts leave. -/
theorem exec_planned {s : State} (h : s.engine = .running) (plan : List Party) :
    exec (.blktick { plan := plan, finish := false }) s = .next (settle (do
      tickBegin
      let still ← runPlan plan (!s.frameBusy)
      if still then cycleCheck false else pure ()) s) := by
  rw [exec_blktick_running _ h, settle, settle, tickWork_eq]
  simp only [work_bind]
  cases tickBegin s with
  | error f t => rfl
  | ok a t => simp only [restOfTick_plan, work_bind]

/-- A tick within which the check has been made: each unit more of the plan is one unit more of its party. -/
theorem planned_unit {s m : State} (hpending : s.pending = []) (h : s.engine = .running) {plan : List Party}
    (hplan : s.flight.isSome = true ∨ .frame ∈ plan) (hm : exec (.blktick { plan := plan, finish := false }) s = .next m) (party : Party) :
    ∃ t, m.Makes party t ∧ exec (.blktick { plan := plan ++ [party], finish := false }) s = .next t := by
  have hdone : (!s.frameBusy && !decide (Party.frame ∈ plan)) = false := by
    rcases hplan with hf | hf
    · simp [State.frameBusy, hf]
    · simp [hf]
  rw [exec_planned h] at hm ⊢
  obtain rfl := Host.Outcome.next.inj hm
  simp only [settle, work_bind]
  cases hbegin : tickBegin s with
  | error f t => exact ⟨_, makes_raised t f party, rfl⟩
  | ok a u =>
    obtain ⟨hengine, hpend⟩ := tickBegin_ok hbegin
    simp only [runPlan_append, work_bind]
    cases hrun : runPlan plan (!s.frameBusy) u with
    | error f t => exact ⟨_, makes_raised t f party, rfl⟩
    | ok still t =>
      obtain ⟨hrunning, hpend'⟩ := runPlan_running (hengine.trans h) hrun
      have hstill : still = false := (runPlan_still hrun).trans hdone
      subst hstill
      refine ⟨settle (unitOf party) t, makes_unitOf ((hpend'.trans hpend).trans hpending) hrunning party, ?_⟩
      simp only [runPlan_one_false, work_bind, settle]
      cases unitOf party t <;> rfl

/-- The state after `k` units of the intake of a tick that finds no cycle busy. -/
def afterIntakes (s : State) (k : Nat) : State :=
  settle (runPlan (List.replicate k .intake) true) (s.setIntake (some s.broughtIntake))

theorem afterIntakes_spec {s : State} (hpending : s.pending = []) (h : s.engine = .running) (hf : s.flight = none) (k : Nat) :
    (afterIntakes s k).Makes .intake (afterIntakes s (k + 1)) ∧
      ∃ t, (afterIntakes s k).Checks t ∧ exec (.blktick { plan := List.replicate k .intake, finish := false }) s = .next t ∧
        exec (.blktick { plan := List.replicate k .intake ++ [.frame], finish := false }) s = .next t := by
  have hidle : s.frameBusy = false := by simp [State.frameBusy, hf]
  have hbegin : tickBegin s = .ok () (s.setIntake (some s.broughtIntake)) := by simp [tickBegin, hidle, beginIntake_apply]
  rw [exec_planned h, exec_planned h]
  simp only [afterIntakes, settle, List.replicate_succ', runPlan_append, work_bind, hbegin, hidle, Bool.not_false]
  cases hrun : runPlan (List.replicate k .intake) true (s.setIntake (some s.broughtIntake)) with
  | error f t => exact ⟨makes_raised t f _, _, checks_raised t f, rfl, rfl⟩
  | ok still t =>
    obtain ⟨hmoves, rfl⟩ := (does_intakes k true _).ok hrun
    have hclock := Moves.sameClock hmoves
    obtain ⟨hengine, hpend⟩ := runPlan_running (s := s.setIntake (some s.broughtIntake)) h hrun
    have hflight : t.flight = none := hclock.flight_none hf
    refine ⟨?_, settle (cycleCheck false) t, checks_running hengine hflight, ?_, ?_⟩
    · have hmakes := makes_intake (hpend.trans hpending) (.inl hengine)
      simp only [settle] at hmakes
      simp only [runPlan, work_bind]
      cases hu : intakeUnit t with
      | ok a u => simpa [hu] using hmakes
      | error f u => simpa [hu] using hmakes
    · simp only [if_true, settle]
    · simp only [runPlan, if_true, work_bind, settle]
      cases cycleCheck false t <;> rfl

/-- Settles O13. -/
theorem tickTakesTheFrame : Obligations.TickTakesTheFrame := by
  refine ⟨fun s h hf hquiet hready _ hb hl => justBegun_taking h hf hquiet hready hb hl, fun s hpending h => ?_⟩
  refine ⟨fun hf => ⟨afterIntakes s, rfl, fun k => afterIntakes_spec hpending h hf k⟩,
    fun plan hplan m hm party => planned_unit hpending h hplan hm party, fun plan => ?_⟩
  have hcount : (if s.flight.isSome = true ∨ .frame ∈ plan then 16384 else 16385) =
      if (!s.frameBusy && !decide (Party.frame ∈ plan)) = true then Config.frameFuel + 1 else Config.frameFuel := by
    by_cases hd : s.flight.isSome = true ∨ .frame ∈ plan
    · rw [if_pos hd, if_neg]
      · rfl
      · rcases hd with hd | hd
        · simp [State.frameBusy, hd]
        · simp [hd]
    · rw [if_neg hd, if_pos]
      · rfl
      · obtain ⟨hflight, hplan⟩ := not_or.mp hd
        simp [State.frameBusy, hflight, hplan]
  generalize (if s.flight.isSome = true ∨ .frame ∈ plan then 16384 else 16385) = n at hcount ⊢
  show exec (.blktick { plan := plan, finish := true }) s =
    exec (.blktick { plan := plan ++ List.replicate 32 .intake ++ List.replicate n .frame, finish := false }) s
  rw [exec_blktick_running _ h, exec_blktick_running _ h, settle, settle, tickWork_eq, tickWork_eq]
  simp only [work_bind]
  cases tickBegin s with
  | error f t => rfl
  | ok a t =>
    simp only [restOfTick_finish plan (!s.frameBusy) t _ hcount]
    rfl

end Sys2Proof
end

section
/-! STEP (R182) and the end of a frame cycle (R170, R174, R183): their units are the block's own progress, and their ends. -/

namespace Sys2Proof.Machine

section
variable {s m t : State} {f : Flight}

/-! ### A STEP's units (R138, R182) -/

/-- The state in which the units of a STEP begin. -/
def State.stepBegun (s : State) : State :=
  { s with ignored := false, stepResult := .none, stepDue := true, intake := some s.broughtIntake }

theorem exec_step_units (h : s.engine = .stepWait) (hf : s.flight = none) (u : Option Nat) :
    exec (.step u) s = .next (settle (runStep (u.getD 16417)) s.stepBegun) := by
  have htakes : s.takes .step = true := by simp [State.takes, State.frameBusy, h, hf]
  have hwork : stepWork u s.heed = runStep (u.getD 16417) s.stepBegun := rfl
  simp only [exec, execStep, State.attempt, htakes, if_true, State.act, settle, hwork]

theorem settle_runStep_ok {n : Nat} (h : runStep n s = .ok () t) :
    settle (runStep (n + 1)) s = if t.stepGoesOn then settle progress t else t := by
  simp only [settle, runStep_last, work_bind, h, getState_apply]
  split_ifs <;> rfl

theorem settle_runStep_error {n : Nat} {fault : EngineFault} (h : runStep n s = .error fault t) :
    settle (runStep (n + 1)) s = t.raise fault := by
  simp only [settle, runStep_last, work_bind, h]

theorem raised_goesOn (t : State) (f : EngineFault) : (t.raise f).stepGoesOn = false := rfl

/-- What the units of a STEP leave of the state. -/
theorem runStep_kept {n : Nat} (hworks : s.frameWorks = true) (h : runStep n s = .ok () t) :
    t.frameWorks = true ∧ t.pending = s.pending :=
  ⟨(frameWorks_congr (Turns.engine ((does_runStep n s hworks).ok h).1)).trans hworks, Aloof.pending (fun _ => runStep_aloof n) h⟩

/-- Each unit more of a STEP is one unit more of the block's own progress. -/
theorem exec_step_next (h : s.engine = .stepWait) (hf : s.flight = none) (hpending : s.pending = []) {n : Nat}
    (hm : exec (.step (some n)) s = .next m) :
    exec (.step (some (n + 1))) s = if m.stepGoesOn then step m else .next m := by
  rw [exec_step_units h hf] at hm ⊢
  simp only [Option.getD_some] at hm ⊢
  cases hrun : runStep n s.stepBegun with
  | error f t =>
    rw [settle_runStep_error hrun]
    simp only [settle, hrun] at hm
    obtain rfl := Host.Outcome.next.inj hm
    simp [raised_goesOn]
  | ok a t =>
    rw [settle_runStep_ok hrun]
    simp only [settle, hrun] at hm
    obtain rfl := Host.Outcome.next.inj hm
    obtain ⟨hworks, hpend⟩ := runStep_kept (s := s.stepBegun) (by simp [State.frameWorks, State.stepBegun, h]) hrun
    have hstep : step t = .next (settle progress t) := by
      simp [step, execIdle, hworks, show t.pending = [] from hpend.trans hpending]
    simp only [hstep]
    split_ifs <;> rfl

/-- With an empty chain, the first unit of a STEP ends its intake, and the second is its check. -/
theorem runStep_rest (h : s.engine = .stepWait) (hrest : s.AtRest) (hi : s.intake = some freshIntake) (hdue : s.stepDue = true) (n : Nat) :
    runStep (n + 2) s = (do cycleCheck true; runStep n) ((s.setIntake none).setStepDue false) := by
  have hf : s.flight = none := hrest.2.2.2.1
  have hgoes : s.stepGoesOn = true := by simp [State.stepGoesOn, hi]
  have hfirst : progress s = .ok () (s.setIntake none) := by
    have : progress s = intakeUnit s := by simp [progress, h, hi]
    rw [this, intakeUnit_rest hrest]
  have hgoes' : (s.setIntake none).stepGoesOn = true := by simp [State.stepGoesOn, hf, hdue]
  have hsecond : progress (s.setIntake none) = cycleCheck true ((s.setIntake none).setStepDue false) := by
    simp [progress, hf, hdue, stepCheck]
  simp only [runStep_succ (n + 1) s hgoes, work_bind, hfirst, runStep_succ n _ hgoes', hsecond]

theorem runStep_stops (n : Nat) (hi : s.intake = none) (hf : s.flight = none) (hdue : s.stepDue = false) : runStep n s = .ok () s :=
  runStep_ends n s (by simp [State.stepGoesOn, hi, hf, hdue])

/-! ### The end of a frame cycle (R174, R183) -/

theorem exec_frameCycleEnd (hworks : s.frameWorks = true) (hf : s.flight = some f) (u : Option Nat) :
    exec (.frameCycleEnd u) s = .next (settle (endFrame u) s) := by
  have hbusy : s.frameBusy = true := by simp [State.frameBusy, hf]
  simp [exec, execFrameCycleEnd, hworks, hbusy]

theorem exec_frameCycleEnd_idle (h : s.frameWorks = false ∨ s.flight = none) (u : Option Nat) :
    exec (.frameCycleEnd u) s = .next s := by
  rcases h with h | h
  · simp [exec, execFrameCycleEnd, h]
  · simp [exec, execFrameCycleEnd, State.frameBusy, h]

/-- With no intake in progress the block's own progress is the frame's next unit. -/
theorem step_frameUnit (hpending : s.pending = []) (hworks : s.frameWorks = true) (hi : s.intake = none) (hf : s.flight = some f) :
    step s = .next (settle (frameUnit f) s) := by
  have hprogress : progress s = frameUnit f s := by simp [progress, hi, hf]
  simp [step, execIdle, hpending, hworks, settle, hprogress]

/-- The units that lead to the done count are those that the command makes first; or a fault of one of them is the command's too. -/
theorem runToCount_reaches {n : Nat} (h : s.ReachesCount n t) (hpending : s.pending = []) (hworks : s.frameWorks = true)
    (hi : s.intake = none) (hf : s.flight.isSome = true) {N : Nat} (hn : n ≤ N) :
    (runToCount N s = .ok () t ∧ t.frameWorks = true ∧ ∃ g, t.flight = some g ∧ g.phase = .count) ∨
      ∃ fault x, runToCount N s = .error fault x ∧ t = x.raise fault := by
  induction n generalizing s N with
  | zero =>
    obtain ⟨rfl, hcount⟩ := h
    obtain ⟨g, hg⟩ := Option.isSome_iff_exists.mp hf
    exact .inl ⟨runToCount_stops N s g hg (hcount g hg), hworks, g, hg, hcount g hg⟩
  | succ n ih =>
    obtain ⟨⟨g, hg, hphase⟩, m, hstep, hrest⟩ := h
    obtain ⟨N, rfl⟩ : ∃ k, N = k + 1 := ⟨N - 1, by omega⟩
    rw [step_frameUnit hpending hworks hi hg] at hstep
    obtain rfl := Host.Outcome.next.inj hstep
    rw [runToCount_succ N s g hg hphase]
    simp only [work_bind]
    cases hu : frameUnit g s with
    | error fault x =>
      simp only [settle, hu] at hrest
      refine .inr ⟨fault, x, rfl, ?_⟩
      cases n with
      | zero => exact hrest.1.symm
      | succ n =>
        obtain ⟨⟨g', hg', -⟩, -⟩ := hrest
        simp [State.raise] at hg'
    | ok a x =>
      simp only [settle, hu] at hrest
      obtain ⟨hmoves, -⟩ := (does_frameUnit s g hg hworks).ok hu
      have hclock := Moves.sameClock hmoves
      have hbusy : x.flight.isSome = true := by
        have := congrArg Option.isSome hclock.2.2.2.2.2.2
        simpa [hg] using this
      exact ih hrest ((Aloof.pending (fun _ => frameUnit_aloof g) hu).trans hpending) ((frameWorks_congr hclock.engine).trans hworks)
        ((Aloof.intake (fun _ _ => frameUnit_aloof g) hu).trans hi) hbusy (by omega)

/-- A command whose units lead to the done count goes on from there. -/
theorem endFrame_reached (u : Option Nat) (h : runToCount Config.frameFuel s = .ok () t) (hf : t.flight = some f) (hp : f.phase = .count) :
    endFrame u s = (do closeFrame f; afterFrame u) t := by
  simp only [endFrame, work_bind, h, getState_apply, hf, if_pos hp]

/-- From the done count on, the command closes the frame. -/
theorem endFrame_count (u : Option Nat) (hf : s.flight = some f) (hp : f.phase = .count) :
    endFrame u s = (do closeFrame f; afterFrame u) s :=
  endFrame_reached u (runToCount_stops _ s f hf hp) hf hp

/-- The state after the frame is closed. -/
def State.closed (s : State) (f : Flight) : State :=
  { s with
    done := s.done + 1
    flight := none
    notice := s.notice || (f.notify || f.event)
    stepResult := if f.byStep then .processed else s.stepResult
    mem := writeBytes s.mem (s.pageField 0x40) (wordBytes (s.done + 1)) }

theorem closeFrame_quiet (f : Flight) (h : s.bus = []) : closeFrame f s = .ok () (s.closed f) := by
  simp only [closeFrame, advanceDone, writeDone, work_bind, getState_apply]
  rw [writeWord_quiet _ _ _ h]
  simp only [update_apply, noticeIf_apply, State.closed, State.setMem, State.setDone, State.setNotice, State.setFlight,
    State.setStepResult]

theorem closed_mem (s : State) (f : Flight) :
    memWord (s.closed f).mem (s.pageField 0x40) = s.done + 1 ∧ MemKeeps s.mem (s.closed f).mem [(s.pageField 0x40, 4)] :=
  ⟨memWord_writeBytes_wordBytes _ _ _, memKeeps_writeWord _ _ _⟩

/-- A command at the done count, up to what follows the end of the cycle. -/
theorem exec_closes (hworks : s.frameWorks = true) (hf : s.flight = some f) (hp : f.phase = .count) (hbus : s.bus = []) (u : Option Nat) :
    exec (.frameCycleEnd u) s = .next (settle (afterFrame u) (s.closed f)) := by
  rw [exec_frameCycleEnd hworks hf, settle, endFrame_count u hf hp]
  simp only [work_bind, closeFrame_quiet f hbus, settle]

/-! ### What follows the end of a cycle -/

theorem afterFrame_draining (h : s.engine = .draining) (u : Option Nat) : afterFrame u s = .ok () (s.setEngine .halted) := by
  simp [afterFrame, h]

/-- The state in which a ready end, if there is one, has been taken. -/
def State.readyTaken (s : State) : State :=
  match s.transfer with
  | some u => if u.endReady then s.endTaken u else s
  | none => s

theorem takeReadyEnd_quiet (h : s.bus = []) : takeReadyEnd s = .ok () s.readyTaken := by
  unfold State.readyTaken
  cases hu : s.transfer with
  | none => exact takeReadyEnd_none fun v hv => by simp [hu] at hv
  | some u =>
    by_cases hr : u.endReady = true
    · simp only [if_pos hr]
      exact takeReadyEnd_taken hu hr h
    · simp only [if_neg hr]
      refine takeReadyEnd_none fun v hv => ?_
      obtain rfl := Option.some.inj (hu.symm.trans hv)
      simpa using hr

/-- No end is ready once a ready one is taken. -/
theorem readyTaken_noEndReady (s : State) : s.readyTaken.NoEndReady := by
  intro v hv
  unfold State.readyTaken at hv
  cases hu : s.transfer with
  | none => simp [hu] at hv
  | some u =>
    by_cases hr : u.endReady = true
    · simp [hu, hr, State.endTaken] at hv
    · simp only [hu, if_neg hr, Option.some.injEq] at hv
      subst hv
      simpa using hr

/-- Taking a ready end touches no count, no frame and no engine state. -/
theorem readyTaken_eq (s : State) :
    s.readyTaken = { s with transfer := s.readyTaken.transfer, channels := s.readyTaken.channels, queue := s.readyTaken.queue,
                            notice := s.readyTaken.notice, mem := s.readyTaken.mem } := by
  cases hu : s.transfer with
  | none =>
    have hnone : s.readyTaken = s := by simp [State.readyTaken, hu]
    rw [hnone]
  | some u =>
    by_cases hr : u.endReady = true
    · have hsome : s.readyTaken = s.endTaken u := by simp [State.readyTaken, hu, hr]
      rw [hsome]
      rfl
    · have hsame : s.readyTaken = s := by simp [State.readyTaken, hu, hr]
      rw [hsame]

theorem readyTaken_setTickPending (s : State) (v : Bool) : (s.setTickPending v).readyTaken = s.readyTaken.setTickPending v := by
  unfold State.readyTaken
  rw [State.setTickPending_transfer]
  cases s.transfer with
  | none => rfl
  | some u =>
    by_cases hr : u.endReady = true
    · simp only [if_pos hr, State.endTaken, State.setTickPending, State.setChan, State.chan]
    · simp only [if_neg hr]

theorem afterFrame_quiet (h : s.engine ≠ .draining) (hbus : s.bus = []) (hp : s.tickPending = false) (u : Option Nat) :
    afterFrame u s = .ok () s.readyTaken := by
  simp only [afterFrame, work_bind, getState_apply, if_neg h, takeReadyEnd_quiet hbus, hp, Bool.false_eq_true, if_false, work_pure]

/-- With tick-pending set a check follows, from the state in which the flag is clear and a ready end is taken. -/
theorem afterFrame_pending (h : s.engine ≠ .draining) (hbus : s.bus = []) (hp : s.tickPending = true) (u : Option Nat) :
    afterFrame u s = (do cycleCheck false; runStagesFor u) (s.setTickPending false) := by
  have hbus' : (s.readyTaken.setTickPending false).bus = [] := by
    rw [State.setTickPending_bus, readyTaken_eq]
    exact hbus
  have hready : takeReadyEnd (s.setTickPending false) = takeReadyEnd (s.readyTaken.setTickPending false) := by
    rw [takeReadyEnd_quiet (s := s.setTickPending false) hbus, readyTaken_setTickPending,
      takeReadyEnd_none (s := s.readyTaken.setTickPending false) fun v hv => readyTaken_noEndReady s v hv]
  have hcheck : cycleCheck false (s.setTickPending false) = cycleCheck false (s.readyTaken.setTickPending false) := by
    simp only [cycleCheck, work_bind, hready]
  simp only [afterFrame, work_bind, getState_apply, if_neg h, takeReadyEnd_quiet hbus, hp, if_true, update_apply, hcheck]

end

end Sys2Proof.Machine
end

section
/-! STEP and FRAME_CYCLE_END settled: nothing faults where no access fails, and each command is its parts. -/

namespace Sys2Proof.Machine

/-! ### Work that does not fault where no access fails -/

/-- Work that ends, with no access failing after it either, wherever no access fails. -/
def Answered {α : Type} (w : Work α) : Prop :=
  ∀ s : State, s.bus = [] → ∃ a t, w s = .ok a t ∧ t.bus = []

section
variable {α β : Type}

theorem answered_pure (a : α) : Answered (pure a : Work α) := fun s h => ⟨a, s, rfl, h⟩

theorem answered_bind {w : Work α} {g : α → Work β} (hw : Answered w) (hg : ∀ a, Answered (g a)) : Answered (w >>= g) := by
  intro s h
  obtain ⟨a, t, ht, hbus⟩ := hw s h
  obtain ⟨b, u, hu, hbus'⟩ := hg a t hbus
  exact ⟨b, u, by simp only [work_bind, ht, hu], hbus'⟩

theorem answered_getState_bind {k : State → Work β} (hk : ∀ s, Answered (k s)) : Answered (getState >>= k) :=
  answered_bind (fun s h => ⟨s, s, rfl, h⟩) hk

theorem answered_update {g : State → State} (hg : ∀ s : State, (g s).bus = s.bus) : Answered (update g) := fun s h =>
  ⟨(), g s, rfl, (hg s).trans h⟩

theorem answered_ite {c : Prop} [Decidable c] {v w : Work α} (hv : Answered v) (hw : Answered w) : Answered (if c then v else w) := by
  split
  · exact hv
  · exact hw

theorem readWord_answered (a : Nat) : Answered (readWord a) := fun s h => ⟨_, _, readWord_quiet a s h, h⟩

theorem readWords_answered (a n : Nat) : Answered (readWords a n) := fun s h => ⟨_, _, readWords_quiet a n s h, h⟩

theorem writeLanes_answered (a : Nat) (bytes : List Byte) : Answered (writeLanes a bytes) := fun s h =>
  ⟨_, _, writeLanes_quiet a bytes s h, h⟩

theorem writeWord_answered (a : Nat) (w : Word) : Answered (writeWord a w) := writeLanes_answered a _

theorem takeReadyEnd_answered : Answered takeReadyEnd := fun s h =>
  ⟨_, _, takeReadyEnd_quiet h, by rw [readyTaken_eq]; exact h⟩

theorem writeTaken_answered : Answered writeTaken := answered_getState_bind fun _ => writeWord_answered _ _

theorem writeDone_answered (d : Word) : Answered (writeDone d) := answered_getState_bind fun _ => writeWord_answered _ _

theorem countedGapPush_answered (k : Nat) : Answered (countedGapPush k) := by
  refine answered_bind (answered_update fun s => ?_) fun _ =>
    answered_ite (answered_pure _) (answered_getState_bind fun _ => writeWord_answered _ _)
  obtain ⟨_, _, _, _, he⟩ := countedGap_fields s k
  rw [he]

theorem dropFrames_answered (d : Nat) : Answered (dropFrames d) :=
  answered_bind (answered_update fun _ => rfl) fun _ => answered_bind writeTaken_answered fun _ => answered_getState_bind fun _ =>
    answered_bind (writeDone_answered _) fun _ => answered_bind (answered_getState_bind fun _ => writeWord_answered _ _) fun _ =>
      countedGapPush_answered d

theorem mismatchFrame_answered (notify byStep : Bool) : Answered (mismatchFrame notify byStep) :=
  answered_bind (countedGapPush_answered 1) fun _ => answered_getState_bind fun _ =>
    answered_bind (answered_getState_bind fun _ => writeLanes_answered _ _) fun _ =>
      answered_bind (answered_getState_bind fun _ => answered_bind (writeDone_answered _) fun _ => answered_update fun _ => rfl) fun _ =>
        answered_bind (answered_ite (answered_update fun _ => rfl) (answered_pure _)) fun _ =>
          answered_ite (answered_update fun _ => rfl) (answered_pure _)

theorem takeFrame_answered (byStep : Bool) : Answered (takeFrame byStep) :=
  answered_bind (answered_update fun _ => rfl) fun _ => answered_bind writeTaken_answered fun _ => answered_getState_bind fun _ =>
    answered_bind (readWords_answered _ _) fun _ => answered_ite (answered_update fun _ => rfl) (mismatchFrame_answered _ _)

/-- A cycle check does not fault where no access fails. -/
theorem cycleCheck_answered (byStep : Bool) : Answered (cycleCheck byStep) := by
  refine answered_bind takeReadyEnd_answered fun _ => answered_getState_bind fun _ => answered_bind (readWord_answered _) fun _ =>
    answered_getState_bind fun _ => answered_ite ?_ (answered_ite ?_ (takeFrame_answered byStep))
  · exact answered_ite (answered_update fun _ => rfl)
      (answered_bind (answered_update fun _ => rfl) fun _ => answered_getState_bind fun _ => writeWord_answered _ _)
  · exact answered_bind (dropFrames_answered _) fun _ => takeFrame_answered byStep

end

/-! ### The STEP's check -/

section
variable {s : State}

/-- The state in which a STEP whose chain is empty makes its check. -/
def State.stepAtCheck (s : State) : State :=
  { s with ignored := false, stepResult := .none, stepDue := false }

theorem exec_step_check (h : s.engine = .stepWait) (hf : s.flight = none) (hchain : s.ChainEmpty) (hbus : s.bus = []) {u : Option Nat} {n : Nat}
    (hu : u.getD 16417 = n + 2) : exec (.step u) s = .next (settle (do cycleCheck true; runStep n) s.stepAtCheck) := by
  obtain ⟨hanchor, hfirst, hi⟩ := hchain
  have hintake : s.stepBegun.intake = some freshIntake := by simp [State.stepBegun, State.broughtIntake, hi]
  have hrest : s.stepBegun.AtRest := ⟨hanchor, hfirst, .inr hintake, hf, hbus⟩
  have hcheck : (s.stepBegun.setIntake none).setStepDue false = s.stepAtCheck := by
    simp only [State.stepBegun, State.stepAtCheck, State.setIntake, State.setStepDue, hi]
  rw [exec_step_units h hf, settle, hu, runStep_rest (s := s.stepBegun) h hrest hintake rfl, hcheck, settle]

/-- A unit bound that leaves room for the intake's end and the check. -/
theorem two_le_units {u : Option Nat} (h : ∀ k, u = some k → 2 ≤ k) : ∃ n, u.getD 16417 = n + 2 := by
  cases u with
  | none => exact ⟨16415, rfl⟩
  | some k => exact ⟨k - 2, by have := h k rfl; simp only [Option.getD_some]; omega⟩

theorem mismatch_idle {r m t : State} {d : Nat} {b : Bool} (hm : r.DropsFrames m d ∨ m = r) (ht : m.FindsMismatch t b) :
    t.intake = r.intake ∧ t.flight = r.flight ∧ t.stepDue = r.stepDue := by
  obtain ⟨ht, -⟩ := ht
  have hfields : t.intake = m.intake ∧ t.flight = m.flight ∧ t.stepDue = m.stepDue := by
    rw [ht]
    exact ⟨rfl, rfl, rfl⟩
  obtain ⟨hi, hf, hd⟩ := hfields
  rw [hi, hf, hd]
  rcases hm with ⟨hm, -⟩ | rfl
  · rw [hm]
    exact ⟨rfl, rfl, rfl⟩
  · exact ⟨rfl, rfl, rfl⟩

end

/-! ### The end of a cycle -/

section
variable {s t : State} {f : Flight}

/-- What follows the end of a cycle with one unit more of its bound is one unit more of the stages. -/
theorem afterFrame_next (hpending : s.pending = []) (hworks : s.frameWorks = true) (hf : s.flight = none) (hbus : s.bus = []) (n : Nat) :
    (settle (afterFrame (some n)) s).Makes .frame (settle (afterFrame (some (n + 1))) s) := by
  have hrest : ∀ t : State, t.flight = none → t.Makes .frame t := fun t ht => by simp [State.Makes, ht]
  by_cases hd : s.engine = .draining
  · simp only [settle, afterFrame_draining hd]
    exact hrest _ hf
  by_cases hp : s.tickPending = false
  · simp only [settle, afterFrame_quiet hd hbus hp]
    exact hrest _ (by rw [readyTaken_eq]; exact hf)
  · simp only [settle, afterFrame_pending hd hbus (by simpa using hp), work_bind, runStagesFor, Option.getD_some]
    cases hc : cycleCheck false (s.setTickPending false) with
    | error fault u => exact makes_raised _ _ _
    | ok a u =>
      have hpend : u.pending = [] := (Aloof.pending (fun _ => cycleCheck_aloof false) hc).trans hpending
      have hworks' : u.frameWorks = true :=
        (frameWorks_congr (Turns.engine ((does_cycleCheck false _).ok hc).1)).trans hworks
      simp only [runStages_last, work_bind]
      cases hr : runStages n u with
      | error fault v => exact makes_raised _ _ _
      | ok b v =>
        have hpend' : v.pending = [] := (Aloof.pending (fun _ => runStages_aloof n) hr).trans hpend
        have hworks'' : v.frameWorks = true :=
          (frameWorks_congr (Turns.engine ((does_runStages n u hworks').ok hr).1)).trans hworks'
        exact makes_frame hpend' hworks''

theorem afterFrame_unbounded (s : State) : afterFrame none s = afterFrame (some 16384) s := rfl

/-- What closing a frame and taking the restore's end that was ready leave. -/
theorem endTaken_without (s : State) (u : Transfer) : (s.setTransfer none).endTaken u = s.endTaken u := by
  simp only [State.endTaken, State.setTransfer, State.setChan, State.chan]

end

end Sys2Proof.Machine

namespace Sys2Proof

open Sys2Proof.Machine

/-- Settles O15. -/
theorem stepMakesOneCheck : Obligations.StepMakesOneCheck := by
  intro s h hf
  refine ⟨?_, fun hpending => ⟨fun n m hm => ?_, ?_⟩, fun hquiet hready _ => ⟨fun hchain => ⟨fun hb u hu => ?_, fun hb hclear => ?_⟩,
    fun hpending hi hdue => ⟨fun hb => ?_, fun hb hclear => ?_⟩⟩⟩
  · rw [exec_step_units h hf]
    rfl
  · have hnext := exec_step_next h hf hpending hm
    have hgoes : m.stepGoesOn = true ↔ m.intake.isSome = true ∨ (match m.flight with
        | some f => f.phase.stagesEnded = false
        | none => m.stepDue = true) := by
      cases hflight : m.flight with
      | none => simp [State.stepGoesOn, hflight]
      | some f => simp [State.stepGoesOn, hflight]
    exact ⟨fun hg => hnext.trans (if_pos (hgoes.mpr hg)), fun hg => hnext.trans (if_neg fun hm => hg (hgoes.mp hm))⟩
  · rw [exec_step_units h hf, exec_step_units h hf]
    rfl
  · obtain ⟨n, hn⟩ := two_le_units hu
    rw [exec_step_check h hf hchain hquiet hn, settle]
    simp only [work_bind, cycleCheck_idle (s := s.stepAtCheck) true hquiet hready hb, idleCheck_step]
    rw [runStep_stops (s := s.stepAtCheck.setStepResult .noFrame) n hchain.2.2 hf rfl]
    rfl
  · obtain ⟨t, hcheck, m, hm, htakes, hmismatch⟩ := cycleCheck_taking (s := s.stepAtCheck) true hquiet hready hb rfl hclear
    have hexec : exec (.step (some 2)) s = .next t := by
      rw [exec_step_check h hf hchain hquiet (n := 0) rfl, settle]
      simp only [work_bind, hcheck, runStep, work_pure]
    refine ⟨⟨t, hexec, m, hm, htakes, hmismatch⟩, fun hseq u hu => ?_⟩
    have hm' : s.stepAtCheck.DropsFrames m s.stepAtCheck.backlog ∨ m = s.stepAtCheck := by
      split_ifs at hm
      · exact .inl hm
      · exact .inr hm
    obtain ⟨hi, hflight, hdue⟩ := mismatch_idle hm' (hmismatch hseq)
    obtain ⟨n, hn⟩ := two_le_units hu
    rw [hexec, exec_step_check h hf hchain hquiet hn, settle]
    simp only [work_bind, hcheck]
    rw [runStep_stops n (hi.trans hchain.2.2) (hflight.trans hf) (hdue.trans rfl)]
  · rw [step_check hpending (by simp [State.frameWorks, h]) hi hf hdue, settle,
      cycleCheck_idle (s := s.setStepDue false) true hquiet hready hb, idleCheck_step]
    rfl
  · obtain ⟨t, hcheck, m, hm, htakes, hmismatch⟩ := cycleCheck_taking (s := s.setStepDue false) true hquiet hready hb rfl hclear
    refine ⟨t, ?_, m, hm, htakes, hmismatch⟩
    rw [step_check hpending (by simp [State.frameWorks, h]) hi hf hdue, settle, hcheck]

/-- The command's first units, up to the done count, are the block's own: O16's first half. -/
theorem frameCycleEnd_reached {s t : State} {n : Nat} (hpending : s.pending = []) (hworks : s.frameWorks = true) (hi : s.intake = none)
    (hn : n ≤ 16384) (h : s.ReachesCount n t) (u : Option Nat) : exec (.frameCycleEnd u) s = exec (.frameCycleEnd u) t := by
  cases hf : s.flight with
  | none =>
    cases n with
    | zero => rw [h.1]
    | succ n =>
      obtain ⟨⟨f, hsome, -⟩, -⟩ := h
      simp [hf] at hsome
  | some f =>
    rw [exec_frameCycleEnd hworks hf]
    rcases runToCount_reaches h hpending hworks hi (by simp [hf]) (N := Config.frameFuel) hn with
      ⟨hrun, hworks', g, hg, hp⟩ | ⟨fault, x, hrun, rfl⟩
    · rw [exec_frameCycleEnd hworks' hg, settle, settle, endFrame_reached u hrun hg hp, endFrame_count u hg hp]
    · rw [exec_frameCycleEnd_idle (.inl rfl), settle]
      simp only [endFrame, work_bind, hrun]

/-- Settles O16. -/
theorem frameCycleEnds : Obligations.FrameCycleEnds := by
  refine ⟨fun s t n hpending hworks hi hn h u => frameCycleEnd_reached hpending hworks hi hn h u,
    fun s f hworks hf hp hquiet _ => ?_⟩
  have hexec := exec_closes hworks hf hp hquiet
  have hbus : (s.closed f).bus = [] := hquiet
  refine ⟨fun hd u => ⟨s.closed f, ?_, rfl, closed_mem s f⟩, fun hd hnone => ⟨fun hready u => ⟨s.closed f, ?_, rfl, closed_mem s f⟩,
    fun v hv u => ⟨(s.closed f).setTransfer none, (s.closed f).endTaken v, ?_, ⟨?_, closed_mem s f⟩, ?_⟩⟩,
    fun hpending => ⟨fun n m hm => ?_, ?_⟩, fun hr htick => ⟨?_, fun hready hb u => ?_⟩⟩
  · rw [hexec, settle, afterFrame_draining (s := s.closed f) hd]
    rfl
  · have hnoend : (s.closed f).NoEndReady := hready
    have htaken := (takeReadyEnd_quiet hbus).symm.trans (takeReadyEnd_none hnoend)
    rw [hexec, settle, afterFrame_quiet (s := s.closed f) hd hbus hnone, htaken]
  · have hholds : (s.closed f).HoldsReadyEnd v := hv
    have htaken := (takeReadyEnd_quiet hbus).symm.trans (takeReadyEnd_ready hholds hbus)
    rw [hexec, settle, afterFrame_quiet (s := s.closed f) hd hbus hnone, htaken]
  · simp only [State.closed, State.setTransfer, State.pageField]
  · rw [← endTaken_without]
    exact endTakenFrom_endTaken _ hv.2.2.2.1
  · rw [hexec] at hm ⊢
    obtain rfl := Host.Outcome.next.inj hm
    exact ⟨_, afterFrame_next (s := s.closed f) hpending hworks rfl hbus n, rfl⟩
  · rw [hexec, hexec, settle, settle, afterFrame_unbounded]
  · have hd : (s.closed f).engine ≠ .draining := fun hd => by
      have : s.engine = .draining := hd
      simp [hr] at this
    obtain ⟨a, x, hcheck, -⟩ := cycleCheck_answered false (((s.closed f).setTickPending false).setIntake (some s.broughtIntake)) hbus
    have hcheck' := Aloof.setIntake_ok (fun _ _ => cycleCheck_aloof false) hcheck s.intake
    refine ⟨s.closed f, x, ⟨rfl, closed_mem s f⟩, ?_, ?_⟩
    · have hidle := exec_justBegun_idle (s := (s.closed f).setTickPending false) hr rfl
      refine hidle.trans ?_
      rw [settle]
      exact congrArg Host.Outcome.next (by rw [show ((s.closed f).setTickPending false).broughtIntake = s.broughtIntake from rfl, hcheck])
    · rw [hexec, settle, afterFrame_pending (s := s.closed f) hd hbus htick]
      have hself : (((s.closed f).setTickPending false).setIntake (some s.broughtIntake)).setIntake s.intake =
          (s.closed f).setTickPending false := rfl
      rw [hself] at hcheck'
      simp only [work_bind, hcheck', runStagesFor, Option.getD_some, runStages, work_pure]
      rfl
  · have hd : (s.closed f).engine ≠ .draining := fun hd => by
      have : s.engine = .draining := hd
      simp [hr] at this
    obtain ⟨hdone, hkeeps⟩ := closed_mem s f
    have hfill : memWord (s.closed f).mem (s.pageField 0x38) = s.fillCount :=
      memWord_pageField_other s _ _ (by omega) (by omega) (by omega)
    have hidle : signedDiff ((s.closed f).setTickPending false).fillCount ((s.closed f).setTickPending false).done ≤ 0 := by
      show signedDiff (memWord (s.closed f).mem (s.pageField 0x38)) (s.done + 1) ≤ 0
      rwa [hfill]
    refine ⟨((s.closed f).setTickPending false).idled, ?_, ?_, ?_, memWord_writeBytes_wordBytes _ _ _, ?_⟩
    · rw [hexec, settle, afterFrame_pending (s := s.closed f) hd hbus htick]
      simp only [work_bind, cycleCheck_idle (s := (s.closed f).setTickPending false) false hbus hready hidle,
        idleCheck_tick (s := (s.closed f).setTickPending false) hbus]
      rw [runStagesFor, runStages_rest (s := ((s.closed f).setTickPending false).idled) rfl]
    · simp only [State.closed, State.idled, State.setTickPending, State.pageField]
    · exact (memWord_pageField_other s _ _ (by omega) (by omega) (by omega)).trans hdone
    · refine MemKeeps.trans_same (hkeeps.cover fun r hr => ⟨(s.pageField 0x40, 8), by simp, ?_⟩)
        ((idled_mem ((s.closed f).setTickPending false)).2.cover fun r hr => ⟨(s.pageField 0x40, 8), by simp, ?_⟩)
      · obtain rfl := List.mem_singleton.mp hr
        exact ⟨le_rfl, by simp⟩
      · obtain rfl := List.mem_singleton.mp hr
        simp only [State.pageField, State.setTickPending_xbase, State.closed]
        omega

end Sys2Proof
end

section
/-! The write-back (R174): the bytes and half-words of the words it writes (R178), and what each of its three steps leaves. -/

namespace Sys2Proof.Machine

/-! ### The bytes and half-words of a word -/

theorem append_inj {n k : Nat} {x y : BitVec n} {v w : BitVec k} (h : x ++ v = y ++ w) : x = y ∧ v = w := by
  have hbit : ∀ i, (x ++ v).getLsbD i = (y ++ w).getLsbD i := fun i => by rw [h]
  simp only [BitVec.getLsbD_append] at hbit
  constructor
  · refine BitVec.eq_of_getLsbD_eq fun i _ => ?_
    simpa [show ¬ k + i < k by omega] using hbit (k + i)
  · refine BitVec.eq_of_getLsbD_eq fun i hi => ?_
    simpa [hi] using hbit i

theorem memWord_halves (m : List Host.Cell) (a : Nat) : memWord m a = memHalf m (a + 2) ++ memHalf m a := by
  refine BitVec.eq_of_getLsbD_eq fun i hi => ?_
  simp only [memWord, memHalf, BitVec.getLsbD_append, Nat.add_assoc]
  split_ifs <;> first | rfl | omega

section
variable {m : List Host.Cell} {a : Nat}

/-- A word of two half-words, read by half-words. -/
theorem memHalf_of_halfWord {h0 h1 : Int} (h : memWord m a = halfWord h0 h1) :
    memHalf m a = BitVec.ofInt 16 h0 ∧ memHalf m (a + 2) = BitVec.ofInt 16 h1 :=
  (append_inj ((memWord_halves m a).symm.trans h)).symm

/-- A word of four bytes, read by bytes. -/
theorem readByte_of_byteWord {b0 b1 b2 b3 : Nat} (h : memWord m a = byteWord b0 b1 b2 b3) :
    readByte m a = BitVec.ofNat 8 b0 ∧ readByte m (a + 1) = BitVec.ofNat 8 b1 ∧ readByte m (a + 2) = BitVec.ofNat 8 b2 ∧
      readByte m (a + 3) = BitVec.ofNat 8 b3 := by
  obtain ⟨h', h0⟩ := append_inj h
  obtain ⟨h'', h1⟩ := append_inj h'
  obtain ⟨h3, h2⟩ := append_inj h''
  exact ⟨h0, h1, h2, h3⟩

/-- A word of two bytes and a half-word. -/
theorem memWord_bytes_half {b0 b1 : BitVec 8} {h1 : BitVec 16} (h : memWord m a = h1 ++ b1 ++ b0) :
    readByte m a = b0 ∧ readByte m (a + 1) = b1 ∧ memHalf m (a + 2) = h1 := by
  obtain ⟨h', h0⟩ := append_inj h
  obtain ⟨hh, hb⟩ := append_inj h'
  exact ⟨h0, hb, hh⟩

end

/-- Zero words, read by bytes. -/
theorem readByte_of_zero_words {m : List Host.Cell} {a n : Nat} (h : ∀ k < n, memWord m (a + 4 * k) = 0) (i : Nat) (hi : i < 4 * n) :
    readByte m (a + i) = 0 := by
  have hword := h (i / 4) (by omega)
  have hbyte := byteOf_memWord m (a + 4 * (i / 4)) (i % 4) (by omega)
  rw [hword, show a + 4 * (i / 4) + i % 4 = a + i by omega] at hbyte
  rw [← hbyte]
  exact BitVec.eq_of_getLsbD_eq fun j hj => by simp [byteOf]

/-! ### Flag bytes -/

theorem testBit_clipFlags (bs : List Bool) (i : Nat) : (clipFlags bs).testBit i = bs.getD i false := by
  induction bs generalizing i with
  | nil => simp [clipFlags]
  | cons b bs ih =>
    cases i with
    | zero => cases b <;> simp [clipFlags, Nat.testBit_zero]
    | succ i =>
      rw [Nat.testBit_succ, show clipFlags (b :: bs) / 2 = clipFlags bs by have := b.toNat_le; rw [clipFlags]; omega, ih]
      simp

/-- The bits of a flag byte (R178). -/
theorem getLsbD_clipFlags (bs : List Bool) (i : Nat) (hi : i < 8) :
    (BitVec.ofNat 8 (clipFlags bs)).getLsbD i = bs.getD i false := by
  rw [BitVec.getLsbD_ofNat, testBit_clipFlags]
  simp [hi]

theorem recordFlags_eq (w : ChanWork) :
    recordFlags w = clipFlags [w.granted, w.eligible, w.nearEnd, w.deferred, w.parity, w.clipped] := by
  simp only [recordFlags, clipFlags]
  ring

/-! ### Channel records -/

/-- The record written for channel `c` (R128 to R130). -/
def recordOf (s : State) (f : Flight) (c : Nat) : List Word :=
  if (f.ctx c).state = .off then offRecord (f.chanWork c) else channelRecordOf (s.chan c) (f.chanWork c)

theorem length_recordOf (s : State) (f : Flight) (c : Nat) : (recordOf s f c).length = 8 := by
  unfold recordOf
  split <;> rfl

/-- The words at `a` are those of the list. -/
def MemHolds (m : List Host.Cell) (a : Nat) (ws : List Word) : Prop :=
  ∀ i < ws.length, memWord m (a + 4 * i) = ws.getD i 0

theorem memHolds_memWithWords (m : List Host.Cell) (a : Nat) (ws : List Word) (hfit : 4 * ws.length ≤ 4294967296) :
    MemHolds (memWithWords m a ws) a ws := fun i hi => by
  rw [memWord_memWithWords m a ws hfit i hi, List.getD_eq_getElem _ _ hi]

theorem MemHolds.kept {m m' : List Host.Cell} {a : Nat} {ws : List Word} {rs : List (Nat × Nat)} (h : MemHolds m a ws)
    (hk : MemKeeps m m' rs) (ha : ∀ r ∈ rs, Apart a (4 * ws.length) r.1 r.2) : MemHolds m' a ws := fun i hi => by
  rw [hk.word fun r hr => (ha r hr).sub (by omega) (by omega) le_rfl le_rfl, h i hi]

theorem MemHolds.word {m : List Host.Cell} {a i : Nat} {ws : List Word} (h : MemHolds m a ws) (hi : i < ws.length) :
    memWord m (a + 4 * i) = ws[i] := by
  rw [h i hi, List.getD_eq_getElem _ _ hi]

/-- The records of `n` channels from `c` on are written one after the other, and nothing else. -/
theorem writeRecords_quiet (f : Flight) (n : Nat) : ∀ (c : Nat) (s : State), s.bus = [] → 32 * n ≤ 4294967296 →
    ∃ m, writeRecords f c n s = .ok () (s.setMem m) ∧ MemKeeps s.mem m [(s.geo.channelRecord f.count c, 32 * n)] ∧
      ∀ k < n, MemHolds m (s.geo.channelRecord f.count c + 32 * k) (recordOf s f (c + k)) := by
  induction n with
  | zero => exact fun c s _ _ => ⟨s.mem, rfl, .refl _ _, fun k hk => absurd hk (by omega)⟩
  | succ n ih =>
    intro c s hbus hfit
    have hlen := length_recordOf s f c
    set m₁ := memWithWords s.mem (s.geo.channelRecord f.count c) (recordOf s f c) with hm₁
    have hfirst : MemHolds m₁ (s.geo.channelRecord f.count c) (recordOf s f c) := memHolds_memWithWords _ _ _ (by omega)
    have hkeep₁ : MemKeeps s.mem m₁ [(s.geo.channelRecord f.count c, 32)] := by
      simpa [hlen] using memKeeps_memWithWords s.mem (s.geo.channelRecord f.count c) (recordOf s f c)
    obtain ⟨m, hm, hkeep, hholds⟩ := ih (c + 1) (s.setMem m₁) hbus (by omega)
    have hnext : (s.setMem m₁).geo.channelRecord f.count (c + 1) = s.geo.channelRecord f.count c + 32 := by
      simp only [State.setMem, Geometry.channelRecord]
      ring
    rw [hnext] at hkeep hholds
    refine ⟨m, ?_, ?_, fun k hk => ?_⟩
    · have hrun : writeRecords f c (n + 1) s = writeRecords f (c + 1) n (s.setMem m₁) := by
        simp only [writeRecords, work_bind, getState_apply, writeWords_quiet _ _ s hbus]
        rfl
      rw [hrun, hm]
      rfl
    · refine (hkeep₁.trans hkeep).cover fun r hr => ⟨_, List.mem_singleton_self _, ?_⟩
      simp only [List.singleton_append, List.mem_cons, List.not_mem_nil, or_false] at hr
      rcases hr with rfl | rfl <;> constructor <;> simp only <;> omega
    · cases k with
      | zero =>
        refine hfirst.kept hkeep fun r hr => ?_
        obtain rfl := List.mem_singleton.mp hr
        rw [hlen]
        exact apart_of_le (by omega) (by omega)
      | succ k =>
        have := hholds k (by omega)
        rwa [show s.geo.channelRecord f.count c + 32 + 32 * k = s.geo.channelRecord f.count c + 32 * (k + 1) by ring,
          show recordOf (s.setMem m₁) f (c + 1 + k) = recordOf s f (c + (k + 1)) by
            rw [show c + 1 + k = c + (k + 1) by ring]; rfl] at this

/-! ### The three steps -/

section
variable {s : State} {f : Flight}

/-- Write-back step 1 of one channel. -/
theorem step_output {c : Nat} (h : s.AtPhase f (.output c)) :
    step s = .next { s with
      flight := some (f.at (afterChannel c s.geo.mics .output .report))
      mem := memWithWords s.mem (s.geo.outBlock f.count c) ((f.chanWork c).out.map outputWord) } := by
  rw [step_atPhase h]
  obtain ⟨-, -, -, -, hphase, hbus⟩ := h
  simp only [frameUnit, hphase, outputUnit, settle, work_bind, getState_apply, writeWords_quiet _ _ s hbus, setFlight, update_apply]
  rfl

/-- Write-back step 3. -/
theorem step_status (h : s.AtPhase f .status) :
    step s = .next { s with
      flight := some (f.at .count)
      mem := writeBytes s.mem (s.geo.slotOf f.count + 6) [1#8] } := by
  rw [step_atPhase h]
  obtain ⟨-, -, -, -, hphase, hbus⟩ := h
  simp only [frameUnit, hphase, statusUnit, writeStatus, settle, work_bind, getState_apply, writeLanes_quiet _ _ s hbus, setFlight,
    update_apply, show statusByte .done = 1#8 from rfl]
  rfl

theorem length_reportWords (s : State) (f : Flight) : (reportWords s f).length = 16 := rfl

/-- Write-back step 2: the report part and the records of channels 0..M-1. -/
theorem step_report (h : s.AtPhase f .report) (hfit : 64 + 32 * s.geo.mics ≤ 4294967296) :
    ∃ m, step s = .next { s with flight := some (f.at .status), pendIdle := 0, pendOverload := 0, pendDropped := 0, pendGap := 0, mem := m } ∧
      MemKeeps s.mem m [(s.geo.reportPart f.count, 64 + 32 * s.geo.mics)] ∧
      MemHolds m (s.geo.reportPart f.count) (reportWords s f) ∧
      ∀ c < s.geo.mics, MemHolds m (s.geo.reportPart f.count + 64 + 32 * c) (recordOf s f c) := by
  have hstep := step_atPhase h
  obtain ⟨-, -, -, -, hphase, hbus⟩ := h
  set m₁ := memWithWords s.mem (s.geo.reportPart f.count) (reportWords s f) with hm₁
  have hpart : MemHolds m₁ (s.geo.reportPart f.count) (reportWords s f) :=
    memHolds_memWithWords _ _ _ (by rw [length_reportWords]; omega)
  have hkeep₁ : MemKeeps s.mem m₁ [(s.geo.reportPart f.count, 64)] := memKeeps_memWithWords _ _ _
  obtain ⟨m, hm, hkeep, hholds⟩ := writeRecords_quiet f s.geo.mics 0
    { s with pendIdle := 0, pendOverload := 0, pendDropped := 0, pendGap := 0, mem := m₁ } hbus (by omega)
  have hzero : s.geo.channelRecord f.count 0 = s.geo.reportPart f.count + 64 := by simp [Geometry.channelRecord]
  simp only [hzero, Nat.zero_add] at hkeep hholds
  refine ⟨m, ?_, ?_, ?_, fun c hc => hholds c hc⟩
  · rw [hstep]
    simp only [frameUnit, hphase, reportUnit, settle, work_bind, getState_apply, writeWords_quiet _ _ s hbus, setFlight, update_apply,
      ← hm₁, State.setMem, hm, State.setFlight]
  · refine (hkeep₁.trans hkeep).cover fun r hr => ⟨_, List.mem_singleton_self _, ?_⟩
    simp only [List.singleton_append, List.mem_cons, List.not_mem_nil, or_false] at hr
    rcases hr with rfl | rfl <;> constructor <;> simp only <;> omega
  · refine hpart.kept hkeep fun r hr => ?_
    obtain rfl := List.mem_singleton.mp hr
    rw [length_reportWords]
    exact apart_of_le (by omega) (by omega)

end

/-! ### The fields of the report part and of the records (R178) -/

section
variable {s : State} {f : Flight} {m : List Host.Cell} {p : Nat}

theorem reportedLevel_eq (h : History) (refs : Nat) (r : Fin 4) :
    reportedLevel h refs r.val = if r.val < refs then h.levels[r] else -480 := by
  unfold reportedLevel
  simp

theorem reportWords_fields (h : MemHolds m p (reportWords s f)) :
    memWord m p = f.count ∧ readByte m (p + 4) = BitVec.ofNat 8 s.pendIdle ∧
      readByte m (p + 5) = BitVec.ofNat 8 s.pendOverload ∧ readByte m (p + 6) = BitVec.ofNat 8 s.pendDropped ∧
      readByte m (p + 7) = BitVec.ofNat 8 s.pendGap ∧
      (∀ r : Fin 4, memHalf m (p + 8 + 2 * r.val) =
        BitVec.ofInt 16 (if r.val < s.geo.refs then s.history.levels[r] else -480)) ∧
      (∀ r < 8, (readByte m (p + 0x10)).getLsbD r = f.refClips.getD r false) ∧
      readByte m (p + 0x11) = (if s.history.farActive then 1 else 0) ∧
      memHalf m (p + 0x12) = BitVec.ofInt 16 s.history.lx ∧ memHalf m (p + 0x14) = BitVec.ofNat 16 f.cost ∧
      memHalf m (p + 0x16) = BitVec.ofNat 16 f.units ∧ ∀ i < 40, readByte m (p + 0x18 + i) = 0 := by
  have hw : ∀ i (hi : i < 16), memWord m (p + 4 * i) = (reportWords s f)[i]'hi := fun i hi => h.word hi
  obtain ⟨hidle, hover, hdrop, hgap⟩ := readByte_of_byteWord (hw 1 (by omega))
  obtain ⟨hl0, hl1⟩ := memHalf_of_halfWord (hw 2 (by omega))
  obtain ⟨hl2, hl3⟩ := memHalf_of_halfWord (hw 3 (by omega))
  obtain ⟨hclips, hfar, hlx⟩ := memWord_bytes_half (hw 4 (by omega))
  obtain ⟨hcost, hunits⟩ := memHalf_of_halfWord (hw 5 (by omega))
  refine ⟨hw 0 (by omega), hidle, hover, hdrop, hgap, fun r => ?_, fun r hr => ?_, ?_, hlx, ?_, ?_, ?_⟩
  · rw [← reportedLevel_eq]
    fin_cases r
    · exact hl0
    · exact hl1
    · exact hl2
    · exact hl3
  · rw [show p + 0x10 = p + 4 * 4 from rfl, hclips, getLsbD_clipFlags _ _ hr]
  · rw [show p + 0x11 = p + 4 * 4 + 1 from rfl, hfar]
    cases s.history.farActive <;> rfl
  · exact hcost
  · exact hunits
  · refine readByte_of_zero_words (n := 10) fun k hk => ?_
    have := hw (6 + k) (by omega)
    rw [show p + 0x18 + 4 * k = p + 4 * (6 + k) by ring, this]
    interval_cases k <;> rfl

theorem offRecord_fields {w : ChanWork} (h : MemHolds m p (offRecord w)) :
    readByte m p = 0 ∧ readByte m (p + 1) = (if w.clipped then 32 else 0) ∧
      readByte m (p + 2) = 0 ∧ readByte m (p + 3) = 0 ∧ memHalf m (p + 4) = BitVec.ofInt 16 w.lm ∧
      memHalf m (p + 6) = BitVec.ofInt 16 (-480) ∧ memHalf m (p + 8) = BitVec.ofInt 16 (-480) ∧
      memHalf m (p + 10) = BitVec.ofInt 16 w.lm ∧ ∀ i < 20, readByte m (p + 12 + i) = 0 := by
  have hw : ∀ i (hi : i < 8), memWord m (p + 4 * i) = (offRecord w)[i]'hi := fun i hi => h.word hi
  obtain ⟨hstate, hflags, hstrikes, hlast⟩ := readByte_of_byteWord (hw 0 (by omega))
  obtain ⟨hlm, hly⟩ := memHalf_of_halfWord (hw 1 (by omega))
  obtain ⟨hle, hlout⟩ := memHalf_of_halfWord (hw 2 (by omega))
  refine ⟨hstate, ?_, hstrikes, hlast, hlm, hly, hle, hlout, ?_⟩
  · rw [show p + 1 = p + 4 * 0 + 1 from rfl, hflags]
    cases w.clipped <;> rfl
  · refine readByte_of_zero_words (n := 5) fun k hk => ?_
    have := hw (3 + k) (by omega)
    rw [show p + 12 + 4 * k = p + 4 * (3 + k) by ring, this]
    interval_cases k <;> rfl

theorem channelRecordOf_fields {x : Channel} {w : ChanWork} (h : MemHolds m p (channelRecordOf x w)) :
    readByte m p = BitVec.ofNat 8 x.state.value ∧
      (∀ i < 8, (readByte m (p + 1)).getLsbD i =
        [w.granted, w.eligible, w.nearEnd, w.deferred, w.parity, w.clipped].getD i false) ∧
      readByte m (p + 2) = BitVec.ofNat 8 x.strikes ∧ readByte m (p + 3) = 0 ∧
      (∀ i < 7, memHalf m (p + 4 + 2 * i) =
        BitVec.ofInt 16 ([w.lm, w.ly, w.le, w.lout, x.erle, x.coupling, x.atten].getD i 0)) ∧
      memHalf m (p + 0x12) = BitVec.ofNat 16 x.parity ∧ ∀ i < 12, readByte m (p + 0x14 + i) = 0 := by
  have hw : ∀ i (hi : i < 8), memWord m (p + 4 * i) = (channelRecordOf x w)[i]'hi := fun i hi => h.word hi
  obtain ⟨hstate, hflags, hstrikes, hlast⟩ := readByte_of_byteWord (hw 0 (by omega))
  obtain ⟨hlm, hly⟩ := memHalf_of_halfWord (hw 1 (by omega))
  obtain ⟨hle, hlout⟩ := memHalf_of_halfWord (hw 2 (by omega))
  obtain ⟨herle, hcoupling⟩ := memHalf_of_halfWord (hw 3 (by omega))
  obtain ⟨hatten, hparity⟩ := memHalf_of_halfWord (hw 4 (by omega))
  refine ⟨hstate, fun i hi => ?_, hstrikes, hlast, fun i hi => ?_, hparity, ?_⟩
  · rw [show p + 1 = p + 4 * 0 + 1 from rfl, hflags, recordFlags_eq, getLsbD_clipFlags _ _ hi]
  · interval_cases i
    · exact hlm
    · exact hly
    · exact hle
    · exact hlout
    · exact herle
    · exact hcoupling
    · exact hatten
  · refine readByte_of_zero_words (n := 3) fun k hk => ?_
    have := hw (5 + k) (by omega)
    rw [show p + 0x14 + 4 * k = p + 4 * (5 + k) by ring, this]
    interval_cases k <;> rfl

end

end Sys2Proof.Machine

namespace Sys2Proof
open Sys2Proof.Machine

/-- Settles O17: each step of the write-back with the fields of what it writes. -/
theorem frameWrittenBack : Obligations.FrameWrittenBack := by
  unfold Obligations.FrameWrittenBack
  refine ⟨fun g n i => ⟨rfl, rfl, rfl, rfl, ?_⟩, fun s f => ⟨fun c h hlen hfit => ?_, fun h hfit => ?_, fun h => ?_⟩⟩
  · simp only [Geometry.reportPart]
    ring
  · refine ⟨_, step_output h, rfl, fun n hn => ?_, ?_⟩
    · have hn' : n < ((f.chanWork c).out.map outputWord).length := by simpa [hlen] using hn
      rw [memWord_memWithWords _ _ _ (by simp [hlen]) n hn', List.getElem_map, List.getD_eq_getElem _ _ (by omega)]
      rfl
    · rw [memKeeps_iff]
      simpa [hlen] using memKeeps_memWithWords s.mem (s.geo.outBlock f.count c) ((f.chanWork c).out.map outputWord)
  · obtain ⟨m, hstep, hkeep, hpart, hrecords⟩ := step_report h (by omega)
    refine ⟨_, hstep, rfl, reportWords_fields hpart, fun c hc => ⟨fun hoff => ?_, fun hon => ?_⟩, hkeep⟩
    · have hrecord := hrecords c hc
      rw [recordOf, if_pos hoff] at hrecord
      exact offRecord_fields hrecord
    · have hrecord := hrecords c hc
      rw [recordOf, if_neg hon] at hrecord
      obtain ⟨hstate, hrest⟩ := channelRecordOf_fields hrecord
      refine ⟨?_, hrest⟩
      rw [hstate]
      cases (s.chan c).state <;> rfl
  · exact ⟨_, step_status h, rfl, readByte_writeBytes_one s.mem _ 1#8, memKeeps_writeBytes s.mem _ [1#8]⟩

end Sys2Proof
end

section
/-! The profile mover (R156, R158, R160): which access comes next, what each access leaves, and the segments made of them. -/

namespace Sys2Proof.Machine

/-! ### The next access -/

section
variable {s t : State} {u : Transfer}

theorem segment_eq (u : Transfer) :
    u.segment = if u.progress < u.copy then min 8 (u.copy - u.progress) else min 8 (u.copy + u.fill - u.progress) := rfl

theorem segment_le (u : Transfer) : u.segment ≤ 8 := by
  rw [segment_eq]
  split <;> exact min_le_left _ _

theorem access_captureRead (hd : u.direction = .capture) (h0 : 0 < u.segment) (hdue : u.moveDue = false)
    (hr : u.read.length < u.segment) : u.access = some .captureRead := by
  simp [Transfer.access, hd, show u.segment ≠ 0 by omega, hdue, hr]

theorem access_dataWrite (hd : u.direction = .capture) (h0 : 0 < u.segment) (hdue : u.moveDue = false)
    (hr : u.segment ≤ u.read.length) (hw : u.written < u.segment) : u.access = some .dataWrite := by
  simp [Transfer.access, hd, show u.segment ≠ 0 by omega, hdue, show ¬ u.read.length < u.segment by omega, hw]

theorem access_movedWrite (hd : u.direction = .capture) (h0 : 0 < u.segment)
    (h : u.moveDue = true ∨ u.segment ≤ u.read.length ∧ u.segment ≤ u.written) : u.access = some .movedWrite := by
  have hne : u.segment ≠ 0 := by omega
  rcases h with hdue | ⟨hr, hw⟩
  · simp [Transfer.access, hd, hne, hdue]
  · simp [Transfer.access, hd, hne, show ¬ u.read.length < u.segment by omega, show ¬ u.written < u.segment by omega]

theorem access_validWrite (hd : u.direction = .capture) : u.access = some .validWrite ↔ u.segment = 0 := by
  simp only [Transfer.access, hd]
  split_ifs <;> simp_all

theorem access_dataRead (hd : u.direction = .restore) (h0 : 0 < u.segment) (hp : u.progress < u.copy)
    (hr : u.read.length < u.segment) : u.access = some .dataRead := by
  simp [Transfer.access, hd, show u.segment ≠ 0 by omega, hp, hr]

theorem access_restoreWrite (hd : u.direction = .restore) (h0 : 0 < u.segment) (h : u.copy ≤ u.progress ∨ u.segment ≤ u.read.length) :
    u.access = some .restoreWrite := by
  simp only [Transfer.access, hd]
  rw [if_neg (by omega), if_neg (by omega)]

theorem access_restore_done (hd : u.direction = .restore) (h0 : u.segment = 0) : u.access = none := by
  simp [Transfer.access, hd, h0]

theorem access_restore_ne_validWrite (hd : u.direction = .restore) : u.access ≠ some .validWrite := by
  simp only [Transfer.access, hd]
  split_ifs <;> simp

/-! ### Going on -/

theorem segmentGoesOn_within (ht : t.transfer = some u) {n : Nat} (h : u.progress = n) : t.segmentGoesOn n = true := by
  simp [State.segmentGoesOn, ht, h]

theorem segmentGoesOn_past (ht : t.transfer = some u) {n : Nat} (h : u.progress ≠ n) :
    t.segmentGoesOn n = decide (u.access = some .validWrite) := by
  simp [State.segmentGoesOn, ht, h]

theorem segmentGoesOn_idle (ht : t.transfer = none) (n : Nat) : t.segmentGoesOn n = false := by
  simp [State.segmentGoesOn, ht]

variable {a : MoverAccess} {n : Nat}

theorem runSegment_goes (ht : s.transfer = some u) (ha : u.access = some a) (hp : a.usesPort = true → s.engineAsks = false)
    (hunit : moverUnit u a s = .ok () t) (hgo : t.segmentGoesOn u.progress = true) : runSegment (n + 1) s = runSegment n t := by
  rw [runSegment_succ n s u a ht ha hp]
  simp [hunit, hgo]

theorem runSegment_stops (ht : s.transfer = some u) (ha : u.access = some a) (hp : a.usesPort = true → s.engineAsks = false)
    (hunit : moverUnit u a s = .ok () t) (hgo : t.segmentGoesOn u.progress = false) : runSegment (n + 1) s = .ok () t := by
  rw [runSegment_succ n s u a ht ha hp]
  simp [hunit, hgo]

/-- A command of one access. -/
theorem runSegment_one (ht : s.transfer = some u) (ha : u.access = some a) (hp : a.usesPort = true → s.engineAsks = false)
    (hunit : moverUnit u a s = .ok () t) : runSegment 1 s = .ok () t := by
  cases hgo : t.segmentGoesOn u.progress
  · exact runSegment_stops ht ha hp hunit hgo
  · exact runSegment_goes ht ha hp hunit hgo

theorem runSegment_one_error {fault : EngineFault} (ht : s.transfer = some u) (ha : u.access = some a)
    (hp : a.usesPort = true → s.engineAsks = false) (hunit : moverUnit u a s = .error fault t) : runSegment 1 s = .error fault t := by
  rw [runSegment_succ 0 s u a ht ha hp]
  simp [hunit]

end

/-! ### What each access leaves -/

section
variable {s : State} {u : Transfer}

theorem transfer_self (h : s.transfer = some u) : s.setTransfer (some u) = s := by
  cases s
  simp_all [State.setTransfer]

/-- The slot that capture access `j` of a segment reads. -/
def State.captureSlot (s : State) (u : Transfer) (j : Nat) : Slot :=
  s.slot ((s.extent u.chan).base + (u.progress + j))

theorem captureRead_sound (h : (s.captureSlot u u.read.length).bad = 0#258) :
    captureRead u s = .ok () (s.setTransfer (some { u with read := u.read ++ [(s.captureSlot u u.read.length).parts] })) := by
  simp only [captureRead, work_bind, getState_apply]
  rw [readSlot_sound h]
  rfl

theorem captureRead_failed (h : (s.captureSlot u u.read.length).bad ≠ 0#258) :
    captureRead u s = captureReadFailed u (u.progress + u.read.length)
      (s.setSlot ((s.extent u.chan).base + (u.progress + u.read.length)) .zero) := by
  simp only [captureRead, work_bind, getState_apply]
  rw [readSlot_failed h]
  rfl

theorem captureDataWrite_quiet (hbus : s.bus = []) :
    captureDataWrite u s = .ok () ((s.setMem (memWithWords s.mem (profileData u.slotAddr (u.progress + u.written))
      (u.read.getD u.written []))).setTransfer (some { u with written := u.written + 1 })) := by
  simp only [captureDataWrite, work_bind, writeWords_quiet _ _ s hbus, update_apply]

theorem captureMovedWrite_quiet (hbus : s.bus = []) :
    captureMovedWrite u s = .ok () ((s.setMem (writeBytes s.mem (u.slotAddr.toNat + 0x10)
      (wordBytes (BitVec.ofNat 32 (u.progress + u.segment))))).setTransfer (some u.advanced)) := by
  simp only [captureMovedWrite, work_bind, onFault_apply, writeWord_quiet _ _ s hbus, update_apply]

theorem finishCapture_quiet (hbus : s.bus = []) :
    finishCapture u s = .ok () (((s.setMem (writeBytes s.mem u.slotAddr.toNat (wordBytes 2))).endCapture u).completing u.cmd
      (lateCode u.late .ok) s.done (BitVec.ofNat 32 u.copy) u.notify) := by
  simp only [finishCapture, work_bind, writeValidity_quiet _ _ hbus, update_apply, show validityWord .valid = 2 from rfl]
  rw [completeTransfer_quiet _ _ _ (by simpa [State.endCapture, State.modChan_eq] using hbus)]
  simp [State.endCapture, State.modChan_eq]

theorem restoreDataRead_quiet (hbus : s.bus = []) :
    restoreDataRead u s = .ok () (s.setTransfer (some { u with
      read := u.read ++ [memWords s.mem (profileData u.slotAddr (u.progress + u.read.length)) 258] })) := by
  simp only [restoreDataRead, work_bind, readWords_quiet _ _ s hbus, update_apply, Config.slotParts]

theorem restoreWrite_apply (s : State) (u : Transfer) :
    restoreWrite u s = .ok () ((s.writeSlot ((s.extent u.chan).base + u.progress + u.written) u.restoreParts).setTransfer
      (some (if u.written + 1 < u.segment then { u with written := u.written + 1 } else u.advanced))) := rfl

theorem restoreWrite_within (s : State) (h : u.written + 1 < u.segment) :
    restoreWrite u s = .ok () ((s.writeSlot ((s.extent u.chan).base + u.progress + u.written) u.restoreParts).setTransfer
      (some { u with written := u.written + 1 })) := by
  rw [restoreWrite_apply, if_pos h]

theorem restoreWrite_last (s : State) (h : u.segment ≤ u.written + 1) :
    restoreWrite u s = .ok () ((s.writeSlot ((s.extent u.chan).base + u.progress + u.written) u.restoreParts).setTransfer
      (some u.advanced)) := by
  rw [restoreWrite_apply, if_neg (by omega)]

end

/-! ### The runs of a capture segment (R158) -/

section
variable {s : State} {u : Transfer}

/-- The reads of a capture segment's first `k` slots. -/
theorem runSegment_captureReads (hd : u.direction = .capture) (hdue : u.moveDue = false) (hread : u.read = []) (hasks : s.engineAsks = false)
    (k N : Nat) (hk : k ≤ u.segment) (hsound : ∀ j < k, (s.captureSlot u j).bad = 0#258) :
    runSegment (k + N) (s.setTransfer (some u)) =
      runSegment N (s.setTransfer (some { u with read := (List.range k).map fun j => (s.captureSlot u j).parts })) := by
  induction k generalizing N with
  | zero =>
    rw [Nat.zero_add, List.range_zero, List.map_nil, ← hread]
  | succ k ih =>
    rw [show k + 1 + N = k + (N + 1) by ring, ih (N + 1) (by omega) fun j hj => hsound j (by omega)]
    set v : Transfer := { u with read := (List.range k).map fun j => (s.captureSlot u j).parts } with hv
    have hlen : v.read.length = k := by simp [hv]
    have hslot : (s.setTransfer (some v)).captureSlot v v.read.length = s.captureSlot u k := by rw [hlen]; rfl
    have hunit : moverUnit v .captureRead (s.setTransfer (some v)) =
        .ok () (s.setTransfer (some { u with read := (List.range (k + 1)).map fun j => (s.captureSlot u j).parts })) := by
      rw [moverUnit, captureRead_sound (by rw [hslot]; exact hsound k (by omega)), hslot]
      simp [hv, List.range_succ, State.setTransfer]
    refine runSegment_goes rfl (access_captureRead hd ?_ hdue ?_) (fun _ => hasks) hunit (segmentGoesOn_within rfl (by rfl))
    · exact show 0 < u.segment by omega
    · rw [hlen]
      exact show k < u.segment by omega

/-- The writes of a capture segment's first `k` slots. -/
theorem runSegment_dataWrites (hbus : s.bus = []) (hd : u.direction = .capture) (hdue : u.moveDue = false) (hwritten : u.written = 0)
    (hread : u.segment ≤ u.read.length) (hlen : ∀ j < u.segment, (u.read.getD j []).length = 258)
    (k N : Nat) (hk : k ≤ u.segment) :
    ∃ m, runSegment (k + N) (s.setTransfer (some u)) = runSegment N ((s.setMem m).setTransfer (some { u with written := k })) ∧
      MemKeeps s.mem m [(profileData u.slotAddr u.progress, k * 1032)] ∧
      ∀ j < k, MemHolds m (profileData u.slotAddr u.progress + j * 1032) (u.read.getD j []) := by
  have hfew := segment_le u
  induction k generalizing N with
  | zero =>
    refine ⟨s.mem, ?_, .refl _ _, fun j hj => absurd hj (by omega)⟩
    rw [Nat.zero_add, ← hwritten]
    rfl
  | succ k ih =>
    obtain ⟨m, hrun, hkeep, hholds⟩ := ih (N + 1) (by omega)
    have hat : profileData u.slotAddr (u.progress + k) = profileData u.slotAddr u.progress + k * 1032 := by
      simp only [profileData, Config.slotBytes]
      ring
    have hblock := hlen k (by omega)
    set m' := memWithWords m (profileData u.slotAddr u.progress + k * 1032) (u.read.getD k []) with hm'
    have hkeep' : MemKeeps m m' [(profileData u.slotAddr u.progress + k * 1032, 1032)] := by
      have := memKeeps_memWithWords m (profileData u.slotAddr u.progress + k * 1032) (u.read.getD k [])
      rwa [hblock] at this
    refine ⟨m', ?_, ?_, fun j hj => ?_⟩
    · rw [show k + 1 + N = k + (N + 1) by ring, hrun]
      have hunit : moverUnit { u with written := k } .dataWrite ((s.setMem m).setTransfer (some { u with written := k })) =
          .ok () ((s.setMem m').setTransfer (some { u with written := k + 1 })) := by
        rw [moverUnit, captureDataWrite_quiet (s := (s.setMem m).setTransfer (some { u with written := k })) hbus]
        simp only [State.setTransfer, State.setMem, hat, hm']
      exact runSegment_goes rfl (access_dataWrite hd (show 0 < u.segment by omega) hdue hread (show k < u.segment by omega))
        (fun h => absurd h (by simp [MoverAccess.usesPort])) hunit (segmentGoesOn_within rfl (by rfl))
    · refine (hkeep.trans hkeep').cover fun r hr => ⟨_, List.mem_singleton_self _, ?_⟩
      simp only [List.singleton_append, List.mem_cons, List.not_mem_nil, or_false] at hr
      rcases hr with rfl | rfl <;> constructor <;> simp only <;> omega
    · rcases Nat.lt_succ_iff_lt_or_eq.mp hj with hlt | rfl
      · refine (hholds j hlt).kept hkeep' fun r hr => ?_
        obtain rfl := List.mem_singleton.mp hr
        rw [hlen j (by omega)]
        exact apart_of_le (by omega) (by omega)
      · exact memHolds_memWithWords _ _ _ (by omega)

/-- The bytes and words a capture segment of `n` slots leaves (R158). -/
def State.CapturedIn (s : State) (u : Transfer) (n : Nat) (m : List Host.Cell) : Prop :=
  (∀ j < n, MemHolds m (u.slotAddr.toNat + 64 + u.progress * 1032 + j * 1032) (s.captureSlot u j).parts) ∧
  memWord m (u.slotAddr.toNat + 0x10) = BitVec.ofNat 32 (u.progress + n)

/-- A capture segment up to the write of its progress; what follows is left to `N` more accesses. -/
theorem runSegment_capture (hbus : s.bus = []) (hd : u.direction = .capture) (hu : s.transfer = some u) (hbetween : u.BetweenSegments)
    (hasks : s.engineAsks = false) (h0 : 0 < u.segment)
    (hfit : u.slotAddr.toNat + 64 + (u.progress + u.segment) * 1032 ≤ 4294967296)
    (hsound : ∀ j < u.segment, (s.captureSlot u j).bad = 0#258 ∧ (s.captureSlot u j).parts.length = 258) (N : Nat) :
    ∃ m t, t = { s with transfer := some { u with progress := u.progress + u.segment }, mem := m } ∧
      (t.segmentGoesOn u.progress = false → runSegment (u.segment + (u.segment + (N + 1))) s = .ok () t) ∧
      (t.segmentGoesOn u.progress = true → runSegment (u.segment + (u.segment + (N + 1))) s = runSegment N t) ∧
      s.CapturedIn u u.segment m ∧
      MemKeeps s.mem m [(u.slotAddr.toNat + 0x10, 4), (u.slotAddr.toNat + 64 + u.progress * 1032, u.segment * 1032)] := by
  obtain ⟨hread, hwritten, hdue⟩ := hbetween
  have hfew := segment_le u
  set v : Transfer := { u with read := (List.range u.segment).map fun j => (s.captureSlot u j).parts } with hv
  have hblock : ∀ j < u.segment, v.read.getD j [] = (s.captureSlot u j).parts := fun j hj => by simp [hv, hj]
  have hreads := fun N => runSegment_captureReads hd hdue hread hasks u.segment N le_rfl fun j hj => (hsound j hj).1
  rw [transfer_self hu] at hreads
  obtain ⟨m, hwrites, hkeep, hholds⟩ := runSegment_dataWrites (s := s) (u := v) hbus hd hdue hwritten
    (show u.segment ≤ v.read.length by simp [hv]) (fun j hj => by rw [hblock j hj]; exact (hsound j hj).2) u.segment (N + 1) le_rfl
  set m' := writeBytes m (u.slotAddr.toNat + 0x10) (wordBytes (BitVec.ofNat 32 (u.progress + u.segment))) with hm'
  have hlast : MemKeeps m m' [(u.slotAddr.toNat + 0x10, 4)] := memKeeps_writeWord _ _ _
  have hunit : moverUnit { v with written := u.segment } .movedWrite ((s.setMem m).setTransfer (some { v with written := u.segment })) =
      .ok () { s with transfer := some { u with progress := u.progress + u.segment }, mem := m' } := by
    have hadv : ({ v with written := u.segment } : Transfer).advanced = { u with progress := u.progress + u.segment } := by
      simp [Transfer.advanced, hv, hread, hwritten, hdue, Transfer.segment]
    rw [moverUnit, captureMovedWrite_quiet (s := (s.setMem m).setTransfer (some { v with written := u.segment })) hbus, hadv]
    rfl
  have haccess : ({ v with written := u.segment } : Transfer).access = some .movedWrite :=
    access_movedWrite hd h0 (.inr ⟨show u.segment ≤ v.read.length by simp [hv], show u.segment ≤ u.segment from le_rfl⟩)
  have hport : MoverAccess.movedWrite.usesPort = true →
      ((s.setMem m).setTransfer (some { v with written := u.segment })).engineAsks = false := fun h => absurd h (by simp [MoverAccess.usesPort])
  refine ⟨m', _, rfl, fun hgo => ?_, fun hgo => ?_, ⟨fun j hj => ?_, memWord_writeBytes_wordBytes _ _ _⟩, ?_⟩
  · rw [hreads, hwrites]
    exact runSegment_stops rfl haccess hport hunit hgo
  · rw [hreads, hwrites]
    exact runSegment_goes rfl haccess hport hunit hgo
  · have hplace : profileData v.slotAddr v.progress = u.slotAddr.toNat + 64 + u.progress * 1032 := rfl
    have hdata := hholds j hj
    rw [hblock j hj, hplace] at hdata
    refine hdata.kept hlast fun r hr => ?_
    obtain rfl := List.mem_singleton.mp hr
    rw [(hsound j hj).2]
    exact apart_of_ge (by omega) (by omega)
  · refine (hkeep.trans hlast).cover fun r hr => ?_
    simp only [List.singleton_append, List.mem_cons, List.not_mem_nil, or_false] at hr
    rcases hr with rfl | rfl
    · exact ⟨_, List.mem_cons_of_mem _ (List.mem_singleton_self _), le_rfl, le_rfl⟩
    · exact ⟨_, List.mem_cons_self, le_rfl, le_rfl⟩

/-- The state after the end of a capture whose slots are all copied. -/
def State.captured (s : State) (u : Transfer) (m : List Host.Cell) : State :=
  { s with
    transfer := none
    channels := (s.modChan u.chan fun ctx => { ctx with capture := false }).channels
    notice := s.notice || u.notify
    mem := memWithCompletion (writeBytes m u.slotAddr.toNat (wordBytes 2)) u.cmd (lateCode u.late .ok) s.done (BitVec.ofNat 32 u.copy) }

/-- The end of a capture (R158), as the last access of its command. -/
theorem runSegment_validWrite {N : Nat} {v : Transfer} {m : List Host.Cell} (hbus : s.bus = []) (hd : v.direction = .capture)
    (h0 : v.segment = 0) : runSegment (N + 1) { s with transfer := some v, mem := m } = .ok () (s.captured v m) := by
  have hunit : moverUnit v .validWrite { s with transfer := some v, mem := m } = .ok () (s.captured v m) := by
    rw [moverUnit, finishCapture_quiet (s := { s with transfer := some v, mem := m }) hbus]
    simp only [State.captured, State.completing, State.setMem, State.setNotice, State.endCapture, State.modChan, State.setChan,
      State.setTransfer, State.chan]
  exact runSegment_stops rfl ((access_validWrite hd).mpr h0) (fun h => absurd h (by simp [MoverAccess.usesPort])) hunit
    (segmentGoesOn_idle rfl _)

/-- A capture read that fails parity (R163): the slot zeroed, the count, the note for the walk, and the capture's early end. -/
def State.captureFailed (s : State) (u : Transfer) (j : Nat) : State :=
  { s with
    transfer := none
    channels := (s.modChan u.chan fun ctx => { ctx with capture := false, parity := min 65535 (ctx.parity + 1) }).channels
    pool := (s.setSlot ((s.extent u.chan).base + j) .zero).pool
    flight := s.flight.map fun f => { f with failedCaptures := u.chan :: f.failedCaptures }
    notice := s.notice || u.notify
    mem := memWithCompletion (writeBytes s.mem u.slotAddr.toNat (wordBytes 3)) u.cmd .dataError s.done (BitVec.ofNat 32 j) }

theorem modChan_modChan (s : State) {c : Nat} (hc : c < 16) (g h : Channel → Channel) :
    (s.modChan c g).modChan c h = s.modChan c (fun ctx => h (g ctx)) := by
  rw [State.modChan, State.modChan, chan_setChan_same _ _ hc]
  simp [State.setChan, State.modChan]

theorem countParity_eq : Channel.countParity = fun ctx : Channel => { ctx with parity := min 65535 (ctx.parity + 1) } := rfl

theorem captureReadFailed_quiet (hbus : s.bus = []) (hchan : u.chan < 16) (j : Nat) :
    captureReadFailed u j (s.setSlot ((s.extent u.chan).base + j) .zero) = .ok () (s.captureFailed u j) := by
  unfold State.captureFailed
  generalize Slot.zero = zero
  set z := s.setSlot ((s.extent u.chan).base + j) zero with hz
  simp only [captureReadFailed, endCaptureFailed, work_bind, update_apply]
  rw [endCaptureEarly_quiet _ _ _ (show ((z.modChan u.chan Channel.countParity).noteFailedCapture u.chan).bus = [] from hbus)]
  have hchans : (((z.modChan u.chan Channel.countParity).noteFailedCapture u.chan).endCapture u).channels =
      (s.modChan u.chan fun ctx => { ctx with capture := false, parity := min 65535 (ctx.parity + 1) }).channels := by
    have hboth := congrArg State.channels (modChan_modChan z hchan Channel.countParity fun ctx => { ctx with capture := false })
    rw [countParity_eq] at hboth ⊢
    exact hboth
  unfold State.completing
  simp only [State.setMem, State.setNotice, hchans]
  rw [lateCode_of_ne (by simp)]
  simp only [State.endCapture, State.noteFailedCapture, State.modChan, State.setChan, State.setTransfer, State.setFlight, hz,
    State.setSlot, State.setPool]

theorem captureRead_fails (hbus : s.bus = []) (hchan : u.chan < 16) (h : (s.captureSlot u u.read.length).bad ≠ 0#258) :
    captureRead u s = .ok () (s.captureFailed u (u.progress + u.read.length)) := by
  rw [captureRead_failed h, captureReadFailed_quiet hbus hchan]

end

/-! ### The runs of a restore segment (R160) -/

section
variable {s : State} {u : Transfer}

/-- The reads of a restore segment's first `k` slots from the data area. -/
theorem runSegment_dataReads (hbus : s.bus = []) (hd : u.direction = .restore) (hread : u.read = []) (hcopy : u.progress < u.copy)
    (k N : Nat) (hk : k ≤ u.segment) :
    runSegment (k + N) (s.setTransfer (some u)) =
      runSegment N (s.setTransfer (some { u with
        read := (List.range k).map fun j => memWords s.mem (profileData u.slotAddr (u.progress + j)) 258 })) := by
  induction k generalizing N with
  | zero => rw [Nat.zero_add, List.range_zero, List.map_nil, ← hread]
  | succ k ih =>
    rw [show k + 1 + N = k + (N + 1) by ring, ih (N + 1) (by omega)]
    set v : Transfer :=
      { u with read := (List.range k).map fun j => memWords s.mem (profileData u.slotAddr (u.progress + j)) 258 } with hv
    have hlen : v.read.length = k := by simp [hv]
    have hunit : moverUnit v .dataRead (s.setTransfer (some v)) = .ok () (s.setTransfer (some { u with
        read := (List.range (k + 1)).map fun j => memWords s.mem (profileData u.slotAddr (u.progress + j)) 258 })) := by
      rw [moverUnit, restoreDataRead_quiet (s := s.setTransfer (some v)) hbus, hlen]
      simp [hv, List.range_succ, State.setTransfer]
    exact runSegment_goes rfl (access_dataRead hd (show 0 < u.segment by omega) hcopy (by rw [hlen]; exact show k < u.segment by omega))
      (fun h => absurd h (by simp [MoverAccess.usesPort])) hunit (segmentGoesOn_within rfl (by rfl))

/-- Slot `i` after the first `k` writes of a restore segment. -/
def State.restoredSlot (s : State) (u : Transfer) (k i : Nat) : Slot :=
  if (s.extent u.chan).base + u.progress ≤ i ∧ i < (s.extent u.chan).base + u.progress + k then
    { parts := ({ u with written := i - ((s.extent u.chan).base + u.progress) } : Transfer).restoreParts, bad := 0 }
  else s.slot i

theorem restoredSlot_succ (s : State) (u : Transfer) (k i : Nat) :
    s.restoredSlot u (k + 1) i =
      if i = (s.extent u.chan).base + u.progress + k then { parts := ({ u with written := k } : Transfer).restoreParts, bad := 0 }
      else s.restoredSlot u k i := by
  unfold State.restoredSlot
  by_cases h : i = (s.extent u.chan).base + u.progress + k
  · rw [if_pos h, if_pos (by omega), h, Nat.add_sub_cancel_left]
  · rw [if_neg h]
    exact if_congr (by omega) rfl rfl

/-- The writes of a restore segment but the last, which completes it. -/
theorem runSegment_restoreWrites (hd : u.direction = .restore) (hwritten : u.written = 0)
    (hready : u.copy ≤ u.progress ∨ u.segment ≤ u.read.length) (hasks : s.engineAsks = false) (k N : Nat) (hk : k < u.segment) :
    ∃ p, runSegment (k + N) (s.setTransfer (some u)) = runSegment N { s with pool := p, transfer := some { u with written := k } } ∧
      ∀ i, ({ s with pool := p } : State).slot i = s.restoredSlot u k i := by
  induction k generalizing N with
  | zero =>
    refine ⟨s.pool, ?_, fun i => ?_⟩
    · rw [Nat.zero_add, ← hwritten]
      rfl
    · rw [State.restoredSlot, if_neg (by omega)]
  | succ k ih =>
    obtain ⟨p, hrun, hslots⟩ := ih (N + 1) (by omega)
    set q := (({ s with pool := p } : State).writeSlot ((s.extent u.chan).base + u.progress + k)
      ({ u with written := k } : Transfer).restoreParts).pool with hq
    refine ⟨q, ?_, fun i => ?_⟩
    · rw [show k + 1 + N = k + (N + 1) by ring, hrun]
      have hunit : moverUnit { u with written := k } .restoreWrite { s with pool := p, transfer := some { u with written := k } } =
          .ok () { s with pool := q, transfer := some { u with written := k + 1 } } :=
        restoreWrite_within (u := { u with written := k }) _ hk
      exact runSegment_goes rfl (access_restoreWrite hd (show 0 < u.segment by omega) hready) (fun _ => hasks) hunit
        (segmentGoesOn_within rfl (by rfl))
    · rw [restoredSlot_succ, ← hslots i]
      exact slot_writeSlot { s with pool := p } _ i _

/-- A restore segment's writes (R160). -/
theorem runSegment_restoreAll (hd : u.direction = .restore) (hwritten : u.written = 0)
    (hready : u.copy ≤ u.progress ∨ u.segment ≤ u.read.length) (hasks : s.engineAsks = false) (h0 : 0 < u.segment) (N : Nat) :
    ∃ p, runSegment (u.segment + N) (s.setTransfer (some u)) = .ok () { s with pool := p, transfer := some u.advanced } ∧
      ∀ i, ({ s with pool := p } : State).slot i = s.restoredSlot u u.segment i := by
  obtain ⟨k, hk⟩ : ∃ k, u.segment = k + 1 := ⟨u.segment - 1, by omega⟩
  obtain ⟨p, hrun, hslots⟩ := runSegment_restoreWrites hd hwritten hready hasks k (N + 1) (by omega)
  set q := (({ s with pool := p } : State).writeSlot ((s.extent u.chan).base + u.progress + k)
    ({ u with written := k } : Transfer).restoreParts).pool with hq
  refine ⟨q, ?_, fun i => ?_⟩
  · rw [hk, show k + 1 + N = k + (N + 1) by ring, hrun]
    have hunit : moverUnit { u with written := k } .restoreWrite { s with pool := p, transfer := some { u with written := k } } =
        .ok () { s with pool := q, transfer := some u.advanced } :=
      restoreWrite_last (u := { u with written := k }) _ (show u.segment ≤ k + 1 by omega)
    refine runSegment_stops rfl (access_restoreWrite hd h0 hready) (fun _ => hasks) hunit ?_
    rw [segmentGoesOn_past (u := u.advanced) rfl (show u.progress + u.segment ≠ u.progress by omega)]
    exact decide_eq_false (access_restore_ne_validWrite hd)
  · rw [hk, restoredSlot_succ, ← hslots i]
    exact slot_writeSlot { s with pool := p } _ i _

end

/-! ### Segment commands -/

section
variable {s : State} {u : Transfer} {rest : List Nat}

theorem movesSegment_works (h : s.engine = .running ∨ s.engine = .stepWait) : s.moverWorks = true := by
  simpa [State.moverWorks] using h

theorem exec_captureSegment (h : s.MovesSegment u) (hd : u.direction = .capture) :
    exec .captureSegment s = .next (settle (runSegment Config.segmentFuel) s) := by
  obtain ⟨hworks, -, hu, -, -, hgrants⟩ := h
  exact congrArg Host.Outcome.next (moveSegment_whole s Direction.capture u hu hd (movesSegment_works hworks) hgrants)

theorem exec_restoreSegment (h : s.MovesSegment u) (hd : u.direction = .restore) :
    exec .restoreSegment s = .next (settle (runSegment Config.segmentFuel) s) := by
  obtain ⟨hworks, -, hu, -, -, hgrants⟩ := h
  exact congrArg Host.Outcome.next (moveSegment_whole s Direction.restore u hu hd (movesSegment_works hworks) hgrants)

theorem moveSegment_once (h : s.MovesOnce u rest) {d : Direction} (hd : u.direction = d) :
    moveSegment d s = settle (runSegment 1) (s.setGrants rest) := by
  obtain ⟨hworks, hu, hgrants⟩ := h
  simp only [moveSegment, hu]
  rw [if_pos ⟨movesSegment_works hworks, hd⟩, hgrants]
  rfl

/-- A command of one access that is made. -/
theorem moveSegment_makes {a : MoverAccess} {t : State} (h : s.MovesOnce u rest) {d : Direction} (hd : u.direction = d)
    (ha : u.access = some a) (hp : a.usesPort = true → s.engineAsks = false) (hunit : moverUnit u a (s.setGrants rest) = .ok () t) :
    moveSegment d s = t := by
  have hu := h.2.1
  rw [moveSegment_once h hd]
  simp [settle, runSegment_one (s := s.setGrants rest) hu ha hp hunit]

theorem moveSegment_faults {a : MoverAccess} {t : State} {fault : EngineFault} (h : s.MovesOnce u rest) {d : Direction}
    (hd : u.direction = d) (ha : u.access = some a) (hp : a.usesPort = true → s.engineAsks = false)
    (hunit : moverUnit u a (s.setGrants rest) = .error fault t) : moveSegment d s = t.raise fault := by
  have hu := h.2.1
  rw [moveSegment_once h hd]
  simp [settle, runSegment_one_error (s := s.setGrants rest) hu ha hp hunit]

/-- A command of one access that waits for the port (R105). -/
theorem moveSegment_waits {a : MoverAccess} (h : s.MovesOnce u rest) {d : Direction} (hd : u.direction = d) (ha : u.access = some a)
    (hp : a.usesPort = true) (hasks : s.engineAsks = true) : moveSegment d s = s.setGrants rest := by
  have hu := h.2.1
  rw [moveSegment_once h hd]
  simp [settle, runSegment_waits 1 (s.setGrants rest) u a hu ha hp hasks]

end

/-! ### The port (R104 to R106) -/

theorem zeroes_iff (s : State) (e : Entry) : s.zeroes e = true ↔ s.WritesZeros e := by
  unfold State.zeroes State.WritesZeros
  rw [Bool.and_eq_true, decide_eq_true_iff]
  refine and_congr_right fun _ => ?_
  cases e.action <;> simp [Option.isSome_iff_exists]

theorem zeroesNext_iff (s : State) (seq : Word) : s.zeroesNext seq = true ↔ ∃ e, s.dueEntry seq = some e ∧ s.WritesZeros e := by
  unfold State.zeroesNext
  cases s.dueEntry seq with
  | none => simp
  | some e => simp [zeroes_iff]

theorem engineAsks_iff {s : State} {f : Flight} (h : s.flight = some f) :
    s.engineAsks = true ↔ f.asks = true ∧ (f.phase = .apply → ∃ e, s.dueEntry f.count = some e ∧ s.WritesZeros e) := by
  simp only [State.engineAsks, h, Bool.and_eq_true, Bool.or_eq_true, decide_eq_true_iff, zeroesNext_iff, imp_iff_not_or, ne_eq]

end Sys2Proof.Machine
end

section
/-! The statements about the mover's segments: a capture's segment whole and its failed read, a restore's segment, and the accesses one
by one (O18 to O21). -/

namespace Sys2Proof.Machine

section
variable {s : State} {u : Transfer}

/-! ### A capture's segment (O18) -/

/-- What a capture segment has written outlasts the header's validity and the completion. -/
theorem capturedIn_kept {n : Nat} {m : List Host.Cell} (h : s.CapturedIn u n m)
    (hlen : ∀ j < n, (s.captureSlot u j).parts.length = 258) (hfit : u.slotAddr.toNat + 64 + (u.progress + n) * 1032 ≤ 4294967296)
    (hapart : Apart u.slotAddr.toNat (64 + (u.progress + n) * 1032) u.cmd.toNat 64) (code : Code) (sequence result : Word) :
    s.CapturedIn u n (memWithCompletion (writeBytes m u.slotAddr.toNat (wordBytes 2)) u.cmd code sequence result) := by
  obtain ⟨hdata, hmoved⟩ := h
  have hkeep := (memKeeps_writeWord m u.slotAddr.toNat 2).trans
    (memKeeps_memWithCompletion (writeBytes m u.slotAddr.toNat (wordBytes 2)) u.cmd code sequence result)
  have hother : ∀ o l, 4 ≤ o → o + l ≤ 64 + (u.progress + n) * 1032 → o + l ≤ 4294967296 →
      ∀ r ∈ [(u.slotAddr.toNat, 4)] ++ completionBytes u.cmd, Apart (u.slotAddr.toNat + o) l r.1 r.2 := by
    intro o l ho hl hturn r hr
    rcases List.mem_append.mp hr with hr | hr
    · obtain rfl := List.mem_singleton.mp hr
      exact apart_of_ge (by omega) (by omega)
    · exact apart_completionBytes (hapart.sub (by omega) (by omega) le_rfl le_rfl) r hr
  refine ⟨fun j hj => (hdata j hj).kept hkeep ?_, ?_⟩
  · rw [hlen j hj]
    have := hother (64 + u.progress * 1032 + j * 1032) (4 * 258) (by omega) (by omega) (by omega)
    simpa [Nat.add_assoc] using this
  · rw [hkeep.word (hother 0x10 4 (by omega) (by omega) (by omega)), hmoved]

theorem capturedIn_words {n : Nat} {m : List Host.Cell} (h : s.CapturedIn u n m)
    (hlen : ∀ j < n, (s.captureSlot u j).parts.length = 258) :
    (∀ j < n, ∀ i < 258, memWord m (u.slotAddr.toNat + 64 + u.progress * 1032 + j * 1032 + 4 * i) = (s.captureSlot u j).parts.getD i 0) ∧
      memWord m (u.slotAddr.toNat + 0x10) = BitVec.ofNat 32 (u.progress + n) :=
  ⟨fun j hj i hi => h.1 j hj i (by rw [hlen j hj]; exact hi), h.2⟩

/-! ### A failed read (O19) -/

theorem captureFailed_chan (s : State) {u : Transfer} (hchan : u.chan < 16) (j : Nat) :
    (s.captureFailed u j).chan u.chan =
      { s.chan u.chan with capture := false, parity := min 65535 ((s.chan u.chan).parity + 1) } :=
  chan_setChan_same _ _ hchan

theorem captureFailed_chan_other (s : State) (u : Transfer) (j : Nat) {c : Nat} (hc : c ≠ u.chan) :
    (s.captureFailed u j).chan c = s.chan c := chan_setChan_other _ _ hc

theorem captureFailed_pool (s : State) (u : Transfer) (j : Nat) :
    (s.captureFailed u j).pool = (s.setSlot ((s.extent u.chan).base + j) .zero).pool := by
  simp only [State.captureFailed]

theorem captureFailed_mem (s : State) (u : Transfer) (j : Nat) :
    (s.captureFailed u j).mem = memWithCompletion (writeBytes s.mem u.slotAddr.toNat (wordBytes 3)) u.cmd .dataError s.done
      (BitVec.ofNat 32 j) := by
  simp only [State.captureFailed]

theorem captureFailed_slot (s : State) (u : Transfer) (j i : Nat) :
    (s.captureFailed u j).slot i = if i = (s.extent u.chan).base + j then Slot.zero else s.slot i := by
  rw [slot_congr (captureFailed_pool s u j), slot_setSlot]

/-- The memory of a capture that ends early: INVALID and the completion, and nothing else (R163). -/
theorem earlyEnd_mem (m : List Host.Cell) (a cmd : Word) (code : Code) (sequence result : Word) (hapart : Apart a.toNat 4 cmd.toNat 64) :
    memWord (memWithCompletion (writeBytes m a.toNat (wordBytes 3)) cmd code sequence result) a.toNat = 3 ∧
      MemKeeps m (memWithCompletion (writeBytes m a.toNat (wordBytes 3)) cmd code sequence result) ((a.toNat, 4) :: completionBytes cmd) := by
  have hcompletion := memKeeps_memWithCompletion (writeBytes m a.toNat (wordBytes 3)) cmd code sequence result
  refine ⟨?_, (memKeeps_writeWord m a.toNat 3).trans hcompletion⟩
  rw [hcompletion.word (apart_completionBytes hapart), memWord_writeBytes_wordBytes]

/-- The segment's reads up to one that fails. -/
theorem runSegment_captureFails (h : s.MovesSegment u) (hd : u.direction = .capture) (hchan : u.chan < 16) {j : Nat} (hj : j < u.segment)
    (hsound : ∀ k < j, (s.captureSlot u k).bad = 0#258) (hbad : (s.captureSlot u j).bad ≠ 0#258) (N : Nat) :
    runSegment (j + (N + 1)) s = .ok () (s.captureFailed u (u.progress + j)) := by
  obtain ⟨-, hbus, hu, ⟨hread, -, hdue⟩, hasks, -⟩ := h
  have hreads := runSegment_captureReads hd hdue hread hasks j (N + 1) (by omega) hsound
  rw [transfer_self hu] at hreads
  rw [hreads]
  set v : Transfer := { u with read := (List.range j).map fun i => (s.captureSlot u i).parts } with hv
  have hlen : v.read.length = j := by simp [hv]
  have hunit : moverUnit v .captureRead (s.setTransfer (some v)) = .ok () (s.captureFailed u (u.progress + j)) := by
    rw [moverUnit, captureRead_fails (s := s.setTransfer (some v)) (u := v) hbus hchan (by rw [hlen]; exact hbad), hlen]
    simp only [State.captureFailed, State.modChan, State.setChan, State.setTransfer, State.chan, State.setSlot, State.setPool,
      State.extent, hv]
  refine runSegment_stops rfl (access_captureRead hd (show 0 < u.segment by omega) hdue ?_) (fun _ => hasks) hunit
    (segmentGoesOn_idle rfl _)
  rw [hlen]
  exact hj

/-! ### A restore's segment (O20) -/

theorem restoredSlot_within {v : Transfer} {k j : Nat} (hj : j < k) :
    s.restoredSlot v k ((s.extent v.chan).base + v.progress + j) =
      { parts := ({ v with written := j } : Transfer).restoreParts, bad := 0 } := by
  rw [State.restoredSlot, if_pos (by omega), Nat.add_sub_cancel_left]

theorem restoredSlot_outside {v : Transfer} {k i : Nat}
    (hi : i < (s.extent v.chan).base + v.progress ∨ (s.extent v.chan).base + v.progress + k ≤ i) : s.restoredSlot v k i = s.slot i := by
  rw [State.restoredSlot, if_neg (by omega)]

theorem runSegment_none (n : Nat) (hu : s.transfer = some u) (ha : u.access = none) : runSegment n s = .ok () s := by
  cases n with
  | zero => rfl
  | succ n => simp [runSegment, hu, ha]

theorem restoredParts_getD (parts : List Word) (hlen : parts.length = 258) (i : Nat) :
    (restoredParts parts).getD i 0 = if i = 1 ∨ i = 257 then 0#32 else parts.getD i 0 := by
  unfold restoredParts
  by_cases h257 : i = 257
  · subst h257
    simp [hlen]
  · by_cases h1 : i = 1
    · subst h1
      simp [hlen]
    · simp [h1, h257, Ne.symm h1, Ne.symm h257]

/-- The parts of a restore write (R160). -/
theorem restoreParts_getD {v : Transfer} {i : Nat} (hlen : v.progress < v.copy → (v.read.getD v.written []).length = 258) :
    v.restoreParts.getD i 0 =
      if v.copy ≤ v.progress ∨ i = 1 ∨ i = 257 then 0#32 else (v.read.getD v.written []).getD i 0 := by
  unfold Transfer.restoreParts
  split
  · rename_i hcopy
    rw [restoredParts_getD _ (hlen hcopy)]
    exact if_congr (by omega) rfl rfl
  · rw [if_pos (.inl (by omega))]
    simp [Slot.zero, List.getElem?_replicate]
    split <;> rfl

/-- A restore's segment: with its reads before it in the copy, with none in the fill. -/
theorem runSegment_restore (h : s.MovesSegment u) (hd : u.direction = .restore) (h0 : 0 < u.segment) :
    ∃ p L, runSegment Config.segmentFuel s = .ok () { s with pool := p, transfer := some { u with progress := u.progress + u.segment } } ∧
      (∀ i, ({ s with pool := p } : State).slot i = s.restoredSlot { u with read := L } u.segment i) ∧
      (u.progress < u.copy → ∀ j < u.segment, L.getD j [] = memWords s.mem (profileData u.slotAddr (u.progress + j)) 258) := by
  obtain ⟨-, hbus, hu, ⟨hread, hwritten, hdue⟩, hasks, -⟩ := h
  have hfew := segment_le u
  have hadvanced : ∀ L, ({ u with read := L } : Transfer).advanced = { u with progress := u.progress + u.segment } := fun L => by
    simp [Transfer.advanced, hread, hwritten, hdue, Transfer.segment]
  by_cases hcopy : u.progress < u.copy
  · set L := (List.range u.segment).map fun j => memWords s.mem (profileData u.slotAddr (u.progress + j)) 258 with hL
    have hreads := runSegment_dataReads hbus hd hread hcopy u.segment (32 - u.segment) le_rfl
    rw [transfer_self hu, show u.segment + (32 - u.segment) = Config.segmentFuel from show _ = 32 by omega] at hreads
    obtain ⟨p, hrun, hslots⟩ := runSegment_restoreAll (s := s) (u := { u with read := L }) hd hwritten (.inr (by simp [hL, Transfer.segment]))
      hasks h0 (32 - 2 * u.segment)
    refine ⟨p, L, ?_, hslots, fun _ j hj => by simp [hL, hj]⟩
    have hcount : ({ u with read := L } : Transfer).segment + (32 - 2 * u.segment) = 32 - u.segment := by
      change u.segment + (32 - 2 * u.segment) = 32 - u.segment
      omega
    rw [hcount, hadvanced] at hrun
    rw [hreads, hrun]
  · obtain ⟨p, hrun, hslots⟩ := runSegment_restoreAll hd hwritten (.inl (by omega)) hasks h0 (32 - u.segment)
    have hself : ({ u with read := u.read } : Transfer) = u := rfl
    refine ⟨p, u.read, ?_, hslots, fun h => absurd h hcopy⟩
    rw [transfer_self hu, show u.segment + (32 - u.segment) = Config.segmentFuel from show _ = 32 by omega, ← hself, hadvanced] at hrun
    exact hrun

/-! ### Single accesses (O21) -/

/-- A write that the bus fails leaves the state alone. -/
theorem writeWord_failed {a b : Nat} (w : Word) (h : s.bus = [{ write := true, addr := b, passes := 0 }]) (ha : wordAddress a = b) :
    writeWord a w s = .error (addressFault .busError b) s := by
  simp [writeWord, writeLanes, busAccess, busAnswer, h, ha]

theorem wordAddress_moved {a : Word} (h : a.toNat % 64 = 0) : wordAddress (a.toNat + 0x10) = a.toNat + 0x10 := by
  have := a.isLt
  simp only [wordAddress, cellOf]
  omega

theorem movedFault {a : Word} (h : a.toNat % 64 = 0) :
    addressFault .busError (a.toNat + 0x10) = { code := .busError, detail := (a + 0x10).extractLsb' 2 30 } := by
  have hadd : (a + 0x10).toNat = a.toNat + 0x10 := by
    have := a.isLt
    rw [BitVec.toNat_add, show (0x10 : Word).toNat = 0x10 from rfl]
    omega
  rw [← hadd, addressFault_detail]

/-- A write of `moved` that fails is noted (R165). -/
theorem captureMovedWrite_failed (hbus : s.bus = [{ write := true, addr := u.slotAddr.toNat + 0x10, passes := 0 }])
    (halign : u.slotAddr.toNat % 64 = 0) :
    captureMovedWrite u s = .error { code := .busError, detail := (u.slotAddr + 0x10).extractLsb' 2 30 }
      (s.setTransfer (some { u with moveDue := true })) := by
  simp only [captureMovedWrite, work_bind, onFault_apply, writeWord_failed _ hbus (wordAddress_moved halign), movedFault halign]

end

end Sys2Proof.Machine

namespace Sys2Proof
open Sys2Proof.Machine

/-- Settles O18: the reads, the writes, the progress and the end of a capture's segment, run by run. -/
theorem captureSegmentCopies : Obligations.CaptureSegmentCopies := by
  unfold Obligations.CaptureSegmentCopies
  intro s u h hd n slotAt data copied hn hfit hsound
  have hprogress : u.progress < u.copy := by omega
  have hseg : u.segment = n := by rw [segment_eq, if_pos hprogress]
  have hmoves := h
  obtain ⟨-, hbus, hu, hbetween, hasks, -⟩ := hmoves
  have hfew := segment_le u
  have hlen : ∀ j < n, (s.captureSlot u j).parts.length = 258 := fun j hj => (hsound j hj).2
  have hn_le : n ≤ u.copy - u.progress := min_le_right _ _
  have hend : u.slotAddr.toNat + 64 + (u.progress + n) * 1032 ≤ 4294967296 :=
    (Nat.add_le_add_left (Nat.mul_le_mul_right 1032 (show u.progress + n ≤ u.copy by omega)) _).trans hfit
  obtain ⟨m, t, ht, hstops, hgoes, hcaptured, hkeep⟩ := runSegment_capture hbus hd hu hbetween hasks (by omega)
    (by rw [hseg]; exact hend) (fun j hj => hsound j (by rwa [hseg] at hj)) (31 - 2 * n)
  rw [hseg] at ht hstops hgoes hcaptured hkeep
  rw [show n + (n + (31 - 2 * n + 1)) = Config.segmentFuel from show _ = 32 by omega] at hstops hgoes
  have hprog : t.transfer = some { u with progress := u.progress + n } := by rw [ht]
  have hpast := segmentGoesOn_past hprog (n := u.progress) (show u.progress + n ≠ u.progress by omega)
  constructor
  · intro hleft
    have hsegment : ({ u with progress := u.progress + n } : Transfer).segment ≠ 0 := by
      rw [segment_eq, if_pos (show u.progress + n < u.copy from hleft)]
      change min 8 (u.copy - (u.progress + n)) ≠ 0
      omega
    have hstop : t.segmentGoesOn u.progress = false := by
      rw [hpast]
      exact decide_eq_false fun h => hsegment ((access_validWrite (u := { u with progress := u.progress + n }) hd).mp h)
    refine ⟨t, ?_, by rw [ht], ?_, ?_⟩
    · rw [exec_captureSegment h hd, settle, hstops hstop]
    · rw [ht]
      exact capturedIn_words hcaptured hlen
    · rw [ht]
      exact hkeep
  · intro hlast hfill hchan _ hapart
    set v : Transfer := { u with progress := u.progress + n } with hv
    have hsegment : v.segment = 0 := by
      rw [segment_eq, if_neg (show ¬ u.progress + n < u.copy by omega)]
      change min 8 (u.copy + u.fill - (u.progress + n)) = 0
      omega
    have hgo : t.segmentGoesOn u.progress = true := by
      rw [hpast]
      exact decide_eq_true ((access_validWrite (u := v) hd).mpr hsegment)
    obtain ⟨N, hN⟩ : ∃ N, 31 - 2 * n = N + 1 := ⟨30 - 2 * n, by omega⟩
    have hrun : runSegment Config.segmentFuel s = .ok () (s.captured v m) := by
      rw [hgoes hgo, hN, ht]
      exact runSegment_validWrite hbus hd hsegment
    rw [← hlast] at hapart hfit
    have hmem := capturedIn_kept hcaptured hlen (by omega) hapart (lateCode u.late .ok) s.done (BitVec.ofNat 32 u.copy)
    have hcompletion := memKeeps_memWithCompletion (writeBytes m u.slotAddr.toNat (wordBytes 2)) u.cmd (lateCode u.late .ok) s.done
      (BitVec.ofNat 32 u.copy)
    refine ⟨s.captured v m, ?_, rfl, capturedIn_words hmem hlen, chan_setChan_same _ _ hchan, fun c hc => chan_setChan_other _ _ hc,
      ?_, ?_, ?_⟩
    · rw [exec_captureSegment h hd, settle, hrun]
    · exact (hcompletion.word (apart_completionBytes (hapart.sub le_rfl (by omega) le_rfl le_rfl))).trans
        (memWord_writeBytes_wordBytes _ _ _)
    · rw [← lateCode_ok, memCompleted_iff]
      exact memCompleted_memWithCompletion _ _ _ _ _
    · rw [memKeeps_iff]
      refine ((hkeep.trans (memKeeps_writeWord m u.slotAddr.toNat 2)).trans hcompletion).cover fun r hr => ⟨r, ?_, le_rfl, le_rfl⟩
      simp only [List.mem_append, List.mem_cons, List.not_mem_nil, or_false] at hr ⊢
      tauto

/-- Settles O19: the reads before the failing one are made, and the capture then ends as R163 says. -/
theorem captureParityFailure : Obligations.CaptureParityFailure := by
  unfold Obligations.CaptureParityFailure
  intro s u j h hd hchan slotAt hj hsound hbad _ _ hapart
  have hfew := segment_le u
  have hseg : j < u.segment := by
    rw [segment_eq, if_pos (by omega)]
    exact hj
  have hrun := runSegment_captureFails h hd hchan hseg hsound hbad (31 - j)
  have hcount : j + (31 - j + 1) = Config.segmentFuel := show _ = 32 by clear hbad; omega
  rw [hcount] at hrun
  obtain ⟨hword, hkeep⟩ := earlyEnd_mem s.mem u.slotAddr u.cmd .dataError s.done (BitVec.ofNat 32 (u.progress + j)) hapart
  refine ⟨s.captureFailed u (u.progress + j), ?_, by simp only [State.captureFailed], captureFailed_chan s hchan _, fun c hc => captureFailed_chan_other s u _ hc,
    fun i => captureFailed_slot s u _ i, ?_, ?_, ?_⟩
  · rw [exec_captureSegment h hd, settle, hrun]
  · rw [captureFailed_mem, hword]
  · rw [memCompleted_iff, captureFailed_mem]
    exact memCompleted_memWithCompletion _ _ _ _ _
  · rw [memKeeps_iff, captureFailed_mem]
    exact hkeep

/-- Settles O20: a segment of the copy reads its data first, one of the fill does not. -/
theorem restoreSegmentWrites : Obligations.RestoreSegmentWrites := by
  unfold Obligations.RestoreSegmentWrites
  intro s u h hd base n
  have hn : n = u.segment := rfl
  rcases Nat.eq_zero_or_pos u.segment with h0 | h0
  · have hu := h.2.2.1
    have hnone := access_restore_done hd h0
    refine ⟨s, ?_, ?_, fun i _ => rfl, fun j hj => absurd hj (by omega)⟩
    · rw [exec_restoreSegment h hd]
      rw [settle, runSegment_none _ hu hnone]
    · have hself : ({ u with progress := u.progress + n } : Transfer) = u := by rw [hn, h0]; rfl
      rw [hself]
      exact (transfer_self hu).symm
  · obtain ⟨p, L, hrun, hslots, hdata⟩ := runSegment_restore h hd h0
    refine ⟨{ s with pool := p, transfer := some { u with progress := u.progress + u.segment } }, ?_, rfl, fun i hi => ?_, fun j hj => ?_⟩
    · rw [exec_restoreSegment h hd, settle, hrun]
    · refine (slot_congr rfl i).trans ((hslots i).trans ?_)
      exact restoredSlot_outside (v := { u with read := L }) hi
    · have hslot : State.slot { s with pool := p, transfer := some { u with progress := u.progress + u.segment } } (base + u.progress + j) =
          { parts := ({ u with read := L, written := j } : Transfer).restoreParts, bad := 0 } :=
        (slot_congr rfl _).trans ((hslots _).trans (restoredSlot_within (v := { u with read := L }) hj))
      have hblock : u.progress < u.copy → ({ u with read := L, written := j } : Transfer).read.getD j [] =
          memWords s.mem (profileData u.slotAddr (u.progress + j)) 258 := fun hcopy => hdata hcopy j hj
      rw [hslot]
      refine ⟨rfl, fun i hi => ?_⟩
      rw [restoreParts_getD (v := { u with read := L, written := j }) fun hcopy => by rw [hblock hcopy, memWords_length]]
      split
      · rfl
      · rename_i hcopy
        rw [hblock (show u.progress < u.copy from Nat.lt_of_not_le fun h => hcopy (.inl h)), memWords_getD _ _ _ _ hi]
        rfl

/-- Settles O21: each access by the lemma that says what it leaves. -/
theorem moverAccessesOneByOne : Obligations.MoverAccessesOneByOne := by
  unfold Obligations.MoverAccessesOneByOne
  refine ⟨fun s f hf => engineAsks_iff hf, ?_⟩
  intro s u rest h n base after hn
  refine ⟨fun hd => ⟨fun hdue hread => ?_, ?_, ?_⟩, fun hd => ⟨?_, ?_⟩⟩
  · have haccess := access_captureRead hd hn hdue hread
    refine ⟨fun hasks => congrArg Host.Outcome.next (moveSegment_waits h hd haccess rfl hasks), fun hasks hsound => ?_⟩
    have hplace : (s.setGrants rest).captureSlot u u.read.length = s.slot (base + u.read.length) := by
      simp only [State.captureSlot, State.slot, State.setGrants, State.extent, base, Nat.add_assoc]
    have hunit := captureRead_sound (s := s.setGrants rest) (u := u) (by rw [hplace]; exact hsound)
    rw [hplace] at hunit
    exact congrArg Host.Outcome.next (moveSegment_makes h hd haccess (fun _ => hasks) hunit)
  · intro hbus hdue hread hwritten hfit hlen _
    have hunit := captureDataWrite_quiet (s := s.setGrants rest) (u := u) hbus
    refine ⟨_, congrArg Host.Outcome.next (moveSegment_makes h hd (access_dataWrite hd hn hdue hread hwritten)
      (fun hport => absurd hport (by simp [MoverAccess.usesPort])) hunit), rfl, fun i hi => ?_, ?_⟩
    · exact (memHolds_memWithWords s.mem (profileData u.slotAddr (u.progress + u.written)) _ (by omega)) i (by omega)
    · have hkeep := memKeeps_memWithWords s.mem (profileData u.slotAddr (u.progress + u.written)) (u.read.getD u.written [])
      rwa [hlen] at hkeep
  · intro hdone halign
    have haccess := access_movedWrite hd hn hdone
    have hport : MoverAccess.movedWrite.usesPort = true → s.engineAsks = false := fun hport => absurd hport (by simp [MoverAccess.usesPort])
    refine ⟨fun hbus => ?_, fun hbus => ?_⟩
    · have hunit := captureMovedWrite_quiet (s := s.setGrants rest) (u := u) hbus
      exact ⟨_, congrArg Host.Outcome.next (moveSegment_makes h hd haccess hport hunit), rfl,
        memWord_writeBytes_wordBytes s.mem (u.slotAddr.toNat + 0x10) _, memKeeps_writeWord s.mem (u.slotAddr.toNat + 0x10) _⟩
    · have hunit := captureMovedWrite_failed (s := s.setGrants rest) (u := u) hbus halign
      exact congrArg Host.Outcome.next (moveSegment_faults h hd haccess hport hunit)
  · intro hbus hcopy hread
    have hunit := restoreDataRead_quiet (s := s.setGrants rest) (u := u) hbus
    rw [memWords_eq_map] at hunit
    exact congrArg Host.Outcome.next (moveSegment_makes h hd (access_dataRead hd hn hcopy hread)
      (fun hport => absurd hport (by simp [MoverAccess.usesPort])) hunit)
  · intro hready
    have haccess := access_restoreWrite hd hn hready
    refine ⟨fun hasks => congrArg Host.Outcome.next (moveSegment_waits h hd haccess rfl hasks), fun hasks => ?_⟩
    have hunit := restoreWrite_apply (s.setGrants rest) u
    refine ⟨_, congrArg Host.Outcome.next (moveSegment_makes h hd haccess (fun _ => hasks) hunit), rfl, fun i => ?_⟩
    have hslot := slot_writeSlot (s.setGrants rest) (base + u.written) i u.restoreParts
    exact hslot

end Sys2Proof
end

section
/-! Stage 2 (R18 to R29): what the one update makes of the state, the history of a processed frame field by field, and the words it is
made from. -/

namespace Sys2Proof.Machine

/-! ### Samples (R1, R2) -/

theorem sampleOf_eq (w : Word) : sampleOf w = max (-8388608) (min 8388607 w.toInt) := clamp_eq_max_min (by decide) _

theorem clampsWord_eq (w : Word) : clampsWord w = decide (w.toInt < -8388608 ∨ 8388607 < w.toInt) := by
  unfold clampsWord
  rw [sampleOf_eq]
  exact decide_eq_decide.mpr (by omega)

/-- The clamped samples of a block of 128 words in memory. -/
theorem samples_of_block (m : List Host.Cell) (a : Nat) :
    (memWords m a 128).map sampleOf = (List.range 128).map (fun i => max (-8388608) (min 8388607 (memWord m (a + 4 * i)).toInt)) := by
  rw [memWords_eq_map, List.map_map]
  exact List.map_congr_left fun i _ => sampleOf_eq _

theorem clamps_of_block (m : List Host.Cell) (a : Nat) :
    (memWords m a 128).any clampsWord =
      (List.range 128).any (fun i => decide ((memWord m (a + 4 * i)).toInt < -8388608 ∨ 8388607 < (memWord m (a + 4 * i)).toInt)) := by
  rw [memWords_eq_map, List.any_map]
  exact congrArg _ (funext fun i => clampsWord_eq _)

/-! ### The largest level (R25) -/

theorem foldl_max_mem (levels : List Int) : ∀ a, levels ≠ [] → ∃ l ∈ levels, levels.foldl max a = max a l := by
  induction levels with
  | nil => exact fun a h => absurd rfl h
  | cons x xs ih =>
    intro a _
    by_cases hxs : xs = []
    · subst hxs
      exact ⟨x, by simp, rfl⟩
    · obtain ⟨y, hy, hmax⟩ := ih (max a x) hxs
      rw [List.foldl_cons, hmax, max_assoc]
      rcases le_total x y with h | h
      · exact ⟨y, List.mem_cons_of_mem _ hy, by rw [max_eq_right h]⟩
      · exact ⟨x, List.mem_cons_self, by rw [max_eq_left h]⟩

theorem le_foldl_max (levels : List Int) : ∀ a, a ≤ levels.foldl max a ∧ ∀ l ∈ levels, l ≤ levels.foldl max a := by
  induction levels with
  | nil => simp
  | cons x xs ih =>
    intro a
    obtain ⟨hstart, hall⟩ := ih (max a x)
    refine ⟨(le_max_left a x).trans hstart, fun l hl => ?_⟩
    rcases List.mem_cons.mp hl with rfl | hl
    · exact (le_max_right a l).trans hstart
    · exact hall l hl

theorem le_maxLevel {levels : List Int} {l : Int} (h : l ∈ levels) : l ≤ maxLevel levels := (le_foldl_max levels (-480)).2 l h

theorem maxLevel_attained {levels : List Int} (h : levels ≠ []) : ∃ l ∈ levels, maxLevel levels = max (-480) l :=
  foldl_max_mem levels (-480) h

/-! ### The history of a processed frame -/

section
variable {h : History} {geo : Geometry} {n : Nat} {blocks : List (List Int)}

theorem newSpectra_getElem? {r : Fin 4} (hr : r.val < blocks.length) :
    (newSpectra h blocks)[r.val]? = some (spectrumOf (h.last[r] ++ blocks[r.val])) := by
  simp [newSpectra, hr]

theorem processed_ring {r : Fin 4} (hr : r.val < blocks.length) :
    (h.processed geo n blocks).rings[r] = (spectrumOf (h.last[r] ++ blocks[r.val]) :: h.rings[r]).take 64 := by
  simp only [History.processed, Fin.getElem_fin, Vector.getElem_mapFinIdx]
  rw [newSpectra_getElem? hr]
  rfl

theorem processed_last {r : Fin 4} (hr : r.val < blocks.length) : (h.processed geo n blocks).last[r] = blocks[r.val] := by
  simp [History.processed, hr]

theorem processed_level {r : Fin 4} (hr : r.val < blocks.length) : (h.processed geo n blocks).levels[r] = level blocks[r.val] := by
  simp [History.processed, hr]

theorem newSpectra_length : (newSpectra h blocks).length = blocks.length := by simp [newSpectra]

/-- The references not in use keep what they hold. -/
theorem processed_other {r : Fin 4} (hr : blocks.length ≤ r.val) :
    (h.processed geo n blocks).rings[r] = h.rings[r] ∧ (h.processed geo n blocks).last[r] = h.last[r] ∧
      (h.processed geo n blocks).levels[r] = h.levels[r] := by
  have hnone : (newSpectra h blocks)[r.val]? = none := List.getElem?_eq_none (by rwa [newSpectra_length])
  refine ⟨?_, by simp [History.processed, hr], by simp [History.processed, hr]⟩
  simp only [History.processed, Fin.getElem_fin, Vector.getElem_mapFinIdx]
  rw [hnone]

theorem level_le_lx {b : List Int} (hb : b ∈ blocks) : level b ≤ (h.processed geo n blocks).lx :=
  le_maxLevel (List.mem_map_of_mem hb)

theorem lx_attained (hblocks : blocks ≠ []) : ∃ b ∈ blocks, (h.processed geo n blocks).lx = max (-480) (level b) := by
  obtain ⟨l, hl, hmax⟩ := maxLevel_attained (levels := blocks.map level) (by simpa using hblocks)
  obtain ⟨b, hb, rfl⟩ := List.mem_map.mp hl
  exact ⟨b, hb, hmax⟩

theorem processed_power : (h.processed geo n blocks).power = powerSteps n h.power (newSpectra h blocks) := rfl

end

/-! ### The unit of stage 2 -/

theorem readRefBlocks_quiet (g : Geometry) (seq : Word) (r n : Nat) (s : State) (hbus : s.bus = []) :
    readRefBlocks g seq r n s = .ok ((List.range n).map fun i => memWords s.mem (g.refBlock seq (r + i)) 128) s := by
  induction n generalizing r with
  | zero => rfl
  | succ n ih =>
    simp only [readRefBlocks, work_bind, readWords_quiet _ _ s hbus, ih, work_pure, Config.blockLength]
    rw [List.range_succ_eq_map, List.map_cons, List.map_map]
    simp only [Nat.add_zero, Function.comp_def, Nat.succ_eq_add_one, Nat.add_assoc, Nat.add_comm 1]

section
variable (s : State) (f : Flight)

/-- The new blocks of the references in use (R1, R18). -/
def State.newBlocks : List (List Int) :=
  (List.range s.geo.refs).map fun r => (memWords s.mem (s.geo.refBlock f.count r) 128).map sampleOf

/-- The history after the header's gap push (R21). -/
def State.gapMade : History :=
  s.history.gapPush s.geo.refs s.free (min f.gap 64)

/-- The state after stage 2. -/
def State.afterPush : State :=
  { s with
    history := (s.gapMade f).processed s.geo (s.free + min f.gap 64) (s.newBlocks f)
    gapTotal := s.gapTotal + BitVec.ofNat 32 (min f.gap 64)
    pendGap := if min f.gap 64 = 0 then s.pendGap else min 255 (s.pendGap + min f.gap 64)
    free := s.free + min f.gap 64 + 1
    flight := some { f with
      refClips := (List.range s.geo.refs).map fun r => (memWords s.mem (s.geo.refBlock f.count r) 128).any clampsWord
      phase := .estimate 0 }
    mem := if f.gap = 0 then s.mem
      else writeBytes s.mem (s.pageField 0x50) (wordBytes (s.gapTotal + BitVec.ofNat 32 (min f.gap 64))) }

theorem pushed_eq_pushState : s.pushed f.gap (s.newBlocks f) = { s.afterPush f with flight := s.flight, mem := s.mem } := by
  rw [State.pushed_eq]
  unfold State.afterPush State.gapMade
  by_cases hgap : f.gap = 0
  · simp [hgap, State.countedGap_zero, State.setHistory, State.setFree, History.gapPush]
  · have hmin : ¬ min f.gap 64 = 0 := by omega
    rw [State.countedGap_eq s f.gap hgap]
    simp only [State.setHistory, State.setFree, gapBlocks, Config.ringDepth, if_neg hmin, saturatingAdd, Config.pendingLimit]

variable {s f}

theorem writeGapTotalAfter_quiet (k : Nat) (hbus : s.bus = []) :
    writeGapTotalAfter k s = .ok () (s.setMem (if k = 0 then s.mem else writeBytes s.mem (s.pageField 0x50) (wordBytes s.gapTotal))) := by
  by_cases hk : k = 0
  · rw [writeGapTotalAfter, if_pos hk, if_pos hk]
    rfl
  · rw [writeGapTotalAfter, if_neg hk, if_neg hk, writeGapTotal]
    simp only [work_bind, getState_apply, writeWord_quiet _ _ s hbus]

theorem step_push (h : s.AtPhase f .push) : step s = .next (s.afterPush f) := by
  rw [step_atPhase h]
  obtain ⟨-, -, -, -, hphase, hbus⟩ := h
  have hblocks : ((List.range s.geo.refs).map fun r => memWords s.mem (s.geo.refBlock f.count r) 128).map (fun ws => ws.map sampleOf) =
      s.newBlocks f := by rw [List.map_map]; rfl
  simp only [frameUnit, hphase, pushUnit, settle, work_bind, getState_apply, readRefBlocks_quiet _ _ _ _ s hbus, Nat.zero_add, update_apply,
    hblocks, pushed_eq_pushState]
  rw [writeGapTotalAfter_quiet (s := { s.afterPush f with flight := s.flight, mem := s.mem }) f.gap hbus]
  simp only [setFlight, update_apply, List.map_map]
  unfold State.afterPush
  simp only [State.setMem, State.setFlight, State.pageField, Function.comp_def]

end

end Sys2Proof.Machine

namespace Sys2Proof
open Sys2Proof.Machine

/-- Settles O41: the state after the one update, and the history of a processed frame field by field. -/
theorem processedPush : Obligations.ProcessedPush := by
  unfold Obligations.ProcessedPush
  intro s f h hrefs _ k blockWord sample clamped block
  have hlen : (s.newBlocks f).length = s.geo.refs := by simp [State.newBlocks]
  have hblock : ∀ r (hr : r < (s.newBlocks f).length), (s.newBlocks f)[r] = block r := fun r hr => by
    simp only [State.newBlocks, List.getElem_map, List.getElem_range]
    exact samples_of_block _ _
  have hmem : ∀ b ∈ s.newBlocks f, ∃ r < s.geo.refs, b = block r := fun b hb => by
    obtain ⟨r, hr, rfl⟩ := List.getElem_of_mem hb
    exact ⟨r, by omega, hblock r hr⟩
  have hgap := gapPushed_gapPush s.history s.geo.refs s.free (min f.gap 64)
  have hkept : ∀ r : Fin 4, s.geo.refs ≤ r.val →
      (s.gapMade f).rings[r] = s.history.rings[r] ∧ (s.gapMade f).last[r] = s.history.last[r] ∧
        (s.gapMade f).levels[r] = s.history.levels[r] ∧ True := fun r hr => by
    have hnot : ¬ r.val < s.geo.refs := by omega
    unfold State.gapMade History.gapPush
    split <;> simp [hnot]
  have hhold : (s.gapMade f).hold = s.history.hold := by
    unfold State.gapMade History.gapPush
    split <;> rfl
  refine ⟨s.afterPush f, s.gapMade f, step_push h, ?_, fun hk => if_pos (by omega), fun hk => ?_, hgap, fun r hr => ?_, fun r hr => ?_,
    fun hr => ?_, ?_, rfl⟩
  · unfold State.afterPush
    simp only [clamps_of_block]
    rfl
  · have hm : (s.afterPush f).mem =
        writeBytes s.mem (s.pageField 0x50) (wordBytes (s.gapTotal + BitVec.ofNat 32 (min f.gap 64))) := if_neg (by omega)
    rw [memKeeps_iff, hm]
    exact ⟨memWord_writeBytes_wordBytes _ _ _, memKeeps_writeWord _ _ _⟩
  · have hr' : r.val < (s.newBlocks f).length := by omega
    refine ⟨?_, ?_, ?_, ?_⟩
    · exact (processed_ring hr').trans (by rw [hblock _ hr'])
    · exact (processed_last hr').trans (hblock _ hr')
    · exact (processed_level hr').trans (congrArg level (hblock _ hr'))
    · rw [← hblock _ hr']
      exact level_le_lx (List.getElem_mem hr')
  · obtain ⟨hrings, hlast, hlevels, -⟩ := hkept r hr
    obtain ⟨hr1, hr2, hr3⟩ := processed_other (h := s.gapMade f) (geo := s.geo) (n := s.free + min f.gap 64)
      (blocks := s.newBlocks f) (r := r) (by omega)
    exact ⟨hr1.trans hrings, hr2.trans hlast, hr3.trans hlevels⟩
  · obtain ⟨b, hb, hlx⟩ := lx_attained (h := s.gapMade f) (geo := s.geo) (n := s.free + min f.gap 64) (blocks := s.newBlocks f)
      (List.ne_nil_of_length_pos (by omega))
    obtain ⟨r, hr, rfl⟩ := hmem b hb
    exact ⟨r, hr, hlx⟩
  · rw [← hhold]
    rfl

end Sys2Proof
end

section
/-! Stages 3, 5 and 6 (R36 to R50, R112 to R117): the microphone block and the reads of the extent, the walk, and the update of one
slot as far as its values are not concerned. -/

namespace Sys2Proof.Machine

/-! ### The work of one channel -/

section
variable {f g : Flight} {c i : Nat} {w : ChanWork}

theorem chanWork_congr (h : g.work = f.work) (i : Nat) : g.chanWork i = f.chanWork i := by
  unfold Flight.chanWork
  rw [h]

theorem chanWork_set_same (h : g.work = (f.setWork c w).work) (hc : c < 16) : g.chanWork c = w := by
  rw [chanWork_congr h, chanWork_setWork, if_pos ⟨rfl, hc⟩]

theorem chanWork_set_other (h : g.work = (f.setWork c w).work) (hi : i ≠ c) : g.chanWork i = f.chanWork i := by
  rw [chanWork_congr h, chanWork_setWork, if_neg fun hand => hi hand.1]

theorem setWork_self (f : Flight) (c : Nat) : f.setWork c (f.chanWork c) = f := by
  have hwork : f.work.setIfInBounds c (f.chanWork c) = f.work := by
    refine Vector.ext fun i hi => ?_
    rw [Vector.getElem_setIfInBounds hi]
    split
    · rename_i hci
      subst hci
      simp [Flight.chanWork, hi]
    · rfl
  unfold Flight.setWork
  rw [hwork]

end

/-! ### Stage 3 before its estimate -/

section
variable {s : State} {f : Flight} {c : Nat}

/-- The frame after the microphone block of channel `c` is read. -/
def State.micRead (s : State) (f : Flight) (c : Nat) : Flight :=
  let g := f.setWork c (workWithout (decide ((f.ctx c).state = .off)) ((memWords s.mem (s.geo.micBlock f.count c) 128).map sampleOf)
    ((memWords s.mem (s.geo.micBlock f.count c) 128).any clampsWord))
  if (f.ctx c).state.filters = true then { g with phase := .filter c, reads := [] }
  else { g with phase := if c + 1 < s.geo.mics then .estimate (c + 1) else .decide, asks := false }

theorem step_estimate (h : s.AtPhase f (.estimate c)) : step s = .next { s with flight := some (s.micRead f c) } := by
  rw [step_atPhase h]
  obtain ⟨-, -, -, -, hphase, hbus⟩ := h
  simp only [frameUnit, hphase, estimateUnit, settle, work_bind, getState_apply, readWords_quiet _ _ s hbus, Config.blockLength]
  unfold State.micRead
  by_cases hfilters : (f.ctx c).state.filters = true
  · rw [if_pos hfilters, if_pos hfilters]
    rfl
  · rw [if_neg hfilters, if_neg hfilters]
    rfl

theorem micRead_work (s : State) (f : Flight) (c : Nat) :
    (s.micRead f c).work = (f.setWork c (workWithout (decide ((f.ctx c).state = .off))
      ((memWords s.mem (s.geo.micBlock f.count c) 128).map sampleOf)
      ((memWords s.mem (s.geo.micBlock f.count c) 128).any clampsWord))).work := by
  unfold State.micRead
  dsimp only
  split <;> rfl

/-- The frame after a filter read (R39, R50). -/
theorem afterRead_eq (f : Flight) (c : Nat) (parts : List Word) (failed asks : Bool) :
    f.afterRead c (parts, failed) asks =
      { f with work := (f.setWork c { f.chanWork c with parity := (f.chanWork c).parity || failed }).work, reads := f.reads ++ [parts],
               asks := asks } := rfl

theorem afterRead_sound (f : Flight) (c : Nat) (parts : List Word) (asks : Bool) :
    f.afterRead c (parts, false) asks = { f with reads := f.reads ++ [parts], asks := asks } := by
  rw [afterRead_eq, Bool.or_false]
  exact congrArg (fun g : Flight => { f with work := g.work, reads := f.reads ++ [parts], asks := asks }) (setWork_self f c)

/-- Whether the engine asks for the port again after a filter read, by what is left (R105). -/
theorem asksAfterRead_eq (f : Flight) (c mics : Nat) {j n : Nat} (hj : j < n) :
    f.asksAfterRead c mics (n - j) = (decide (j + 1 < n) || (decide (c + 1 < mics) && (f.ctx (c + 1)).state.filters)) := by
  have hleft : decide (1 < n - j) = decide (j + 1 < n) := decide_eq_decide.mpr (by omega)
  rw [Flight.asksAfterRead, hleft]

theorem step_filterRead (h : s.AtPhase f (.filter c)) (hleft : f.reads.length < (f.ctx c).parts * s.geo.refs) :
    step s = .next (settle (filterRead f c ((f.ctx c).parts * s.geo.refs - f.reads.length)) s) := by
  rw [step_atPhase h]
  obtain ⟨-, -, -, -, hphase, -⟩ := h
  have hne : (f.ctx c).parts * s.geo.refs - f.reads.length ≠ 0 := by omega
  have hunit : frameUnit f s = filterRead f c ((f.ctx c).parts * s.geo.refs - f.reads.length) s := by
    simp only [frameUnit, hphase, filterUnit, work_bind, getState_apply]
    rw [if_neg hne]
  simp only [settle, hunit]

theorem filterRead_sound {left : Nat} (hf : s.flight = some f) (h : (s.slot ((s.extent c).base + f.reads.length)).bad = 0#258) :
    filterRead f c left s = .ok () (s.setFlight (some { f with
      reads := f.reads ++ [(s.slot ((s.extent c).base + f.reads.length)).parts], asks := f.asksAfterRead c s.geo.mics left })) := by
  simp only [filterRead, work_bind, getState_apply, readSlot_sound h]
  simp [hf, afterRead_sound]

/-- A filter read that fails, by what the engine makes of the failure (R48, R50). -/
theorem filterRead_failed {left : Nat} {t : State} {g : Flight} (h : (s.slot ((s.extent c).base + f.reads.length)).bad ≠ 0#258)
    (he : engineFoundParity c f.reads.length (s.setSlot ((s.extent c).base + f.reads.length) .zero) = .ok () t)
    (ht : t.flight = some g) :
    filterRead f c left s = .ok () (t.setFlight (some (g.afterRead c (Slot.zero.parts, true) (f.asksAfterRead c s.geo.mics left)))) := by
  simp only [filterRead, work_bind, getState_apply, readSlot_failed h, if_true, he, update_apply, ht, Option.map_some]

theorem afterRead_failed {f g : Flight} (hg : g.work = f.work) {c : Nat} (hc : c < 16) (parts : List Word) (asks : Bool) :
    (g.afterRead c (parts, true) asks).chanWork c = { f.chanWork c with parity := true } := by
  have hown : (g.afterRead c (parts, true) asks).chanWork c = { g.chanWork c with parity := (g.chanWork c).parity || true } :=
    chanWork_set_same (f := g) rfl hc
  rw [hown, Bool.or_true, chanWork_congr hg]

theorem zero_parts : Slot.zero.parts = List.replicate 258 0#32 := by simp only [Slot.zero, Config.slotParts]

theorem afterRead_other {f g : Flight} (hg : g.work = f.work) {c i : Nat} (hi : i ≠ c) (r : List Word × Bool) (asks : Bool) :
    (g.afterRead c r asks).chanWork i = f.chanWork i :=
  (chanWork_set_other (f := g) rfl hi).trans (chanWork_congr hg i)

/-- A parity failure of a channel that no capture reads is counted alone (R50). -/
theorem engineFoundParity_alone {j : Nat} (hc : c < 16)
    (h : ∀ u, s.transfer = some u → u.direction = .capture → u.chan = c → (s.chan c).capture = false) :
    engineFoundParity c j s = .ok () (s.modChan c Channel.countParity) := by
  have hchan : (s.modChan c Channel.countParity).chan c = (s.chan c).countParity := chan_setChan_same _ _ hc
  have htransfer : (s.modChan c Channel.countParity).transfer = s.transfer := rfl
  simp only [engineFoundParity, work_bind, update_apply, getState_apply, htransfer]
  cases hu : s.transfer with
  | none => rfl
  | some u =>
    have hnot : ¬ (((s.modChan c Channel.countParity).chan c).capture = true ∧ u.direction = .capture ∧ u.chan = c) := by
      rintro ⟨hcapture, hd, hchan'⟩
      rw [hchan] at hcapture
      exact absurd (hcapture.symm.trans (h u hu hd hchan')) (by simp)
    simp only
    rw [if_neg hnot]
    rfl

theorem engineFoundParity_ends {j : Nat} {u : Transfer} (hbus : s.bus = []) (hc : c < 16) (hu : s.transfer = some u)
    (hd : u.direction = .capture) (hchan : u.chan = c) (hcapture : (s.chan c).capture = true) :
    engineFoundParity c j (s.setSlot ((s.extent c).base + j) .zero) = .ok () (s.captureFailed u j) := by
  subst hchan
  rw [← captureReadFailed_quiet hbus hc]
  generalize Slot.zero = zero
  set z := s.setSlot ((s.extent u.chan).base + j) zero with hz
  have hz' : (z.modChan u.chan Channel.countParity).chan u.chan = (s.chan u.chan).countParity := chan_setChan_same _ _ hc
  have htransfer : (z.modChan u.chan Channel.countParity).transfer = some u := hu
  have hcond : ((z.modChan u.chan Channel.countParity).chan u.chan).capture = true ∧ u.direction = .capture ∧ True := by
    rw [hz']
    exact ⟨hcapture, hd, trivial⟩
  simp only [engineFoundParity, captureReadFailed, work_bind, update_apply, getState_apply, htransfer]
  rw [if_pos hcond]

end

/-! ### The walk (R113 to R115) -/

section
variable (candidate : Nat → Bool) (cost : Nat → Nat)

theorem walkQueue_splits (queue : List Nat) (budget : Nat) :
    (walkQueue candidate cost queue budget).granted ++ (walkQueue candidate cost queue budget).deferred = queue.filter candidate := by
  induction queue generalizing budget with
  | nil => rfl
  | cons c cs ih =>
    unfold walkQueue
    by_cases hcand : candidate c = true
    · rw [if_pos hcand, List.filter_cons_of_pos hcand]
      by_cases hcost : cost c ≤ budget
      · rw [if_pos hcost]
        simpa using ih (budget - cost c)
      · rw [if_neg hcost]
        rfl
    · rw [if_neg hcand, List.filter_cons_of_neg hcand]
      exact ih budget

theorem walkQueue_units (queue : List Nat) (budget : Nat) :
    (walkQueue candidate cost queue budget).units = ((walkQueue candidate cost queue budget).granted.map cost).sum := by
  induction queue generalizing budget with
  | nil => rfl
  | cons c cs ih =>
    unfold walkQueue
    split_ifs
    · simpa using ih (budget - cost c)
    · rfl
    · exact ih budget

theorem walkQueue_within (queue : List Nat) (budget : Nat) : (walkQueue candidate cost queue budget).units ≤ budget := by
  induction queue generalizing budget with
  | nil => exact Nat.zero_le _
  | cons c cs ih =>
    unfold walkQueue
    split_ifs
    · have := ih (budget - cost c)
      simp only
      omega
    · exact Nat.zero_le _
    · exact ih budget

theorem walkQueue_deferred (queue : List Nat) (budget : Nat) {c : Nat}
    (h : (walkQueue candidate cost queue budget).deferred.head? = some c) :
    budget < (walkQueue candidate cost queue budget).units + cost c := by
  induction queue generalizing budget with
  | nil => simp [walkQueue] at h
  | cons d ds ih =>
    unfold walkQueue at h ⊢
    split_ifs at h ⊢
    · have := ih (budget - cost d) h
      simp only
      omega
    · obtain rfl : d = c := by simpa using h
      simp only
      omega
    · exact ih budget h

end

/-- The slots of one channel that stage 6 will update (R42). -/
theorem mem_slotsToAdapt {refs : Nat} {ctx : Channel} {c d j : Nat} :
    (d, j) ∈ slotsToAdapt refs ctx c ↔ d = c ∧ j < ctx.parts * refs ∧ j / refs ∈ ctx.adaptingSet := by
  simp only [slotsToAdapt, List.mem_flatMap, List.mem_map, List.mem_range, Prod.mk.injEq]
  constructor
  · rintro ⟨p, hp, r, hr, rfl, rfl⟩
    have hlt : p < ctx.parts := ((mem_adaptingSet ctx p).mp hp).1
    have hdiv : (p * refs + r) / refs = p := by
      rw [Nat.add_comm, Nat.add_mul_div_right _ _ (by omega), Nat.div_eq_of_lt hr, Nat.zero_add]
    refine ⟨rfl, ?_, by rwa [hdiv]⟩
    calc p * refs + r < (p + 1) * refs := by rw [Nat.add_mul]; omega
      _ ≤ ctx.parts * refs := Nat.mul_le_mul_right _ hlt
  · rintro ⟨rfl, hj, hmem⟩
    have hrefs : 0 < refs := Nat.pos_of_ne_zero fun h => by simp [h] at hj
    exact ⟨j / refs, hmem, j % refs, Nat.mod_lt _ hrefs, rfl, Nat.div_add_mod' j refs⟩

theorem slotsToAdapt_nodup (refs : Nat) (ctx : Channel) (c : Nat) : (slotsToAdapt refs ctx c).Nodup := by
  refine List.nodup_flatMap.mpr ⟨fun p _ => ?_, ?_⟩
  · refine List.nodup_range.map fun a b hab => ?_
    simpa using hab
  · refine ((List.nodup_range.filter _ : ctx.adaptingSet.Nodup)).imp fun {p q} hpq => ?_
    intro x hx hy
    simp only [List.mem_map, List.mem_range] at hx hy
    obtain ⟨r, hr, rfl⟩ := hx
    obtain ⟨r', hr', he⟩ := hy
    rw [Prod.mk.injEq] at he
    have hdiv : ∀ p r : Nat, r < refs → (p * refs + r) / refs = p := fun p r hr => by
      rw [Nat.add_comm, Nat.add_mul_div_right _ _ (by omega), Nat.div_eq_of_lt hr, Nat.zero_add]
    exact hpq (by rw [← hdiv p r hr, ← hdiv q r' hr', he.2])

section
variable {s : State} {f : Flight}

theorem step_walk (h : s.AtPhase f .walk) :
    step s = .next { s with
      queue := rotateQueue s.queue (s.walk f).granted
      flight := some (f.walked s.geo.refs (s.walk f)) } := by
  rw [step_atPhase h]
  obtain ⟨-, -, -, -, hphase, -⟩ := h
  simp only [frameUnit, hphase, walkUnit, settle, update_apply]
  rfl

theorem walked_chanWork (f : Flight) (refs : Nat) (r : WalkResult) {c : Nat} (hc : c < 16) :
    (f.walked refs r).chanWork c =
      { f.chanWork c with granted := r.granted.contains c, deferred := r.deferred.contains c } := by
  have := chanWork_mapFinIdx f (fun c w => { w with granted := r.granted.contains c, deferred := r.deferred.contains c }) c
  rw [if_pos hc] at this
  exact this

/-- Stage 6 updates each slot at most once. -/
theorem todo_nodup (f : Flight) (refs : Nat) {granted : List Nat} (h : granted.Nodup) :
    (granted.flatMap fun c => slotsToAdapt refs (f.ctx c) c).Nodup := by
  refine List.nodup_flatMap.mpr ⟨fun c _ => slotsToAdapt_nodup _ _ _, h.imp fun {c d} hcd => ?_⟩
  intro x hx hy
  exact hcd ((mem_slotsToAdapt.mp hx).1.symm.trans (mem_slotsToAdapt.mp hy).1)

end

/-! ### Stage 6 for one slot (R43 to R45, R49) -/

theorem updatedParts_kept {n : Nat} {mu : Rat} {power : List Rat} {x : Spectrum} {err : List Int} {parts : List Word}
    (h : x = .zero ∨ ∀ e ∈ err, e = 0) : updatedParts n mu power x err parts = parts := by
  rcases h with rfl | h
  · rfl
  · cases x with
    | zero => rfl
    | of window => exact if_pos (by simpa using h)

theorem updatedParts_formed {n : Nat} {mu : Rat} {power : List Rat} {window err : List Int} {parts : List Word} (h : ∃ e ∈ err, e ≠ 0) :
    updatedParts n mu power (.of window) err parts = (List.range 129).flatMap fun k =>
      updatedCoefficient n parts (constrainedBin (constrainedTime ((List.range 129).map (gradientBin mu power window err))) k) k :=
  if_neg (by simpa using h)

/-- A list of pairs, part by part. -/
theorem flatMap_pairs_getD {α : Type} (g : Nat → α × α) (d : α) (n k i : Nat) (hk : k < n) (hi : i < 2) :
    ((List.range n).flatMap fun k => [(g k).1, (g k).2]).getD (2 * k + i) d = if i = 0 then (g k).1 else (g k).2 := by
  induction n with
  | zero => omega
  | succ n ih =>
    have hlen : ((List.range n).flatMap fun k => [(g k).1, (g k).2]).length = 2 * n := by simp [Nat.mul_comm]
    rw [List.range_succ, List.flatMap_append]
    rcases Nat.lt_succ_iff_lt_or_eq.mp hk with hlt | rfl
    · rw [List.getD_append _ _ _ _ (by omega)]
      exact ih hlt
    · rw [List.getD_append_right _ _ _ _ (by omega), hlen, Nat.add_sub_cancel_left]
      interval_cases i <;> rfl

theorem updatedCoefficient_eq (n : Nat) (parts : List Word) (step : Cyc) (k : Nat) :
    updatedCoefficient n parts step k =
      [updatedPart (partOf parts (2 * k)) (realBounds step) (Config.coefficientPart n (2 * k)),
        if k = 0 ∨ k = 128 then 0#32
        else updatedPart (partOf parts (2 * k + 1)) (imagBounds step) (Config.coefficientPart n (2 * k + 1))] := rfl

section
variable {n : Nat} {mu : Rat} {power : List Rat} {window err : List Int} {parts : List Word}

theorem length_updatedParts (h : ∃ e ∈ err, e ≠ 0) : (updatedParts n mu power (.of window) err parts).length = 258 := by
  rw [updatedParts_formed h]
  simp [updatedCoefficient_eq]

/-- The parts after an update, real and imaginary, bin by bin (R43, R44). -/
theorem updatedParts_getD (h : ∃ e ∈ err, e ≠ 0) {k i : Nat} (hk : k < 129) (hi : i < 2) :
    (updatedParts n mu power (.of window) err parts).getD (2 * k + i) 0 =
      (updatedCoefficient n parts
        (constrainedBin (constrainedTime ((List.range 129).map (gradientBin mu power window err))) k) k).getD i 0 := by
  rw [updatedParts_formed h]
  refine (flatMap_pairs_getD (fun k => ((updatedCoefficient n parts
    (constrainedBin (constrainedTime ((List.range 129).map (gradientBin mu power window err))) k) k).getD 0 0,
    (updatedCoefficient n parts
    (constrainedBin (constrainedTime ((List.range 129).map (gradientBin mu power window err))) k) k).getD 1 0)) 0 129 k i hk hi).trans ?_
  interval_cases i <;> rfl

theorem updatedParts_imag (h : ∃ e ∈ err, e ≠ 0) {k : Nat} (hk : k = 0 ∨ k = 128) :
    (updatedParts n mu power (.of window) err parts).getD (2 * k + 1) 0 = 0 := by
  rw [updatedParts_getD h (by omega) (by omega), updatedCoefficient_eq, if_pos hk]
  rfl

end

section
variable {s : State} {f : Flight} {c j : Nat} {rest : List (Nat × Nat)}

/-- The parts of a slot as its checked read delivers them (R48, R92). -/
def State.readParts (s : State) (i : Nat) : List Word :=
  if (s.slot i).bad = 0#258 then (s.slot i).parts else Slot.zero.parts

/-- The state after the checked read of slot `i` of channel `c`'s extent: zeroed and counted if it fails (R50, R92). -/
def State.checked (s : State) (c i : Nat) : State :=
  if (s.slot i).bad = 0#258 then s else (s.setSlot i .zero).modChan c Channel.countParity

/-- The parts that the update of slot `j` of channel `c` writes. -/
def State.newParts (s : State) (f : Flight) (c j : Nat) : List Word :=
  updatedParts s.free (stepSize (f.ctx c)) s.history.power (s.history.paired s.geo.refs j) (f.chanWork c).err
    (s.readParts ((s.extent c).base + j))

/-- The frame after the update of slot `j` of channel `c`. -/
def State.adaptedFlight (s : State) (f : Flight) (c j : Nat) (rest : List (Nat × Nat)) : Flight :=
  { f.setWork c { f.chanWork c with
      parity := (f.chanWork c).parity || decide ((s.slot ((s.extent c).base + j)).bad ≠ 0#258) } with
    phase := .adapt rest, asks := !rest.isEmpty }

/-- The state after the update of slot `j` of channel `c`. -/
def State.adapted (s : State) (f : Flight) (c j : Nat) (rest : List (Nat × Nat)) : State :=
  { s with
    pool := ((s.checked c ((s.extent c).base + j)).writeSlot ((s.extent c).base + j) (s.newParts f c j)).pool
    channels := (s.checked c ((s.extent c).base + j)).channels
    free := s.free + 1
    flight := some (s.adaptedFlight f c j rest) }

theorem checked_slot_other {i k : Nat} (hk : k ≠ i) : (s.checked c i).slot k = s.slot k := by
  unfold State.checked
  split
  · rfl
  · rw [slot_congr (s := s.setSlot i .zero) (by simp only [State.modChan, State.setChan]), slot_setSlot, if_neg hk]

theorem checked_chan_other {i d : Nat} (hd : d ≠ c) : (s.checked c i).chan d = s.chan d := by
  unfold State.checked
  split
  · rfl
  · exact (chan_setChan_other _ _ hd).trans (chan_congr (by simp only [State.setSlot, State.setPool]) d)

theorem checked_chan_failed {i : Nat} (hc : c < 16) (hbad : (s.slot i).bad ≠ 0#258) :
    (s.checked c i).chan c = { s.chan c with parity := min 65535 ((s.chan c).parity + 1) } := by
  have hchan : (s.setSlot i .zero).chan c = s.chan c := chan_congr (by simp only [State.setSlot, State.setPool]) c
  rw [State.checked, if_neg hbad, State.modChan, chan_setChan_same _ _ hc, hchan, countParity_eq]

theorem step_adapt (h : s.AtPhase f (.adapt ((c, j) :: rest))) : step s = .next (s.adapted f c j rest) := by
  rw [step_atPhase h]
  obtain ⟨-, -, -, -, hphase, -⟩ := h
  unfold State.adapted State.newParts State.adaptedFlight State.readParts State.checked
  by_cases hbad : (s.slot ((s.extent c).base + j)).bad = 0#258
  · simp only [frameUnit, hphase, adaptUnit, adaptSlot, settle, work_bind, getState_apply, readSlot_sound hbad]
    simp [hbad, freshUse, setFlight]
    rfl
  · simp only [frameUnit, hphase, adaptUnit, adaptSlot, settle, work_bind, getState_apply, readSlot_failed hbad]
    simp [hbad, freshUse, setFlight]
    generalize Slot.zero = zero
    simp only [State.writeSlot, State.setSlot, State.setPool, State.setFree, State.setFlight, State.modChan, State.setChan, State.chan]

theorem adapted_slot (s : State) (f : Flight) (c j : Nat) (rest : List (Nat × Nat)) (k : Nat) :
    (s.adapted f c j rest).slot k =
      if k = (s.extent c).base + j then { parts := s.newParts f c j, bad := 0 } else (s.checked c ((s.extent c).base + j)).slot k :=
  (slot_congr rfl k).trans (slot_writeSlot _ _ k _)

end

end Sys2Proof.Machine

namespace Sys2Proof
open Sys2Proof.Machine

/-- Settles O43: the microphone block, a filter read that passes, and the two ways a failed one goes on. -/
theorem stageThreeReads : Obligations.StageThreeReads := by
  unfold Obligations.StageThreeReads
  intro s f c hc n onward
  refine ⟨?_, ?_⟩
  · intro h wordAt mic clamped
    have hwork := micRead_work s f c
    have hown := chanWork_set_same hwork hc
    have hmic : (memWords s.mem (s.geo.micBlock f.count c) 128).map sampleOf = mic := samples_of_block _ _
    rw [hmic] at hown
    refine ⟨s.micRead f c, step_estimate h, fun i hi => chanWork_set_other hwork hi, ?_, ?_⟩
    · unfold State.micRead
      dsimp only
      split <;> rfl
    · rw [hown]
      refine ⟨rfl, clamps_of_block _ _, rfl, rfl, rfl, rfl, rfl, ?_⟩
      by_cases hoff : (f.ctx c).state = .off <;> simp [workWithout, hoff]
  · intro h hleft j i asks
    have hstep := step_filterRead h hleft
    have hasks : f.asksAfterRead c s.geo.mics (n - f.reads.length) = asks := asksAfterRead_eq f c s.geo.mics hleft
    obtain ⟨-, -, -, hflight, -, hbus⟩ := h
    refine ⟨fun hsound => ?_, ?_⟩
    · rw [hstep, settle, filterRead_sound hflight hsound, hasks]
      rfl
    intro hbad failed count
    refine ⟨fun hquiet => ?_, fun u hu hd hchan hcapture _ _ hapart => ?_⟩
    · set z := s.setSlot i .zero with hz
      have htransfer : z.transfer = s.transfer := by simp only [hz, State.setSlot, State.setPool]
      have hchan : ∀ d, z.chan d = s.chan d := fun d => by simp only [hz, State.setSlot, State.setPool, State.chan]
      have hfound : engineFoundParity c j z = .ok () (z.modChan c Channel.countParity) :=
        engineFoundParity_alone hc (by rw [htransfer, hchan]; exact hquiet)
      have hkept : (z.modChan c Channel.countParity).flight = some f := by
        simpa only [State.modChan, State.setChan, hz, State.setSlot, State.setPool] using hflight
      have hunit := filterRead_failed (left := n - f.reads.length) hbad hfound hkept
      set g := f.afterRead c (Slot.zero.parts, true) (f.asksAfterRead c s.geo.mics (n - f.reads.length)) with hg
      have hchans : ∀ d, ((z.modChan c Channel.countParity).setFlight (some g)).chan d = (z.modChan c Channel.countParity).chan d :=
        fun d => chan_congr (by simp only [State.setFlight]) d
      have hpool : ((z.modChan c Channel.countParity).setFlight (some g)).pool = z.pool := by
        simp only [State.setFlight, State.modChan, State.setChan]
      refine ⟨(z.modChan c Channel.countParity).setFlight (some g), g, by rw [hstep, settle, hunit], ?_,
        ⟨?_, afterRead_failed rfl hc _ _, fun i hi => afterRead_other rfl hi _ _,
          fun k => (slot_congr hpool k).trans (slot_setSlot s i k .zero), fun d hd => ?_⟩, ?_⟩
      · simp only [State.setFlight, State.modChan, State.setChan, hz, State.setSlot, State.setPool]
      · rw [hg, hasks, zero_parts]
        rfl
      · rw [hchans, State.modChan, chan_setChan_other _ _ hd, hchan]
      · rw [hchans, State.modChan, chan_setChan_same _ _ hc, hchan, countParity_eq]
    · have hunit := filterRead_failed (left := n - f.reads.length) hbad (engineFoundParity_ends hbus hc hu hd hchan hcapture)
        (g := { f with failedCaptures := u.chan :: f.failedCaptures }) (by simp only [State.captureFailed, hflight, Option.map_some])
      subst hchan
      set z := s.captureFailed u j with hz
      set g := ({ f with failedCaptures := u.chan :: f.failedCaptures } : Flight).afterRead u.chan (Slot.zero.parts, true)
        (f.asksAfterRead u.chan s.geo.mics (n - f.reads.length)) with hg
      have hpool : (z.setFlight (some g)).pool = (s.captureFailed u j).pool := by simp only [State.setFlight, hz]
      refine ⟨z.setFlight (some g), g, by rw [hstep, settle, hunit], ⟨?_, afterRead_failed rfl hc _ _, fun i hi => afterRead_other rfl hi _ _,
        fun k => (slot_congr hpool k).trans (captureFailed_slot s u j k), fun d hd => captureFailed_chan_other s u j hd⟩, ?_, captureFailed_chan s hc j, ?_⟩
      · rw [hg, hasks, zero_parts]
        rfl
      · simp only [State.setFlight, hz, State.captureFailed]
      · have hmem : (z.setFlight (some g)).mem = (s.captureFailed u j).mem := by simp only [State.setFlight, hz]
        obtain ⟨hword, hkeep⟩ := earlyEnd_mem s.mem u.slotAddr u.cmd .dataError s.done (BitVec.ofNat 32 j) hapart
        rw [memCompleted_iff, memKeeps_iff, hmem, captureFailed_mem]
        exact ⟨hword, memCompleted_memWithCompletion _ _ _ _ _, hkeep⟩

/-- Settles O46: what the walk of a queue gives, and the frame's step. -/
theorem walkGrantsAndRotates : Obligations.WalkGrantsAndRotates := by
  unfold Obligations.WalkGrantsAndRotates
  refine ⟨fun candidate cost queue budget => ⟨walkQueue_splits _ _ _ _, walkQueue_units _ _ _ _, walkQueue_within _ _ _ _,
    fun c hc => walkQueue_deferred _ _ _ _ hc⟩, ?_⟩
  intro s f h candidate r
  have hr : s.walk f = r := rfl
  refine ⟨_, f.walked s.geo.refs (s.walk f), step_walk h, rfl, rfl, fun c hc => walked_chanWork _ _ _ hc, _, rfl, fun hnodup => ?_, fun c j => ?_⟩
  · exact todo_nodup f _ (hnodup.sublist (walkQueue_granted_sublist _ _ _ _))
  · simp only [List.mem_flatMap, mem_slotsToAdapt]
    constructor
    · rintro ⟨d, hd, rfl, hj⟩
      exact ⟨hd, hj⟩
    · rintro ⟨hcmem, hj⟩
      exact ⟨c, hcmem, rfl, hj⟩

/-- Settles O47: the slot, its parity and the frame's work after the update of one slot. -/
theorem slotAdapted : Obligations.SlotAdapted := by
  unfold Obligations.SlotAdapted
  intro s f c j rest h hc i x err failed old
  have hwork : (s.adaptedFlight f c j rest).work = (f.setWork c { f.chanWork c with
      parity := (f.chanWork c).parity || decide failed }).work := rfl
  have hslot : ∀ k, (s.adapted f c j rest).slot k =
      if k = i then { parts := s.newParts f c j, bad := 0 } else (s.checked c i).slot k := adapted_slot s f c j rest
  have hparts : ((s.adapted f c j rest).slot i).parts = s.newParts f c j := by rw [hslot, if_pos rfl]
  have hchan : ∀ d, (s.adapted f c j rest).chan d = (s.checked c i).chan d := fun d => chan_congr (by simp only [State.adapted, i]) d
  refine ⟨s.adapted f c j rest, s.adaptedFlight f c j rest, step_adapt h, ?_, rfl, fun d hd => chanWork_set_other hwork hd,
    chanWork_set_same hwork hc, fun k hk => ?_, ?_, fun hkept => ?_, fun hx herr => ?_, fun d hd => ?_, fun hpass => ?_, fun hfail => ?_⟩
  · simp only [State.adapted]
  · rw [hslot, if_neg hk, checked_slot_other hk]
  · rw [hslot, if_pos rfl]
    rfl
  · rw [hparts, State.newParts, updatedParts_kept hkept]
    rfl
  · obtain ⟨window, hwindow⟩ : ∃ window, x = .of window := by
      cases hx' : x with
      | zero => exact absurd hx' hx
      | of window => exact ⟨window, rfl⟩
    rw [hparts, State.newParts]
    rw [show s.history.paired s.geo.refs j = .of window from hwindow]
    exact ⟨length_updatedParts herr, updatedParts_imag herr (.inl rfl), updatedParts_imag (k := 128) herr (.inr rfl)⟩
  · rw [hchan, checked_chan_other hd]
  · rw [hchan, State.checked, if_pos (not_not.mp hpass)]
  · rw [hchan, checked_chan_failed hc hfail]

end Sys2Proof
end

section
/-! Stages 7 and 8 (R64, R81 to R90, R121 to R126): the commit of a channel, the divergence event and the suppressor. -/

namespace Sys2Proof.Machine

/-! ### The steps of stage 7 -/

section
variable {s : State} {f : Flight} {c : Nat}

/-- The S and C that stage 7 leaves are those of R64 and R81. -/
theorem measureStep_eq (s : State) (f : Flight) (c : Nat) :
    measureStep (f.ctx c) s.history.lx (f.chanWork c) =
      { f.ctx c with erle := (s.measuresAfter f c).1, coupling := (s.measuresAfter f c).2 } := by
  unfold measureStep State.measuresAfter
  by_cases helig : (f.chanWork c).eligible = true
  · rw [if_pos helig]
    simp only [helig, true_and, if_true, couplingStep, erleStep, smooth_eq_floor _ _ 16 (by omega), smooth_eq_floor _ _ 8 (by omega)]
    push_cast
    rfl
  · simp [helig]

/-- Whether the dwell test is made (R82, R83). -/
def Tested (x : Channel) (w : ChanWork) : Prop :=
  w.eligible = true ∧ (x.state = .acquire ∨ x.state = .track)

theorem dwellStep_untested {x : Channel} {w : ChanWork} (h : ¬ Tested x w) : dwellStep x w = x := by
  unfold dwellStep
  by_cases helig : w.eligible = true
  · rw [if_pos helig]
    have hstate : x.state ≠ .acquire ∧ x.state ≠ .track := by
      constructor <;> intro hx <;> exact h ⟨helig, by simp [hx]⟩
    cases hx : x.state <;> simp_all
  · rw [if_neg helig]

theorem dwellTest_eq (x : Channel) (q : Prop) [Decidable q] (limit : Int) (next : ChanState) :
    dwellTest x (decide q) limit next = { x with
      state := if limit ≤ (((if q then x.dwell + 1 else 0 : Nat) : Nat) : Int) then next else x.state
      dwell := if limit ≤ (((if q then x.dwell + 1 else 0 : Nat) : Nat) : Int) then 0 else if q then x.dwell + 1 else 0 } := by
  unfold dwellTest
  by_cases hq : q
  · simp only [hq, decide_true, if_true]
    split <;> rfl
  · simp only [hq, decide_false, if_false, Bool.false_eq_true]
    split <;> rfl

theorem dwellStep_acquire {x : Channel} {w : ChanWork} (helig : w.eligible = true) (hx : x.state = .acquire) :
    dwellStep x w = dwellTest x (decide (x.tuning.tConv ≤ x.erle)) x.tuning.dConv .track := by
  simp [dwellStep, helig, hx]

theorem dwellStep_track {x : Channel} {w : ChanWork} (helig : w.eligible = true) (hx : x.state = .track) :
    dwellStep x w = dwellTest x (decide (x.erle < x.tuning.tConv - 24)) x.tuning.dRecheck .acquire := by
  simp [dwellStep, helig, hx]

/-- The dwell step in one equation (R82 to R84). -/
theorem dwellStep_eq (x : Channel) (w : ChanWork) :
    let tested := w.eligible = true ∧ (x.state = .acquire ∨ x.state = .track)
    let qualifies := if x.state = .acquire then x.tuning.tConv ≤ x.erle else x.erle < x.tuning.tConv - 24
    let dwell := if tested then (if qualifies then x.dwell + 1 else 0) else x.dwell
    let moves := tested ∧ (if x.state = .acquire then x.tuning.dConv else x.tuning.dRecheck) ≤ (dwell : Int)
    dwellStep x w = { x with
      state := if moves then (if x.state = .acquire then .track else .acquire) else x.state
      dwell := if moves then 0 else dwell } := by
  intro tested qualifies dwell moves
  by_cases htest : tested
  · obtain ⟨helig, hx | hx⟩ := id htest
    · have hd : dwell = if x.tuning.tConv ≤ x.erle then x.dwell + 1 else 0 := by
        simp only [dwell, if_pos htest, qualifies, if_pos hx]
      have hm : moves ↔ x.tuning.dConv ≤ (dwell : Int) := by
        simp only [moves, htest, true_and, if_pos hx]
      rw [dwellStep_acquire helig hx, dwellTest_eq, ← hd]
      by_cases hmv : moves
      · rw [if_pos (hm.mp hmv), if_pos (hm.mp hmv), if_pos hmv, if_pos hmv, if_pos hx]
      · rw [if_neg (fun h => hmv (hm.mpr h)), if_neg (fun h => hmv (hm.mpr h)), if_neg hmv, if_neg hmv]
    · have hne : x.state ≠ .acquire := by simp [hx]
      have hd : dwell = if x.erle < x.tuning.tConv - 24 then x.dwell + 1 else 0 := by
        simp only [dwell, if_pos htest, qualifies, if_neg hne]
      have hm : moves ↔ x.tuning.dRecheck ≤ (dwell : Int) := by
        simp only [moves, htest, true_and, if_neg hne]
      rw [dwellStep_track helig hx, dwellTest_eq, ← hd]
      by_cases hmv : moves
      · rw [if_pos (hm.mp hmv), if_pos (hm.mp hmv), if_pos hmv, if_pos hmv, if_neg hne]
      · rw [if_neg (fun h => hmv (hm.mpr h)), if_neg (fun h => hmv (hm.mpr h)), if_neg hmv, if_neg hmv]
  · have hmv : ¬ moves := fun h => htest h.1
    rw [dwellStep_untested htest, if_neg hmv, if_neg hmv, show dwell = x.dwell from if_neg htest]

theorem strikeStep_eq (x : Channel) (w : ChanWork) :
    strikeStep x w = { x with strikes := if w.granted = true then (if w.lm + 24 < w.le then x.strikes + 1 else 0) else x.strikes } := by
  unfold strikeStep
  split <;> rfl

/-- What the dwell step leaves alone. -/
theorem dwellStep_kept (x : Channel) (w : ChanWork) :
    (dwellStep x w).strikes = x.strikes ∧ (dwellStep x w).coupling = x.coupling ∧ (dwellStep x w).divergences = x.divergences := by
  by_cases h : Tested x w
  · obtain ⟨helig, hx | hx⟩ := h
    · rw [dwellStep_acquire helig hx, dwellTest_eq]
      exact ⟨rfl, rfl, rfl⟩
    · rw [dwellStep_track helig hx, dwellTest_eq]
      exact ⟨rfl, rfl, rfl⟩
  · rw [dwellStep_untested h]
    exact ⟨rfl, rfl, rfl⟩

/-- The context stage 7 forms, in its steps (R89). -/
theorem stageSevenOf_eq (s : State) (f : Flight) (c : Nat) :
    s.stageSevenOf f c = { strikeStep (dwellStep { f.ctx c with
      erle := (s.measuresAfter f c).1, coupling := (s.measuresAfter f c).2 } (f.chanWork c)) (f.chanWork c) with
      hang := (f.chanWork c).hang } := by
  rw [State.stageSevenOf, stageSeven, measureStep_eq]

theorem stageSevenOf_strikes (s : State) (f : Flight) (c : Nat) :
    (s.stageSevenOf f c).strikes = if (f.chanWork c).granted = true then
      (if (f.chanWork c).lm + 24 < (f.chanWork c).le then (f.ctx c).strikes + 1 else 0) else (f.ctx c).strikes := by
  rw [stageSevenOf_eq, strikeStep_eq]
  simp only [(dwellStep_kept _ _).1]

theorem stageSevenOf_coupling (s : State) (f : Flight) (c : Nat) : (s.stageSevenOf f c).coupling = (s.measuresAfter f c).2 := by
  rw [stageSevenOf_eq, strikeStep_eq]
  exact (dwellStep_kept _ _).2.1

theorem stageSevenOf_divergences (s : State) (f : Flight) (c : Nat) : (s.stageSevenOf f c).divergences = (f.ctx c).divergences := by
  rw [stageSevenOf_eq, strikeStep_eq]
  exact (dwellStep_kept _ _).2.2

theorem commits_iff : s.commits f c = true ↔ (f.ctx c).state ≠ .off ∧ (s.chan c).state = (f.ctx c).state := by
  simp [State.commits]

/-- A divergence event is an eighth strike (R85). -/
theorem eighthStrike_iff (s : State) (f : Flight) (c : Nat) : s.EighthStrike f c ↔ s.divergesIn f c = true := by
  rw [divergesIn_iff, State.EighthStrike, commits_iff, and_assoc]

/-! ### The unit of stage 7 -/

theorem step_commit (h : s.AtPhase f (.commit c)) :
    step s = .next (if s.divergesIn f c then s.setFlight (some (f.at (.zeroing c 0)))
      else if s.commits f c then (s.commitChan c (s.stageSevenOf f c)).setFlight (some (f.at (afterCommit c s.geo.mics)))
      else s.setFlight (some (f.at (afterCommit c s.geo.mics)))) := by
  rw [step_atPhase h]
  obtain ⟨-, -, -, -, hphase, -⟩ := h
  simp only [frameUnit, hphase, commitUnit, settle, update_apply]

/-! ### The divergence event (R86, R87) -/

theorem appendDivergence_eq (old : List Word) (n : Word) (h : old.length ≤ 3) :
    appendDivergence old n = if old.length = 3 then old.tail ++ [n] else old ++ [n] := by
  unfold appendDivergence
  split
  · rename_i hlen
    obtain ⟨a, rest, rfl⟩ : ∃ a rest, old = a :: rest := by
      cases old with
      | nil => simp at hlen
      | cons a rest => exact ⟨a, rest, rfl⟩
    simp only [List.length_cons] at hlen
    simp [hlen]
  · rw [show old.length + 1 - 3 = 0 by omega, List.drop_zero]

theorem suspends_iff (history : List Word) (n : Word) (hlast : ∃ l, history = l ++ [n]) :
    suspends history n = true ↔ ∃ a b, history = [a, b, n] ∧ 0 ≤ signedDiff n a ∧ signedDiff n a ≤ 250 := by
  obtain ⟨l, rfl⟩ := hlast
  match l with
  | [] => simp [suspends]
  | [a] => simp [suspends]
  | [a, b] =>
    change (decide (0 ≤ signedDiff n a) && decide (signedDiff n a ≤ 250)) = true ↔ _
    rw [Bool.and_eq_true, decide_eq_true_iff, decide_eq_true_iff]
    constructor
    · exact fun h => ⟨a, b, rfl, h⟩
    · rintro ⟨a', b', hab, h⟩
      obtain ⟨rfl, rfl⟩ : a = a' ∧ b = b' := by simpa using hab
      exact h
  | a :: b :: d :: rest => simp [suspends]

theorem step_zeroing {k : Nat} (h : s.AtPhase f (.zeroing c k)) (hk : k < (s.extent c).size) :
    step s = .next ((s.setSlot ((s.extent c).base + k) .zero).setFlight
      (some { f with phase := .zeroing c (k + 1), asks := decide (k + 1 < (s.extent c).size) || s.zeroingGoesOn f c })) := by
  rw [step_atPhase h]
  obtain ⟨-, -, -, -, hphase, -⟩ := h
  simp only [frameUnit, hphase, zeroingUnit, settle, update_apply]
  rw [if_pos hk]

theorem step_zeroed {k : Nat} (h : s.AtPhase f (.zeroing c k)) (hk : (s.extent c).size ≤ k) :
    step s = .next (((s.commitChan c ((s.stageSevenOf f c).diverged f.count)).requeueDiverged c
      ((s.stageSevenOf f c).diverged f.count)).setFlight
        (some { f.at (afterCommit c s.geo.mics) with event := true, asks := s.zeroingGoesOn f c })) := by
  rw [step_atPhase h]
  obtain ⟨-, -, -, -, hphase, -⟩ := h
  simp only [frameUnit, hphase, zeroingUnit, settle, update_apply]
  rw [if_neg (by omega)]

theorem zeroingGoesOn_iff : s.zeroingGoesOn f c = true ↔ c + 1 < s.geo.mics ∧ s.EighthStrike f (c + 1) := by
  rw [State.zeroingGoesOn, Bool.and_eq_true, decide_eq_true_iff, eighthStrike_iff]

/-! ### Stage 8 -/

/-- The attenuation of channel `c` after stage 8 (R123). -/
def State.attenAfter (s : State) (f : Flight) (c : Nat) : Int :=
  attenuationAfter (f.ctx c).tuning (s.chan c) (f.chanWork c) s.history.farActive s.history.lx s.geo.tRes

/-- The frame after stage 8 of channel `c`. -/
def State.suppressed (s : State) (f : Flight) (c : Nat) : Flight :=
  { f.setWork c (if (f.ctx c).state = .off then withOutput true 0 (f.chanWork c)
      else withOutput false (s.attenAfter f c) (f.chanWork c)) with
    phase := if c + 1 < s.geo.mics then .suppress (c + 1) else .output 0 }

theorem step_suppress (h : s.AtPhase f (.suppress c)) :
    step s = .next { s with
      channels := (if (f.ctx c).state = .off then s
        else s.modChan c fun ctx => { ctx with atten := s.attenAfter f c }).channels
      flight := some (s.suppressed f c) } := by
  rw [step_atPhase h]
  obtain ⟨-, -, -, -, hphase, -⟩ := h
  simp only [frameUnit, hphase, suppressUnit, settle, update_apply]
  by_cases hoff : (f.ctx c).state = .off
  · rw [if_pos hoff, if_pos hoff, State.suppressed, if_pos hoff]
    rfl
  · rw [if_neg hoff, if_neg hoff, State.suppressed, if_neg hoff]
    rfl

theorem ramp_down {a target attack release : Int} (h : target < a) : ramp a target attack release = max target (a - attack) := if_pos h

theorem ramp_up {a target attack release : Int} (h : a < target) : ramp a target attack release = min target (a + release) := by
  rw [ramp, if_neg (by omega), if_pos h]

theorem ramp_there {a target attack release : Int} (h : target = a) : ramp a target attack release = a := by
  rw [ramp, if_neg (by omega), if_neg (by omega)]

end

end Sys2Proof.Machine

namespace Sys2Proof
open Sys2Proof.Machine

/-- Settles O49: a channel that is passed over, an eighth strike, and the commit step by step. -/
theorem stageSevenCommits : Obligations.StageSevenCommits := by
  unfold Obligations.StageSevenCommits
  intro s f c h hc x w onward
  have hstep := step_commit h
  refine ⟨fun hpass => ?_, fun hstrike => ?_, ?_⟩
  · have hcommits : ¬ s.commits f c = true := fun hcom => by
      obtain ⟨hon, hsame⟩ := commits_iff.mp hcom
      rcases hpass with hoff | hother
      · exact hon hoff
      · exact hother hsame
    have hdiv : ¬ s.divergesIn f c = true := fun hdiv => hcommits ((divergesIn_iff s f c).mp hdiv).1
    rw [hstep, if_neg hdiv, if_neg hcommits]
    rfl
  · rw [hstep, if_pos ((eighthStrike_iff s f c).mp hstrike)]
    rfl
  · intro hon hsame hstrike erle coupling tested qualifies dwell moves
    have hdiv : ¬ s.divergesIn f c = true := fun hdiv => hstrike ((eighthStrike_iff s f c).mpr hdiv)
    rw [if_neg hdiv, if_pos (commits_iff.mpr ⟨hon, hsame⟩)] at hstep
    set y : Channel := { x with erle := erle, coupling := coupling } with hy
    have hdwell := dwellStep_eq y w
    have hseven : s.stageSevenOf f c = _ := stageSevenOf_eq s f c
    rw [show ({ f.ctx c with erle := (s.measuresAfter f c).1, coupling := (s.measuresAfter f c).2 } : Channel) = y from rfl,
      show f.chanWork c = w from rfl, hdwell, strikeStep_eq] at hseven
    refine ⟨_, hstep, rfl, fun i hi => chan_setChan_other _ _ hi, ?_⟩
    refine (chan_setChan_same _ _ hc).trans ?_
    rw [hseven]
    rfl

/-- Settles O50: the zeroing slot by slot, and the commit of the event. -/
theorem divergenceCommitted : Obligations.DivergenceCommitted := by
  unfold Obligations.DivergenceCommitted
  intro s f c k more h x hmore
  have hasks : s.zeroingGoesOn f c = more := Bool.eq_iff_iff.mpr (zeroingGoesOn_iff.trans hmore.symm)
  refine ⟨fun hk => ?_, ?_⟩
  · refine ⟨_, step_zeroing h hk, ?_, fun i => ?_⟩
    · rw [hasks]
      simp only [State.setFlight, State.setSlot, State.setPool, x]
    · exact (slot_congr (by simp only [State.setFlight, x]) i).trans (slot_setSlot s _ i .zero)
  · intro hk hc old hold new suspended onward
    have hnew : appendDivergence old f.count = new := appendDivergence_eq old f.count hold
    have hsusp : suspends new f.count = true ↔ suspended := suspends_iff new f.count (by
      simp only [new]
      split
      · exact ⟨_, rfl⟩
      · exact ⟨_, rfl⟩)
    have hdiverged : (s.stageSevenOf f c).diverged f.count = { s.stageSevenOf f c with
        erle := 0, strikes := 0, dwell := 0, divergences := new
        state := if suspends new f.count then .suspended else .acquire } := by
      rw [Channel.diverged, stageSevenOf_divergences, show (f.ctx c).divergences = old from rfl, hnew]
    set v := (s.stageSevenOf f c).diverged f.count with hv
    have hstep := step_zeroed h hk
    rw [← hv, hasks] at hstep
    have hstate : v.state = if suspends new f.count then .suspended else .acquire := by rw [hdiverged]
    have hchans : ∀ i, (((s.commitChan c v).requeueDiverged c v).setFlight
        (some { f.at (afterCommit c s.geo.mics) with event := true, asks := more })).chan i = (s.commitChan c v).chan i := fun i =>
      chan_congr (by unfold State.requeueDiverged; split <;> rfl) i
    refine ⟨_, v.state, hstep, ?_, fun i hi => ?_, ?_, fun hs => ?_, fun hs => ?_⟩
    · unfold State.requeueDiverged
      split <;> rfl
    · rw [hchans]
      exact chan_setChan_other _ _ hi
    · rw [hchans]
      refine (chan_setChan_same _ _ hc).trans ?_
      rw [hdiverged]
      simp only [Channel.commit, stageSevenOf_coupling]
      rfl
    · have hsuspended : v.state = .suspended := by rw [hstate, if_pos (hsusp.mpr hs)]
      refine ⟨hsuspended, ?_⟩
      unfold State.requeueDiverged
      rw [if_pos hsuspended]
      rfl
    · have hacquire : v.state = .acquire := by rw [hstate, if_neg fun h => hs (hsusp.mp h)]
      refine ⟨hacquire, ?_⟩
      unfold State.requeueDiverged
      rw [if_neg (by simp [hacquire])]
      rfl

/-- Settles O51: the copy of an OFF channel, and the ramp and the scaling of another. -/
theorem suppressorRamps : Obligations.SuppressorRamps := by
  unfold Obligations.SuppressorRamps
  intro s f c h hc
  have hwork : (s.suppressed f c).work = (f.setWork c (if (f.ctx c).state = .off then withOutput true 0 (f.chanWork c)
      else withOutput false (s.attenAfter f c) (f.chanWork c))).work := rfl
  have hown := chanWork_set_same hwork hc
  by_cases hoff : (f.ctx c).state = .off
  · have hstep := step_suppress h
    rw [if_pos hoff] at hstep hown
    refine ⟨_, s.suppressed f c, hstep, rfl, rfl, fun i hi => ⟨rfl, chanWork_set_other hwork hi⟩, ?_, fun _ => ⟨rfl, ?_, ?_⟩,
      fun hon => absurd hoff hon⟩
    · rw [hown]
      rfl
    · rw [hown]
      rfl
    · rw [hown]
      rfl
  · have hstep := step_suppress h
    rw [if_neg hoff] at hstep hown
    refine ⟨_, s.suppressed f c, hstep, rfl, rfl, fun i hi => ⟨chan_setChan_other _ _ hi, chanWork_set_other hwork hi⟩, ?_,
      fun hoff' => absurd hoff' hoff, fun _ => ?_⟩
    · rw [hown]
      rfl
    · intro w a tuning lr target next
      have hchan := chan_setChan_same s c (ctx := { s.chan c with atten := s.attenAfter f c }) hc
      have hnext : next = s.attenAfter f c := congrArg Channel.atten hchan
      have hramp : next = ramp a target tuning.attack tuning.release := hnext
      refine ⟨?_, fun hdown => ?_, fun hup => ?_, fun hthere => ?_, ?_, ?_⟩
      · rw [hnext]
        exact hchan
      · rw [hramp, ramp_down hdown]
      · rw [hramp, ramp_up hup]
      · rw [hramp, ramp_there hthere]
      · rw [hown, hnext]
        rfl
      · rw [hown]
        rfl

end Sys2Proof
end

section
/-! The numbers of chapter 3's exact arithmetic as complex numbers: what each operation of Cyclotomic.lean stands for, how long its lists
are, and how large the sum of its coefficients' magnitudes is. -/

namespace Sys2Proof.Machine

open scoped ComplexConjugate

/-! ### The root of unity -/

/-- The number z = e^(j2pi/256). -/
noncomputable def zeta : ℂ := Complex.exp (2 * Real.pi / 256 * Complex.I)

theorem zeta_pow (n : Nat) : zeta ^ n = Complex.exp (2 * Real.pi * n / 256 * Complex.I) := by
  rw [zeta, ← Complex.exp_nat_mul]
  congr 1
  ring

theorem zeta_pow_mul (k t : Nat) : zeta ^ (k * t) = Complex.exp ((2 * Real.pi * (k * t) / 256) * Complex.I) := by
  rw [zeta_pow, Nat.cast_mul]

theorem zeta_pow_128 : zeta ^ 128 = -1 := by
  rw [zeta_pow, ← Complex.exp_pi_mul_I]
  congr 1
  push_cast
  ring

theorem zeta_pow_256 : zeta ^ 256 = 1 := by
  rw [show 256 = 128 * 2 from rfl, pow_mul, zeta_pow_128]
  norm_num

theorem zeta_ne_zero : zeta ≠ 0 := Complex.exp_ne_zero _

theorem zeta_pow_mod (n : Nat) : zeta ^ (n % 256) = zeta ^ n := by
  conv_rhs => rw [← Nat.mod_add_div n 256, pow_add, pow_mul, zeta_pow_256, one_pow, mul_one]

theorem conj_zeta_mul : zeta * conj zeta = 1 := by
  have harg : conj (2 * (Real.pi : ℂ) / 256 * Complex.I) = -(2 * Real.pi / 256 * Complex.I) := by
    simp only [map_mul, map_div₀, Complex.conj_ofReal, Complex.conj_I, map_ofNat]
    ring
  rw [zeta, ← Complex.exp_conj, harg, ← Complex.exp_add, add_neg_cancel, Complex.exp_zero]

theorem conj_zeta : conj zeta = -zeta ^ 127 := by
  refine mul_left_cancel₀ zeta_ne_zero ?_
  rw [conj_zeta_mul, mul_neg, ← pow_succ', zeta_pow_128, neg_neg]

/-- The powers that the transform of R18 turns by. -/
theorem zeta_pow_back (m : Nat) : zeta ^ (256 - m % 256) = Complex.exp (-(2 * Real.pi * m / 256) * Complex.I) := by
  have hone : zeta ^ (256 - m % 256) * zeta ^ m = 1 := by
    rw [← zeta_pow_mod m, ← pow_add, Nat.sub_add_cancel (Nat.mod_lt _ (by omega)).le, zeta_pow_256]
  have hexp : Complex.exp (-(2 * Real.pi * m / 256) * Complex.I) * zeta ^ m = 1 := by
    rw [zeta_pow, ← Complex.exp_add, neg_mul, neg_add_cancel, Complex.exp_zero]
  exact mul_right_cancel₀ (pow_ne_zero m zeta_ne_zero) (hone.trans hexp.symm)

theorem zeta_pow_re (n : Nat) : (zeta ^ n).re = Real.cos (2 * Real.pi * n / 256) := by
  rw [zeta_pow, show (2 * (Real.pi : ℂ) * n / 256 * Complex.I) = ((2 * Real.pi * n / 256 : ℝ) : ℂ) * Complex.I by push_cast; ring,
    Complex.exp_ofReal_mul_I_re]

/-! ### Values -/

/-- The complex number that a list of coefficients stands for. -/
noncomputable def cycVal : Cyc → ℂ
  | [] => 0
  | x :: xs => (x : ℂ) + zeta * cycVal xs

/-- The sum of the magnitudes of the coefficients. -/
def cycNorm (a : Cyc) : Rat := (a.map fun x => |x|).sum

section
variable (a b : Cyc)

theorem cycVal_append : cycVal (a ++ b) = cycVal a + zeta ^ a.length * cycVal b := by
  induction a with
  | nil => simp [cycVal]
  | cons x xs ih =>
    simp only [List.cons_append, cycVal, ih, List.length_cons, pow_succ]
    ring

theorem cycVal_neg : cycVal (a.map fun x => -x) = -cycVal a := by
  induction a with
  | nil => simp [cycVal]
  | cons x xs ih =>
    simp only [List.map_cons, cycVal, ih]
    push_cast
    ring

theorem cycVal_zeros (n : Nat) : cycVal (List.replicate n 0) = 0 := by
  induction n with
  | zero => rfl
  | succ n ih => simp [List.replicate_succ, cycVal, ih]

theorem cycVal_scale (q : Rat) : cycVal (cycScale q a) = q * cycVal a := by
  induction a with
  | nil => simp [cycScale, cycVal]
  | cons x xs ih =>
    simp only [cycScale, List.map_cons, cycVal] at ih ⊢
    rw [ih]
    push_cast
    ring

variable {a b}

theorem cycVal_add (h : a.length = b.length) : cycVal (cycAdd a b) = cycVal a + cycVal b := by
  induction a generalizing b with
  | nil =>
    obtain rfl := List.length_eq_zero_iff.mp h.symm
    simp [cycAdd, cycVal]
  | cons x xs ih =>
    cases b with
    | nil => simp at h
    | cons y ys =>
      have hrest : cycVal (List.zipWith (fun x y => x + y) xs ys) = cycVal xs + cycVal ys := ih (by simpa using h)
      simp only [cycAdd, List.zipWith_cons_cons, cycVal, hrest]
      push_cast
      ring

theorem cycVal_turnHalf (h : a.length = 128) {e : Nat} (he : e ≤ 128) : cycVal (cycTurnHalf e a) = zeta ^ e * cycVal a := by
  have hsplit : cycVal a = cycVal (a.take (128 - e)) + zeta ^ (128 - e) * cycVal (a.drop (128 - e)) := by
    conv_lhs => rw [← List.take_append_drop (128 - e) a, cycVal_append]
    rw [List.length_take, h, min_eq_left (by omega)]
  have hlen : (List.map (fun x : Rat => -x) (a.drop (128 - e))).length = e := by
    rw [List.length_map, List.length_drop, h]
    omega
  have hturn : zeta ^ e * zeta ^ (128 - e) = -1 := by
    rw [← pow_add, show e + (128 - e) = 128 by omega, zeta_pow_128]
  rw [cycTurnHalf, cycVal_append, hlen, cycVal_neg, hsplit, mul_add, ← mul_assoc, hturn]
  ring

theorem cycVal_turn (h : a.length = 128) (e : Nat) : cycVal (cycTurn e a) = zeta ^ e * cycVal a := by
  rw [← zeta_pow_mod e, cycTurn]
  have hlt : e % 256 < 256 := Nat.mod_lt _ (by omega)
  split
  · exact cycVal_turnHalf h (by omega)
  · rw [cycVal_neg, cycVal_turnHalf h (by omega)]
    have hhalf : zeta ^ (e % 256) = -zeta ^ (e % 256 - 128) := by
      conv_lhs => rw [show e % 256 = e % 256 - 128 + 128 by omega, pow_add, zeta_pow_128]
      ring
    rw [hhalf]
    ring

/-- The coefficients reversed. -/
theorem cycVal_reverse (a : Cyc) : zeta * cycVal a.reverse = zeta ^ a.length * conj (cycVal a) := by
  induction a with
  | nil => simp [cycVal]
  | cons x xs ih =>
    have hconj : conj (cycVal (x :: xs)) = x + conj zeta * conj (cycVal xs) := by
      simp only [cycVal, map_add, map_mul, map_ratCast]
    rw [List.reverse_cons, cycVal_append, List.length_reverse, mul_add, ih, hconj, List.length_cons, pow_succ, mul_add]
    have hcancel : zeta ^ xs.length * zeta * (conj zeta * conj (cycVal xs)) = zeta ^ xs.length * conj (cycVal xs) := by
      rw [mul_assoc, ← mul_assoc zeta, conj_zeta_mul, one_mul]
    rw [hcancel, cycVal, cycVal]
    ring

theorem cycVal_conj (h : a.length = 128) : cycVal (cycConj a) = conj (cycVal a) := by
  cases a with
  | nil => simp at h
  | cons x xs =>
    have hxs : xs.length = 127 := by simpa using h
    have hreverse := cycVal_reverse xs
    have hconj : conj (cycVal (x :: xs)) = x + conj zeta * conj (cycVal xs) := by
      simp only [cycVal, map_add, map_mul, map_ratCast]
    rw [hconj, conj_zeta, cycConj, cycVal, cycVal_neg, mul_neg, hreverse, hxs]
    ring

/-! ### Lengths -/

theorem length_cycZero : cycZero.length = 128 := List.length_replicate

theorem length_cycAdd (ha : a.length = 128) (hb : b.length = 128) : (cycAdd a b).length = 128 := by
  simp [cycAdd, ha, hb]

theorem length_cycScale (q : Rat) (ha : a.length = 128) : (cycScale q a).length = 128 := by simp [cycScale, ha]

theorem length_cycTurnHalf {e : Nat} (he : e ≤ 128) (ha : a.length = 128) : (cycTurnHalf e a).length = 128 := by
  simp only [cycTurnHalf, List.length_append, List.length_map, List.length_drop, List.length_take, ha]
  omega

theorem length_cycTurn (e : Nat) (ha : a.length = 128) : (cycTurn e a).length = 128 := by
  have hlt : e % 256 < 256 := Nat.mod_lt _ (by omega)
  unfold cycTurn
  split
  · exact length_cycTurnHalf (by omega) ha
  · rw [List.length_map]
    exact length_cycTurnHalf (by omega) ha

theorem length_cycConj (ha : a.length = 128) : (cycConj a).length = 128 := by
  cases a with
  | nil => simp at ha
  | cons x xs => simpa [cycConj] using ha

theorem length_cycMulFrom (hb : b.length = 128) (a : Cyc) (i : Nat) : (cycMulFrom b i a).length = 128 := by
  induction a generalizing i with
  | nil => exact length_cycZero
  | cons x xs ih =>
    unfold cycMulFrom
    split
    · exact ih _
    · exact length_cycAdd (length_cycScale _ (length_cycTurn _ hb)) (ih _)

theorem length_cycMul (a : Cyc) (hb : b.length = 128) : (cycMul a b).length = 128 := length_cycMulFrom hb a 0

theorem length_cycMono (e : Nat) (x : Rat) : (cycMono e x).length = 128 := length_cycTurn e (by simp)

/-! ### Products and monomials -/

theorem cycVal_mulFrom (hb : b.length = 128) (a : Cyc) (i : Nat) : cycVal (cycMulFrom b i a) = zeta ^ i * cycVal a * cycVal b := by
  induction a generalizing i with
  | nil => rw [cycMulFrom, cycZero, cycVal_zeros, cycVal, mul_zero, zero_mul]
  | cons x xs ih =>
    unfold cycMulFrom
    split
    · rename_i hx
      rw [ih, cycVal, hx, pow_succ]
      push_cast
      ring
    · rw [cycVal_add (by rw [length_cycScale _ (length_cycTurn _ hb), length_cycMulFrom hb]), cycVal_scale, cycVal_turn hb, ih, cycVal,
        pow_succ]
      ring

theorem cycVal_mul (a : Cyc) (hb : b.length = 128) : cycVal (cycMul a b) = cycVal a * cycVal b := by
  rw [cycMul, cycVal_mulFrom hb, pow_zero, one_mul]

theorem cycVal_mono (e : Nat) (x : Rat) : cycVal (cycMono e x) = zeta ^ e * x := by
  rw [cycMono, cycVal_turn (by simp), cycVal, cycVal_zeros, mul_zero, add_zero]

/-! ### Magnitudes -/

theorem cycNorm_cons (x : Rat) (xs : Cyc) : cycNorm (x :: xs) = |x| + cycNorm xs := by simp [cycNorm]

theorem cycNorm_append (a b : Cyc) : cycNorm (a ++ b) = cycNorm a + cycNorm b := by simp [cycNorm]

theorem cycNorm_nonneg (a : Cyc) : 0 ≤ cycNorm a :=
  List.sum_nonneg fun x hx => by
    obtain ⟨y, -, rfl⟩ := List.mem_map.mp hx
    exact abs_nonneg y

theorem cycNorm_neg (a : Cyc) : cycNorm (a.map fun x => -x) = cycNorm a := by
  simp [cycNorm, Function.comp_def]

theorem cycNorm_zeros (n : Nat) : cycNorm (List.replicate n 0) = 0 := by simp [cycNorm]

theorem cycNorm_scale (q : Rat) (a : Cyc) : cycNorm (cycScale q a) = |q| * cycNorm a := by
  induction a with
  | nil => simp [cycScale, cycNorm]
  | cons x xs ih =>
    simp only [cycScale, List.map_cons] at ih ⊢
    rw [cycNorm_cons, ih, cycNorm_cons, abs_mul]
    ring

theorem cycNorm_add (a b : Cyc) : cycNorm (cycAdd a b) ≤ cycNorm a + cycNorm b := by
  induction a generalizing b with
  | nil => simpa [cycAdd, cycNorm] using cycNorm_nonneg b
  | cons x xs ih =>
    cases b with
    | nil => simpa [cycAdd, cycNorm] using cycNorm_nonneg (x :: xs)
    | cons y ys =>
      have hrest : cycNorm (List.zipWith (fun x y => x + y) xs ys) ≤ cycNorm xs + cycNorm ys := ih ys
      simp only [cycAdd, List.zipWith_cons_cons]
      rw [cycNorm_cons, cycNorm_cons, cycNorm_cons]
      linarith [abs_add_le x y]

theorem cycNorm_turn (e : Nat) (a : Cyc) : cycNorm (cycTurn e a) = cycNorm a := by
  have hhalf : ∀ e, cycNorm (cycTurnHalf e a) = cycNorm a := fun e => by
    rw [cycTurnHalf, cycNorm_append, cycNorm_neg, add_comm, ← cycNorm_append, List.take_append_drop]
  unfold cycTurn
  split
  · exact hhalf _
  · rw [cycNorm_neg, hhalf]

theorem cycNorm_conj (a : Cyc) : cycNorm (cycConj a) = cycNorm a := by
  cases a with
  | nil => rfl
  | cons x xs =>
    have hreverse : cycNorm xs.reverse = cycNorm xs := by simp [cycNorm, List.sum_reverse]
    rw [cycConj, cycNorm_cons, cycNorm_neg, hreverse, cycNorm_cons]

theorem cycNorm_mulFrom (b a : Cyc) (i : Nat) : cycNorm (cycMulFrom b i a) ≤ cycNorm a * cycNorm b := by
  induction a generalizing i with
  | nil =>
    rw [cycMulFrom, cycZero, cycNorm_zeros]
    exact mul_nonneg (cycNorm_nonneg _) (cycNorm_nonneg _)
  | cons x xs ih =>
    have hterm : 0 ≤ |x| * cycNorm b := mul_nonneg (abs_nonneg x) (cycNorm_nonneg b)
    unfold cycMulFrom
    rw [cycNorm_cons, add_mul]
    split
    · linarith [ih (i + 1)]
    · refine (cycNorm_add _ _).trans ?_
      rw [cycNorm_scale, cycNorm_turn]
      linarith [ih (i + 1)]

theorem cycNorm_mul (a b : Cyc) : cycNorm (cycMul a b) ≤ cycNorm a * cycNorm b := cycNorm_mulFrom b a 0

theorem cycNorm_mono (e : Nat) (x : Rat) : cycNorm (cycMono e x) = |x| := by
  rw [cycMono, cycNorm_turn, cycNorm_cons, cycNorm_zeros, add_zero]

end

/-! ### Sums -/

/-- A sum formed by adding numbers one after another. -/
theorem cycVal_foldl_add {α : Type} (g : α → Cyc) (l : List α) : (∀ x ∈ l, (g x).length = 128) → ∀ acc : Cyc, acc.length = 128 →
    cycVal (l.foldl (fun acc x => cycAdd acc (g x)) acc) = cycVal acc + (l.map fun x => cycVal (g x)).sum ∧
      (l.foldl (fun acc x => cycAdd acc (g x)) acc).length = 128 ∧
      cycNorm (l.foldl (fun acc x => cycAdd acc (g x)) acc) ≤ cycNorm acc + (l.map fun x => cycNorm (g x)).sum := by
  induction l with
  | nil => exact fun _ acc hacc => ⟨by simp, hacc, by simp⟩
  | cons x xs ih =>
    intro hg acc hacc
    have hx := hg x List.mem_cons_self
    obtain ⟨hval, hlen, hnorm⟩ := ih (fun y hy => hg y (List.mem_cons_of_mem _ hy)) (cycAdd acc (g x)) (length_cycAdd hacc hx)
    refine ⟨?_, hlen, ?_⟩
    · rw [List.foldl_cons, hval, cycVal_add (hacc.trans hx.symm), List.map_cons, List.sum_cons]
      ring
    · rw [List.foldl_cons, List.map_cons, List.sum_cons]
      linarith [cycNorm_add acc (g x)]

/-- The sum over the places of a list. -/
theorem sum_map_zipIdx {α β : Type} [AddCommMonoid β] (l : List α) (d : α) (g : α × Nat → β) :
    (l.zipIdx.map g).sum = ∑ i ∈ Finset.range l.length, g (l.getD i d, i) := by
  rw [Finset.sum_range, ← List.sum_ofFn]
  congr 1
  refine List.ext_getElem (by simp) fun i h1 h2 => ?_
  simp

/-- A value as the sum over its coefficients. -/
theorem cycVal_eq_sum (a : Cyc) : cycVal a = ∑ i ∈ Finset.range a.length, (a.getD i 0 : ℂ) * zeta ^ i := by
  induction a with
  | nil => simp [cycVal]
  | cons x xs ih =>
    rw [cycVal, ih, List.length_cons, Finset.sum_range_succ', Finset.mul_sum, add_comm]
    simp only [List.getD_cons_succ, List.getD_cons_zero, pow_zero, mul_one]
    congr 1
    exact Finset.sum_congr rfl fun i _ => by ring

theorem cycNorm_eq_sum (a : Cyc) : cycNorm a = ∑ i ∈ Finset.range a.length, |a.getD i 0| := by
  induction a with
  | nil => simp [cycNorm]
  | cons x xs ih =>
    rw [cycNorm_cons, ih, List.length_cons, Finset.sum_range_succ', add_comm]
    simp only [List.getD_cons_succ, List.getD_cons_zero]

end Sys2Proof.Machine
end

section
/-! The cosine table as an enclosure of the real cosines: by the doubling formula, from the quarter turn down to every entry, and with it
the bounds on the real and the imaginary part of an exact number. -/

namespace Sys2Proof.Machine

/-! ### The table's entries -/

/-- How far entry `j` may stand from 2^128 cos(2 pi j / 256), by the number of halvings from the quarter turn. -/
def cosError (j : Nat) : Nat :=
  if j % 64 = 0 then 0 else if j % 32 = 0 then 1 else if j % 16 = 0 then 2 else if j % 8 = 0 then 5
  else if j % 4 = 0 then 15 else if j % 2 = 0 then 79 else 814

/-- The entry whose angle, doubled, is that of `j`, up to the sign of its cosine. -/
def cosPartner (j : Nat) : Nat := if j ≤ 32 then 2 * j else 128 - 2 * j

/-- The cosine of the doubled angle by the table. -/
def cosDoubled (j : Nat) : Int := if j ≤ 32 then cosEntry (2 * j) else -cosEntry (128 - 2 * j)

theorem cosTable_halving : ∀ j < 64, j ≠ 0 →
    cosError j ≤ cosEntry j ∧
    2 * ((cosEntry j : Int) - cosError j) ^ 2 ≤ 2 ^ 128 * (cosDoubled j - cosError (cosPartner j)) + 2 ^ 256 ∧
    2 ^ 128 * (cosDoubled j + cosError (cosPartner j)) + 2 ^ 256 ≤ 2 * ((cosEntry j : Int) + cosError j) ^ 2 := by
  decide +kernel

/-- The cosine of entry `j`. -/
noncomputable def cosAt (j : Nat) : ℝ := Real.cos (2 * Real.pi * j / 256)

theorem cosAt_nonneg {j : Nat} (h : j ≤ 64) : 0 ≤ cosAt j := by
  have hj : (j : ℝ) ≤ 64 := by exact_mod_cast h
  have hpi := Real.pi_pos
  refine Real.cos_nonneg_of_neg_pi_div_two_le_of_le ?_ ?_
  · have : 0 ≤ 2 * Real.pi * j / 256 := by positivity
    linarith
  · nlinarith

theorem cosAt_reflect {j : Nat} (h : j ≤ 128) : cosAt (128 - j) = -cosAt j := by
  rw [cosAt, cosAt, ← Real.cos_pi_sub, Nat.cast_sub h]
  congr 1
  push_cast
  ring

theorem cosAt_double (j : Nat) : cosAt (2 * j) = 2 * cosAt j ^ 2 - 1 := by
  rw [cosAt, cosAt, ← Real.cos_two_mul]
  congr 1
  push_cast
  ring

theorem cosAt_64 : cosAt 64 = 0 := by
  rw [cosAt, show (2 * Real.pi * (64 : ℕ) / 256 : ℝ) = Real.pi / 2 by push_cast; ring, Real.cos_pi_div_two]

theorem cosAt_zero : cosAt 0 = 1 := by simp [cosAt]

/-- Entry `j` stands within its error of the cosine. -/
def CosClose (j : Nat) : Prop := |2 ^ 128 * cosAt j - cosEntry j| ≤ (cosError j : ℝ)

theorem cosClose_doubled {j : Nat} (h : j ≤ 64) (hp : CosClose (cosPartner j)) :
    |2 ^ 128 * cosAt (2 * j) - cosDoubled j| ≤ (cosError (cosPartner j) : ℝ) := by
  unfold CosClose at hp
  by_cases hj : j ≤ 32
  · rw [cosDoubled, if_pos hj]
    rw [cosPartner, if_pos hj] at hp ⊢
    exact_mod_cast hp
  · have hreflect : cosAt (2 * j) = -cosAt (128 - 2 * j) := by
      rw [cosAt_reflect (by omega), neg_neg]
    rw [cosDoubled, if_neg hj]
    rw [cosPartner, if_neg hj] at hp ⊢
    rw [hreflect, ← abs_neg]
    convert hp using 2
    push_cast
    ring

/-- The step from a doubled angle to the angle itself. -/
theorem cosClose_halved {j : Nat} (h0 : j ≠ 0) (h : j < 64) (hp : CosClose (cosPartner j)) : CosClose j := by
  obtain ⟨hle, hlower, hupper⟩ := cosTable_halving j h h0
  have hnear := cosClose_doubled h.le hp
  have hc := cosAt_nonneg h.le
  rw [cosAt_double, abs_le] at hnear
  obtain ⟨hnear1, hnear2⟩ := hnear
  have hlower' : 2 * ((cosEntry j : ℝ) - cosError j) ^ 2 ≤ 2 ^ 128 * ((cosDoubled j : ℝ) - cosError (cosPartner j)) + 2 ^ 256 := by
    exact_mod_cast hlower
  have hupper' : 2 ^ 128 * ((cosDoubled j : ℝ) + cosError (cosPartner j)) + 2 ^ 256 ≤ 2 * ((cosEntry j : ℝ) + cosError j) ^ 2 := by
    exact_mod_cast hupper
  have hle' : (cosError j : ℝ) ≤ cosEntry j := by exact_mod_cast hle
  have hE : (0 : ℝ) ≤ cosError j := Nat.cast_nonneg _
  have hT : (0 : ℝ) ≤ cosEntry j := Nat.cast_nonneg _
  have hsquare : (2 ^ 128 * cosAt j) ^ 2 * 2 = 2 ^ 128 * (2 ^ 128 * (2 * cosAt j ^ 2 - 1)) + 2 ^ 256 := by ring
  have hge : (cosEntry j : ℝ) - cosError j ≤ 2 ^ 128 * cosAt j := by
    refine abs_le_of_sq_le_sq' ?_ (by positivity) |>.2
    nlinarith
  have hlt : 2 ^ 128 * cosAt j ≤ (cosEntry j : ℝ) + cosError j := by
    refine abs_le_of_sq_le_sq' ?_ (by positivity) |>.2
    nlinarith
  rw [CosClose, abs_le]
  constructor <;> linarith

theorem cosClose_ends : CosClose 0 ∧ CosClose 64 := by
  obtain ⟨-, h0, h64⟩ := cosTable_ends
  constructor
  · rw [CosClose, h0, cosAt_zero]
    norm_num
  · rw [CosClose, h64, cosAt_64]
    norm_num

theorem cosClose_level (n : Nat) (hn : n ≤ 6) : ∀ j ≤ 64, 2 ^ (6 - n) ∣ j → CosClose j := by
  induction n with
  | zero =>
    intro j hj hdvd
    obtain ⟨k, rfl⟩ := hdvd
    have hk : k = 0 ∨ k = 1 := by omega
    rcases hk with rfl | rfl
    · exact cosClose_ends.1
    · exact cosClose_ends.2
  | succ n ih =>
    intro j hj hdvd
    by_cases h0 : j = 0
    · rw [h0]
      exact cosClose_ends.1
    by_cases h64 : j = 64
    · rw [h64]
      exact cosClose_ends.2
    refine cosClose_halved h0 (by omega) (ih (by omega) _ ?_ ?_)
    · unfold cosPartner
      split <;> omega
    · have hpow : 2 ^ (6 - n) = 2 * 2 ^ (6 - (n + 1)) := by
        rw [show 6 - n = 6 - (n + 1) + 1 by omega, pow_succ]
        ring
      have htwice : 2 ^ (6 - n) ∣ 2 * j := by
        rw [hpow]
        exact Nat.mul_dvd_mul_left 2 hdvd
      unfold cosPartner
      split
      · exact htwice
      · exact Nat.dvd_sub ((pow_dvd_pow 2 (show 6 - n ≤ 7 by omega)).trans (by norm_num)) htwice

/-- Every entry stands within 2^10 of 2^128 times its cosine. -/
theorem cosEntry_close {j : Nat} (h : j ≤ 64) : |2 ^ 128 * cosAt j - cosEntry j| ≤ (2 ^ 10 : ℝ) := by
  have herror : cosError j ≤ 2 ^ 10 := by
    unfold cosError
    split_ifs <;> norm_num
  have hclose : CosClose j := cosClose_level 6 le_rfl j h (by simp)
  exact hclose.trans (by exact_mod_cast herror)

end Sys2Proof.Machine
end

section
/-! The bounds on the parts of an exact number, and the transforms of R18, R40 and R44 as the sums they stand for. -/

namespace Sys2Proof.Machine

open scoped ComplexConjugate

/-! ### The parts of a number -/

/-- A sum over 128 coefficients, those of mirrored angles together. -/
theorem sum_mirrored {M : Type} [AddCommMonoid M] (f : ℕ → M) :
    ∑ i ∈ Finset.range 128, f i = f 0 + f 64 + ∑ j ∈ Finset.range 63, (f (j + 1) + f (127 - j)) := by
  have hlow : ∑ i ∈ Finset.range 64, f i = f 0 + ∑ j ∈ Finset.range 63, f (j + 1) := by
    rw [Finset.sum_range_succ', add_comm]
  have hhigh : ∑ i ∈ Finset.range 64, f (64 + i) = f 64 + ∑ j ∈ Finset.range 63, f (127 - j) := by
    rw [Finset.sum_range_succ', add_comm, ← Finset.sum_range_reflect (fun j => f (127 - j))]
    refine congrArg (f 64 + ·) (Finset.sum_congr rfl fun j hj => congrArg f ?_)
    have := Finset.mem_range.mp hj
    omega
  rw [show 128 = 64 + 64 from rfl, Finset.sum_range_add, hlow, hhigh, Finset.sum_add_distrib, add_add_add_comm]

section
variable (a : Cyc)

/-- The coefficient of the cosine of entry `j + 1` in the real part. -/
def pairAt (j : Nat) : Rat := a.getD (j + 1) 0 - a.getD (127 - j) 0

/-- The real part up to the cosine of entry `j`. -/
noncomputable def realUpTo (j : Nat) : ℝ := (a.getD 0 0 : ℝ) + ∑ i ∈ Finset.range j, (pairAt a i : ℝ) * cosAt (i + 1)

/-- The magnitudes of the coefficients up to entry `j`. -/
def pairsUpTo (j : Nat) : Rat := ∑ i ∈ Finset.range j, |pairAt a i|

variable {a}

theorem cycVal_re (h : a.length = 128) : (cycVal a).re = realUpTo a 63 := by
  have hre : ∀ i, ((a.getD i 0 : ℂ) * zeta ^ i).re = (a.getD i 0 : ℝ) * cosAt i := fun i => by
    rw [show ((a.getD i 0 : ℚ) : ℂ) = (((a.getD i 0 : ℚ) : ℝ) : ℂ) by push_cast; rfl, Complex.re_ofReal_mul, zeta_pow_re]
    rfl
  rw [cycVal_eq_sum, h, Complex.re_sum]
  simp only [hre]
  rw [sum_mirrored, cosAt_64, cosAt_zero, mul_zero, mul_one, add_zero]
  unfold realUpTo
  congr 1
  refine Finset.sum_congr rfl fun j hj => ?_
  have hj' := Finset.mem_range.mp hj
  rw [show 127 - j = 128 - (j + 1) by omega, cosAt_reflect (by omega), pairAt, show 127 - j = 128 - (j + 1) by omega]
  push_cast
  ring

theorem pairsUpTo_le (h : a.length = 128) : pairsUpTo a 63 ≤ cycNorm a := by
  rw [cycNorm_eq_sum, h, sum_mirrored]
  have hterms : pairsUpTo a 63 ≤ ∑ j ∈ Finset.range 63, (|a.getD (j + 1) 0| + |a.getD (127 - j) 0|) :=
    Finset.sum_le_sum fun j _ => abs_sub _ _
  have h0 := abs_nonneg (a.getD 0 0)
  have h64 := abs_nonneg (a.getD 64 0)
  linarith

/-- A multiple of a table entry, or of one more, is near the multiple of the cosine. -/
theorem entry_close (x : Rat) {j : Nat} (h : j ≤ 64) {t : Nat} (ht : t = cosEntry j ∨ t = cosEntry j + 1) :
    |((x * t / 2 ^ 128 : Rat) : ℝ) - x * cosAt j| ≤ |(x : ℝ)| * 2 ^ 11 / 2 ^ 128 := by
  have hclose := cosEntry_close h
  have hnear : |2 ^ 128 * cosAt j - t| ≤ (2 ^ 11 : ℝ) := by
    rw [abs_le] at hclose ⊢
    rcases ht with rfl | rfl
    · constructor <;> linarith
    · push_cast
      constructor <;> linarith
  have hfactor : ((x * t / 2 ^ 128 : Rat) : ℝ) - x * cosAt j = -(x / 2 ^ 128) * (2 ^ 128 * cosAt j - t) := by
    push_cast
    ring
  rw [hfactor, abs_mul, abs_neg, abs_div, abs_of_pos (by positivity : (0 : ℝ) < 2 ^ 128)]
  calc |(x : ℝ)| / 2 ^ 128 * |2 ^ 128 * cosAt j - t| ≤ |(x : ℝ)| / 2 ^ 128 * 2 ^ 11 := by gcongr
    _ = |(x : ℝ)| * 2 ^ 11 / 2 ^ 128 := by ring

theorem min_or_max_close {x y c e : ℝ} (hx : |x - c| ≤ e) (hy : |y - c| ≤ e) : |min x y - c| ≤ e ∧ |max x y - c| ≤ e := by
  constructor
  · rcases min_choice x y with h | h <;> rwa [h]
  · rcases max_choice x y with h | h <;> rwa [h]

/-- What the bounds of a number are worth: they lie in order, each near the real part. -/
structure RealClose (b : Rat × Rat) (v e : ℝ) : Prop where
  ordered : b.1 ≤ b.2
  below : |(b.1 : ℝ) - v| ≤ e
  above : |(b.2 : ℝ) - v| ≤ e

theorem realFrom_close (a : Cyc) (j : Nat) (h : j ≤ 63) :
    RealClose (realFrom a j) (realUpTo a j) ((pairsUpTo a j : ℝ) * 2 ^ 11 / 2 ^ 128) := by
  induction j with
  | zero => exact ⟨le_rfl, by simp [realFrom, realUpTo, pairsUpTo], by simp [realFrom, realUpTo, pairsUpTo]⟩
  | succ j ih =>
    obtain ⟨hordered, hbelow, habove⟩ := ih (by omega)
    set x := pairAt a j with hx
    set lo : Rat := x * (cosEntry (j + 1) : Nat) / 2 ^ 128 with hlo
    set hi : Rat := x * (cosEntry (j + 1) + 1 : Nat) / 2 ^ 128 with hhi
    have hfrom : realFrom a (j + 1) = ((realFrom a j).1 + min lo hi, (realFrom a j).2 + max lo hi) := rfl
    have hreal : realUpTo a (j + 1) = realUpTo a j + x * cosAt (j + 1) := by
      rw [realUpTo, Finset.sum_range_succ, ← add_assoc]
      rfl
    have hpairs : (pairsUpTo a (j + 1) : ℝ) = pairsUpTo a j + |(x : ℝ)| := by
      have hsucc : pairsUpTo a (j + 1) = pairsUpTo a j + |x| := Finset.sum_range_succ _ _
      rw [hsucc]
      push_cast
      rfl
    obtain ⟨hmin, hmax⟩ := min_or_max_close (entry_close x (j := j + 1) (by omega) (.inl rfl))
      (entry_close x (j := j + 1) (by omega) (.inr rfl))
    have hsum : (pairsUpTo a (j + 1) : ℝ) * 2 ^ 11 / 2 ^ 128 =
        (pairsUpTo a j : ℝ) * 2 ^ 11 / 2 ^ 128 + |(x : ℝ)| * 2 ^ 11 / 2 ^ 128 := by
      rw [hpairs]
      ring
    rw [hfrom, hreal, hsum]
    refine ⟨add_le_add hordered min_le_max, ?_, ?_⟩
    · rw [Rat.cast_add, Rat.cast_min, add_sub_add_comm]
      exact (abs_add_le _ _).trans (add_le_add hbelow hmin)
    · rw [Rat.cast_add, Rat.cast_max, add_sub_add_comm]
      exact (abs_add_le _ _).trans (add_le_add habove hmax)

/-- The bounds on the real part are within 2^-117 of it for each unit of magnitude. -/
theorem realBounds_close (h : a.length = 128) : RealClose (realBounds a) (cycVal a).re ((cycNorm a : ℝ) * 2 ^ 11 / 2 ^ 128) := by
  obtain ⟨hordered, hbelow, habove⟩ := realFrom_close a 63 le_rfl
  have hwidth : (pairsUpTo a 63 : ℝ) * 2 ^ 11 / 2 ^ 128 ≤ (cycNorm a : ℝ) * 2 ^ 11 / 2 ^ 128 := by
    have : (pairsUpTo a 63 : ℝ) ≤ cycNorm a := by exact_mod_cast pairsUpTo_le h
    gcongr
  rw [cycVal_re h]
  exact ⟨hordered, hbelow.trans hwidth, habove.trans hwidth⟩

theorem zeta_pow_64 : zeta ^ 64 = Complex.I := by
  rw [zeta_pow, show (2 * (Real.pi : ℂ) * (64 : ℕ) / 256 * Complex.I) = Real.pi / 2 * Complex.I by push_cast; ring,
    Complex.exp_pi_div_two_mul_I]

theorem zeta_pow_192 : zeta ^ 192 = -Complex.I := by
  rw [show 192 = 128 + 64 from rfl, pow_add, zeta_pow_128, zeta_pow_64]
  ring

theorem imagBounds_close (h : a.length = 128) : RealClose (imagBounds a) (cycVal a).im ((cycNorm a : ℝ) * 2 ^ 11 / 2 ^ 128) := by
  have hclose := realBounds_close (length_cycTurn 192 h)
  rw [cycVal_turn h, cycNorm_turn, zeta_pow_192] at hclose
  simpa [imagBounds] using hclose

end

/-! ### The transform (R18) -/

theorem cycVal_cycZero : cycVal cycZero = 0 := cycVal_zeros 128

theorem cycNorm_cycZero : cycNorm cycZero = 0 := cycNorm_zeros 128

theorem transformBin_spec (samples : List Int) (k : Nat) :
    cycVal (transformBin samples k) = ∑ i ∈ Finset.range samples.length,
      ((samples.getD i 0 : ℤ) : ℂ) * Complex.exp (-(2 * Real.pi * (k * i) / 256) * Complex.I) ∧
    (transformBin samples k).length = 128 ∧
    cycNorm (transformBin samples k) ≤ ∑ i ∈ Finset.range samples.length, |((samples.getD i 0 : ℤ) : Rat)| := by
  obtain ⟨hval, hlen, hnorm⟩ := cycVal_foldl_add (fun xn : Int × Nat => cycMono (256 - k * xn.2 % 256) (xn.1 : Rat)) samples.zipIdx
    (fun x _ => length_cycMono _ _) cycZero length_cycZero
  refine ⟨?_, hlen, ?_⟩
  · rw [transformBin, hval, cycVal_cycZero, zero_add, sum_map_zipIdx samples 0]
    refine Finset.sum_congr rfl fun i _ => ?_
    rw [cycVal_mono, zeta_pow_back]
    push_cast
    ring
  · refine hnorm.trans ?_
    rw [cycNorm_cycZero, zero_add, sum_map_zipIdx samples 0]
    simp only [cycNorm_mono]
    exact le_rfl

/-- The transform of a block of samples. -/
theorem transformBin_norm {n : Nat} {samples : List Int} (h : SampleBlock n samples) (k : Nat) :
    cycNorm (transformBin samples k) ≤ n * 2 ^ 23 := by
  obtain ⟨hlen, hrange⟩ := h
  refine (transformBin_spec samples k).2.2.trans ?_
  rw [hlen]
  refine (Finset.sum_le_card_nsmul _ _ (2 ^ 23) fun i hi => ?_).trans ?_
  · have hi' : i < samples.length := by simpa [hlen] using hi
    have hx := hrange _ (List.getElem_mem hi')
    rw [List.getD_eq_getElem _ _ hi', ← Int.cast_abs]
    have : |samples[i]| ≤ 2 ^ 23 := abs_le.mpr (by constructor <;> omega)
    exact_mod_cast this
  · simp

/-! ### The inverse transform (R40) -/

/-- A bin's term of the inverse transform with that of its mirror. -/
def inverseTerm (t : Nat) (yk : Cyc × Nat) : Cyc :=
  if yk.2 = 0 ∨ yk.2 = 128 then cycTurn (yk.2 * t) yk.1
  else cycAdd (cycTurn (yk.2 * t) yk.1) (cycConj (cycTurn (yk.2 * t) yk.1))

theorem inverseAt_eq (spectrum : List Cyc) (t : Nat) :
    inverseAt spectrum t = cycScale (1 / 256) (spectrum.zipIdx.foldl (fun acc yk => cycAdd acc (inverseTerm t yk)) cycZero) := by
  unfold inverseAt
  congr 2
  funext acc yk
  unfold inverseTerm
  dsimp only
  split <;> rfl

section
variable {t : Nat} {y : Cyc} {k : Nat}

theorem length_inverseTerm (h : y.length = 128) : (inverseTerm t (y, k)).length = 128 := by
  unfold inverseTerm
  split
  · exact length_cycTurn _ h
  · exact length_cycAdd (length_cycTurn _ h) (length_cycConj (length_cycTurn _ h))

theorem cycVal_inverseTerm (h : y.length = 128) :
    cycVal (inverseTerm t (y, k)) = zeta ^ (k * t) * cycVal y +
      if k = 0 ∨ k = 128 then 0 else conj (zeta ^ (k * t) * cycVal y) := by
  unfold inverseTerm
  split
  · rw [cycVal_turn h, add_zero]
  · have hlen := length_cycTurn (k * t) h
    rw [cycVal_add (hlen.trans (length_cycConj hlen).symm), cycVal_conj hlen, cycVal_turn h]

theorem cycNorm_inverseTerm : cycNorm (inverseTerm t (y, k)) ≤ 2 * cycNorm y := by
  have := cycNorm_nonneg y
  unfold inverseTerm
  split
  · rw [cycNorm_turn]
    linarith
  · refine (cycNorm_add _ _).trans ?_
    rw [cycNorm_conj, cycNorm_turn]
    linarith

end

/-- The bins 129..255 mirrored: the sum over 256 bins by the bins 0..128. -/
theorem sum_bins_mirrored (b : ℕ → ℂ) (t : Nat) :
    ∑ k ∈ Finset.range 256, (if k ≤ 128 then b k else conj (b (256 - k))) * zeta ^ (k * t) =
      ∑ k ∈ Finset.range 129, (zeta ^ (k * t) * b k + if k = 0 ∨ k = 128 then 0 else conj (zeta ^ (k * t) * b k)) := by
  have hconj : ∀ k ≤ 256, conj (zeta ^ (k * t)) = zeta ^ ((256 - k) * t) := fun k hk => by
    have hone : zeta ^ (k * t) * zeta ^ ((256 - k) * t) = 1 := by
      rw [← pow_add, ← add_mul, Nat.add_sub_cancel' hk, pow_mul, zeta_pow_256, one_pow]
    have hmul : zeta ^ (k * t) * conj (zeta ^ (k * t)) = 1 := by
      rw [map_pow, ← mul_pow, conj_zeta_mul, one_pow]
    exact mul_left_cancel₀ (pow_ne_zero _ zeta_ne_zero) (hmul.trans hone.symm)
  have hhigh : ∑ k ∈ Finset.range 127, (if 129 + k ≤ 128 then b (129 + k) else conj (b (256 - (129 + k)))) * zeta ^ ((129 + k) * t) =
      ∑ k ∈ Finset.range 127, conj (zeta ^ ((k + 1) * t) * b (k + 1)) := by
    rw [← Finset.sum_range_reflect]
    refine Finset.sum_congr rfl fun k hk => ?_
    have hk' := Finset.mem_range.mp hk
    rw [if_neg (by omega), map_mul, hconj (k + 1) (by omega), show 129 + (127 - 1 - k) = 256 - (k + 1) by omega,
      show 256 - (256 - (k + 1)) = k + 1 by omega]
    ring
  have hlow : ∑ k ∈ Finset.range 129, (if k ≤ 128 then b k else conj (b (256 - k))) * zeta ^ (k * t) =
      ∑ k ∈ Finset.range 129, zeta ^ (k * t) * b k := by
    refine Finset.sum_congr rfl fun k hk => ?_
    rw [if_pos (by have := Finset.mem_range.mp hk; omega), mul_comm]
  have hmirror : ∑ k ∈ Finset.range 129, (if k = 0 ∨ k = 128 then 0 else conj (zeta ^ (k * t) * b k)) =
      ∑ k ∈ Finset.range 127, conj (zeta ^ ((k + 1) * t) * b (k + 1)) := by
    rw [Finset.sum_range_succ, if_pos (.inr rfl), add_zero, Finset.sum_range_succ', if_pos (.inl rfl), add_zero]
    refine Finset.sum_congr rfl fun k hk => ?_
    rw [if_neg (by have := Finset.mem_range.mp hk; omega)]
  rw [show 256 = 129 + 127 from rfl, Finset.sum_range_add, hhigh, hlow, Finset.sum_add_distrib, hmirror]

/-- The inverse transform of the spectrum whose bins are `g`, and its magnitude. -/
theorem inverseAt_spec (g : Nat → Cyc) (hg : ∀ k < 129, (g k).length = 128) (t : Nat) :
    cycVal (inverseAt ((List.range 129).map g) t) = ∑ k ∈ Finset.range 256,
      (if k ≤ 128 then cycVal (g k) else conj (cycVal (g (256 - k)))) *
        Complex.exp ((2 * Real.pi * (k * t) / 256) * Complex.I) / 256 ∧
    (inverseAt ((List.range 129).map g) t).length = 128 ∧
    ∀ m, (∀ k < 129, cycNorm (g k) ≤ m) → cycNorm (inverseAt ((List.range 129).map g) t) ≤ 2 * m := by
  have hpos : ∀ yk ∈ ((List.range 129).map g).zipIdx, yk.1.length = 128 := fun yk hyk => by
    obtain ⟨k, hk, hyk'⟩ := List.mem_map.mp (List.fst_mem_of_mem_zipIdx hyk)
    rw [← hyk']
    exact hg k (List.mem_range.mp hk)
  obtain ⟨hval, hlen, hnorm⟩ := cycVal_foldl_add (inverseTerm t) ((List.range 129).map g).zipIdx
    (fun yk hyk => length_inverseTerm (k := yk.2) (hpos yk hyk)) cycZero length_cycZero
  have hcount : ((List.range 129).map g).length = 129 := by simp
  have hget : ∀ k < 129, ((List.range 129).map g).getD k cycZero = g k := fun k hk => by simp [hk]
  refine ⟨?_, ?_, fun m hm => ?_⟩
  · have hsum := sum_bins_mirrored (fun k => cycVal (g k)) t
    rw [inverseAt_eq, cycVal_scale, hval, cycVal_cycZero, zero_add, sum_map_zipIdx _ cycZero, hcount]
    have hterms : ∑ i ∈ Finset.range 129, cycVal (inverseTerm t (((List.range 129).map g).getD i cycZero, i)) =
        ∑ k ∈ Finset.range 129, (zeta ^ (k * t) * cycVal (g k) + if k = 0 ∨ k = 128 then 0 else conj (zeta ^ (k * t) * cycVal (g k))) := by
      refine Finset.sum_congr rfl fun k hk => ?_
      have hk' := Finset.mem_range.mp hk
      rw [hget k hk', cycVal_inverseTerm (hg k hk')]
    have hscale : ((1 / 256 : ℚ) : ℂ) = (256 : ℂ)⁻¹ := by norm_num
    rw [hterms, ← hsum, hscale, Finset.mul_sum]
    refine Finset.sum_congr rfl fun k _ => ?_
    rw [zeta_pow_mul, mul_comm, ← div_eq_mul_inv]
  · rw [inverseAt_eq]
    exact length_cycScale _ hlen
  · have hterms : (((List.range 129).map g).zipIdx.map fun yk => cycNorm (inverseTerm t yk)).sum ≤ 129 * (2 * m) := by
      rw [sum_map_zipIdx _ cycZero, hcount]
      refine (Finset.sum_le_card_nsmul _ _ (2 * m) fun k hk => ?_).trans (by simp)
      have hk' := Finset.mem_range.mp hk
      rw [hget k hk']
      exact cycNorm_inverseTerm.trans (by linarith [hm k hk'])
    have hm0 : 0 ≤ m := (cycNorm_nonneg _).trans (hm 0 (by omega))
    rw [inverseAt_eq, cycNorm_scale]
    rw [cycNorm_cycZero, zero_add] at hnorm
    have hbound := hnorm.trans hterms
    rw [abs_of_nonneg (by norm_num)]
    linarith

end Sys2Proof.Machine
end

section
/-! The reference power of stage 2 (R23): the bounds on a bin's power against the exact transform, and its step. -/

namespace Sys2Proof.Machine

open scoped ComplexConjugate

/-! ### Sums of bounds -/

theorem realClose_sum {α : Type} (g : α → Rat × Rat) (v : α → ℝ) (e : ℝ) (l : List α) (h : ∀ x ∈ l, RealClose (g x) (v x) e) :
    RealClose ((l.map fun x => (g x).1).sum, (l.map fun x => (g x).2).sum) (l.map v).sum (l.length * e) := by
  induction l with
  | nil => exact ⟨le_rfl, by simp, by simp⟩
  | cons x xs ih =>
    obtain ⟨hordered, hbelow, habove⟩ := h x List.mem_cons_self
    obtain ⟨hordered', hbelow', habove'⟩ := ih fun y hy => h y (List.mem_cons_of_mem _ hy)
    have herror : ((x :: xs).length : ℝ) * e = e + xs.length * e := by
      rw [List.length_cons]
      push_cast
      ring
    rw [herror]
    simp only [List.map_cons, List.sum_cons]
    refine ⟨add_le_add hordered hordered', ?_, ?_⟩
    · rw [Rat.cast_add, add_sub_add_comm]
      exact (abs_add_le _ _).trans (add_le_add hbelow hbelow')
    · rw [Rat.cast_add, add_sub_add_comm]
      exact (abs_add_le _ _).trans (add_le_add habove habove')

theorem RealClose.mono {b : Rat × Rat} {v e e' : ℝ} (h : RealClose b v e) (he : e ≤ e') : RealClose b v e' :=
  ⟨h.ordered, h.below.trans he, h.above.trans he⟩

/-! ### Spectra -/

/-- Bin `k` of a spectrum as a complex number. -/
noncomputable def spectrumVal (x : Spectrum) (k : Nat) : ℂ :=
  match x with
  | .zero => 0
  | .of window => cycVal (transformBin window k)

/-- The spectrum of a window is its transform, the window of zeros included (R18). -/
theorem spectrumVal_spectrumOf (samples : List Int) (k : Nat) :
    spectrumVal (spectrumOf samples) k = ∑ i ∈ Finset.range samples.length,
      ((samples.getD i 0 : ℤ) : ℂ) * Complex.exp (-(2 * Real.pi * (k * i) / 256) * Complex.I) := by
  unfold spectrumOf
  split
  · rename_i hzero
    refine (Finset.sum_eq_zero fun i hi => ?_).symm
    have hi' : i < samples.length := Finset.mem_range.mp hi
    have hx : samples[i] = 0 := by simpa using List.all_eq_true.mp hzero _ (List.getElem_mem hi')
    rw [List.getD_eq_getElem _ _ hi', hx, Int.cast_zero, zero_mul]
  · exact (transformBin_spec samples k).1

/-- A spectrum that is zero or that of 256 samples. -/
def Spectrum.Sound (x : Spectrum) : Prop := ∀ window, x = .of window → SampleBlock 256 window

theorem spectrumOf_sound {samples : List Int} (h : SampleBlock 256 samples) : (spectrumOf samples).Sound := by
  intro window hwindow
  unfold spectrumOf at hwindow
  split at hwindow
  · cases hwindow
  · cases hwindow
    exact h

theorem binPower_close {x : Spectrum} (h : x.Sound) (k : Nat) :
    RealClose (binPower x k) (Complex.normSq (spectrumVal x k)) (1 / 2 ^ 55) := by
  cases x with
  | zero =>
    have hzero : Complex.normSq (spectrumVal .zero k) = 0 := Complex.normSq_zero
    rw [hzero]
    exact ⟨le_rfl, by simp [binPower], by simp [binPower]⟩
  | of window =>
    obtain ⟨-, hlen, -⟩ := transformBin_spec window k
    have hnorm : cycNorm (transformBin window k) ≤ 2 ^ 31 := (transformBin_norm (h window rfl) k).trans_eq (by norm_num)
    set bin := transformBin window k with hbin
    have hclose := realBounds_close (length_cycMul (cycConj bin) hlen)
    have hval : (cycVal (cycMul (cycConj bin) bin)).re = Complex.normSq (cycVal bin) := by
      rw [cycVal_mul _ hlen, cycVal_conj hlen, ← Complex.normSq_eq_conj_mul_self, Complex.ofReal_re]
    have hsize : cycNorm (cycMul (cycConj bin) bin) ≤ 2 ^ 62 := by
      refine (cycNorm_mul _ _).trans ?_
      rw [cycNorm_conj]
      have h0 := cycNorm_nonneg bin
      calc cycNorm bin * cycNorm bin ≤ 2 ^ 31 * 2 ^ 31 := by gcongr
        _ = 2 ^ 62 := by norm_num
    rw [hval] at hclose
    refine hclose.mono ?_
    have hsize' : (cycNorm (cycMul (cycConj bin) bin) : ℝ) ≤ 2 ^ 62 := by exact_mod_cast hsize
    calc (cycNorm (cycMul (cycConj bin) bin) : ℝ) * 2 ^ 11 / 2 ^ 128 ≤ 2 ^ 62 * 2 ^ 11 / 2 ^ 128 := by gcongr
      _ = 1 / 2 ^ 55 := by norm_num

/-! ### One step of the power -/

/-- A step of the power is within a relative 2^-24 of the exact one, but for the error of the bounds (R23). -/
theorem powerStep_close {pw : Rat} {p : Rat × Rat} {v e : ℝ} (choice : Rat) (hpw : 0 ≤ pw) (hv : 0 ≤ v) (he : 0 ≤ e)
    (h : RealClose p v e) :
    |((powerStep pw p choice : Rat) : ℝ) - ((pw : ℝ) + (v - pw) / 16)| ≤ ((pw : ℝ) + (v - pw) / 16) / 2 ^ 24 + e := by
  obtain ⟨hordered, hbelow, habove⟩ := h
  rw [abs_le] at hbelow habove
  obtain ⟨hbelow1, hbelow2⟩ := hbelow
  obtain ⟨habove1, habove2⟩ := habove
  have hpw' : (0 : ℝ) ≤ pw := by exact_mod_cast hpw
  set lo : Rat := max 0 ((pw + (p.1 - pw) / 16) * (1 - 1 / 2 ^ 24)) with hlo
  set hi : Rat := max 0 ((pw + (p.2 - pw) / 16) * (1 + 1 / 2 ^ 24)) with hhi
  have hle : lo ≤ hi := by
    refine max_le (le_max_left _ _) ?_
    rcases le_or_gt (pw + (p.1 - pw) / 16) 0 with hneg | hpos
    · exact (mul_nonpos_of_nonpos_of_nonneg hneg (by norm_num)).trans (le_max_left _ _)
    · refine le_trans ?_ (le_max_right _ _)
      have hstep : pw + (p.1 - pw) / 16 ≤ pw + (p.2 - pw) / 16 := by linarith
      exact mul_le_mul hstep (by norm_num) (by norm_num) (hpos.le.trans hstep)
  obtain ⟨hge, hlt⟩ := pickRat_mem choice hle
  have hge' : (lo : ℝ) ≤ (powerStep pw p choice : Rat) := by exact_mod_cast hge
  have hlt' : ((powerStep pw p choice : Rat) : ℝ) ≤ hi := by exact_mod_cast hlt
  have hlo' : ((pw : ℝ) + (p.1 - pw) / 16) * (1 - 1 / 2 ^ 24) ≤ lo := by
    have : (pw + (p.1 - pw) / 16) * (1 - 1 / 2 ^ 24) ≤ lo := le_max_right _ _
    have hcast := (Rat.cast_le (K := ℝ)).mpr this
    push_cast at hcast
    exact hcast
  have hhi' : (hi : ℝ) ≤ ((pw : ℝ) + (v - pw) / 16) * (1 + 1 / 2 ^ 24) + e := by
    rw [hhi, Rat.cast_max]
    refine max_le ?_ ?_
    · rw [Rat.cast_zero]
      have : 0 ≤ (pw : ℝ) + (v - pw) / 16 := by linarith
      positivity
    · push_cast
      nlinarith
  rw [abs_le]
  constructor
  · nlinarith
  · linarith

/-! ### The power of the newest spectra -/

theorem newPower_close {spectra : List Spectrum} (h : ∀ x ∈ spectra, x.Sound) (k : Nat) :
    RealClose (newPower spectra k) (spectra.map fun x => Complex.normSq (spectrumVal x k)).sum (spectra.length * (1 / 2 ^ 55)) :=
  realClose_sum (fun x => binPower x k) (fun x => Complex.normSq (spectrumVal x k)) _ spectra fun x hx => binPower_close (h x hx) k

/-! ### The spectra of a processed frame -/

section
variable {s : State} {f : Flight}

/-- The clamped samples of reference `r`'s block of the frame (R1). -/
theorem newBlocks_getD {r : Nat} (hr : r < s.geo.refs) : (s.newBlocks f).getD r [] =
    (List.range 128).map fun i => max (-8388608) (min 8388607 (memWord s.mem (s.geo.refBlock f.count r + 4 * i)).toInt) := by
  have hlen : r < (s.newBlocks f).length := by simpa [State.newBlocks] using hr
  rw [List.getD_eq_getElem _ _ hlen]
  simp only [State.newBlocks, List.getElem_map, List.getElem_range]
  exact samples_of_block _ _

theorem newBlocks_sampleBlock {r : Nat} (hr : r < s.geo.refs) : SampleBlock 128 ((s.newBlocks f).getD r []) := by
  have hlen : r < (s.newBlocks f).length := by simpa [State.newBlocks] using hr
  rw [List.getD_eq_getElem _ _ hlen]
  simp only [State.newBlocks, List.getElem_map, List.getElem_range]
  exact sampleBlock_sampleOf (memWords_length _ _ _)

/-- The last block of a reference in use as the header's gap push leaves it (R20). -/
theorem gapMade_last {r : Nat} (hr : r < s.geo.refs) (hrefs : s.geo.refs ≤ 4) :
    ((s.gapMade f).last[r]?).getD zeroBlock =
      if min f.gap 64 = 0 then (s.history.last[r]?).getD [] else List.replicate 128 0 := by
  have hr4 : r < 4 := hr.trans_le hrefs
  unfold State.gapMade History.gapPush
  split
  · simp [hr4]
  · simp [hr4, hr, zeroBlock, Config.blockLength]

/-- The sum over the newest spectra, reference by reference. -/
theorem sum_newSpectra {M : Type} [AddCommMonoid M] (h : History) (blocks : List (List Int)) (g : Spectrum → M) :
    ((newSpectra h blocks).map g).sum =
      ∑ r ∈ Finset.range blocks.length, g (spectrumOf ((h.last[r]?).getD zeroBlock ++ blocks.getD r [])) := by
  rw [newSpectra, List.map_map]
  exact sum_map_zipIdx blocks [] _

theorem SampleBlock.append {n m : Nat} {a b : List Int} (ha : SampleBlock n a) (hb : SampleBlock m b) : SampleBlock (n + m) (a ++ b) := by
  obtain ⟨ha, ha'⟩ := ha
  obtain ⟨hb, hb'⟩ := hb
  refine ⟨by rw [List.length_append, ha, hb], fun v hv => ?_⟩
  rcases List.mem_append.mp hv with hv | hv
  · exact ha' v hv
  · exact hb' v hv

/-- The window of a reference is 256 samples (R18). -/
theorem window_sampleBlock (hlast : ∀ r : Fin 4, SampleBlock 128 s.history.last[r]) (hrefs : s.geo.refs ≤ 4) {r : Nat}
    (hr : r < s.geo.refs) : SampleBlock 256 (((s.gapMade f).last[r]?).getD zeroBlock ++ (s.newBlocks f).getD r []) := by
  refine SampleBlock.append (n := 128) (m := 128) ?_ (newBlocks_sampleBlock hr)
  have hr4 : r < 4 := hr.trans_le hrefs
  rw [gapMade_last hr hrefs]
  split
  · have := hlast ⟨r, hr4⟩
    simpa [hr4] using this
  · exact zeroBlock_sampled

theorem newSpectra_sound (hlast : ∀ r : Fin 4, SampleBlock 128 s.history.last[r]) (hrefs : s.geo.refs ≤ 4) :
    ∀ x ∈ newSpectra (s.gapMade f) (s.newBlocks f), x.Sound := by
  intro x hx
  obtain ⟨⟨block, r⟩, hbr, rfl⟩ := List.mem_map.mp hx
  have hlen : (s.newBlocks f).length = s.geo.refs := by simp [State.newBlocks]
  obtain ⟨hr, hblock⟩ := List.mem_zipIdx' hbr
  have hwindow := window_sampleBlock (f := f) hlast hrefs (hlen ▸ hr)
  rw [List.getD_eq_getElem _ _ hr, ← hblock] at hwindow
  exact spectrumOf_sound hwindow

end

end Sys2Proof.Machine

namespace Sys2Proof
open Sys2Proof.Machine

/-- Settles O42: the step of each bin's power against the power of the exact transforms. -/
theorem referencePowerStepped : Obligations.ReferencePowerStepped := by
  unfold Obligations.ReferencePowerStepped
  intro s f h hrefs hlen hnonneg hlast k sample block before bin power
  have hcount : (s.newBlocks f).length = s.geo.refs := by simp [State.newBlocks]
  have hgapLen : (s.gapMade f).power.length = 129 := by
    unfold State.gapMade History.gapPush
    split
    · exact hlen
    · exact (powerDecay_length _ _ _).trans hlen
  have hpower : (s.afterPush f).history.power =
      powerSteps (s.free + k) (s.gapMade f).power (newSpectra (s.gapMade f) (s.newBlocks f)) := processed_power
  have hgap : ∀ b < 129, s.history.power.getD b 0 * (15 / 16 * (1 - 1 / 2 ^ 24)) ^ k ≤ (s.gapMade f).power.getD b 0 ∧
      (s.gapMade f).power.getD b 0 ≤ s.history.power.getD b 0 * (15 / 16 * (1 + 1 / 2 ^ 24)) ^ k := fun b hb => by
    unfold State.gapMade History.gapPush
    split
    · rename_i hk
      have hk' : k = 0 := hk
      simp [hk']
    · exact powerDecay_bounds _ _ _ _ (hnonneg b hb)
  refine ⟨s.afterPush f, fun b => (s.gapMade f).power.getD b 0, step_push h, ?_, fun b hb => ?_⟩
  · rw [hpower]
    simpa [powerSteps] using hgapLen
  · obtain ⟨hlo, hhi⟩ := hgap b hb
    have hmid : 0 ≤ (s.gapMade f).power.getD b 0 :=
      (mul_nonneg (hnonneg b hb) (by positivity)).trans hlo
    have hexact : ((newSpectra (s.gapMade f) (s.newBlocks f)).map fun x => Complex.normSq (spectrumVal x b)).sum = power b := by
      rw [sum_newSpectra, hcount]
      refine Finset.sum_congr rfl fun r hr => congrArg Complex.normSq ?_
      have hr' := Finset.mem_range.mp hr
      have hwindow := (window_sampleBlock (f := f) hlast hrefs hr').1
      rw [spectrumVal_spectrumOf, hwindow, gapMade_last hr' hrefs, newBlocks_getD hr']
    have hclose := newPower_close (newSpectra_sound (f := f) hlast hrefs) b
    rw [hexact, newSpectra_length, hcount] at hclose
    have hpos : 0 ≤ power b := Finset.sum_nonneg fun r _ => Complex.normSq_nonneg _
    have herror : (s.geo.refs : ℝ) * (1 / 2 ^ 55) ≤ 1 / 2 ^ 30 := by
      have : (s.geo.refs : ℝ) ≤ 4 := by exact_mod_cast hrefs
      calc (s.geo.refs : ℝ) * (1 / 2 ^ 55) ≤ 4 * (1 / 2 ^ 55) := by gcongr
        _ ≤ 1 / 2 ^ 30 := by norm_num
    rw [hpower, powerSteps_getD _ _ _ _ (by omega)]
    exact ⟨hlo, hhi, powerStep_nonneg _ _ _, powerStep_close _ hmid hpos (by positivity) (hclose.mono herror)⟩

end Sys2Proof
end

section
/-! The echo estimate of stage 3 (R39 to R41): its bins and samples against the exact inverse transform. -/

namespace Sys2Proof.Machine

open scoped ComplexConjugate

/-! ### A free integer within bounds -/

theorem pickInt_mem {lo hi : Int} (choice : Int) (h : lo ≤ hi) : lo ≤ pickInt lo hi choice ∧ pickInt lo hi choice ≤ hi := by
  unfold pickInt clamp
  split_ifs <;> omega

/-- An integer between the bounds of a value is within 1 of it, but for the error of the bounds. -/
theorem pickInt_close {b : Rat × Rat} {v e : ℝ} (h : RealClose b v e) (choice : Int) :
    |((pickInt b.1.floor b.2.ceil choice : ℤ) : ℝ) - v| < 1 + e := by
  obtain ⟨hordered, hbelow, habove⟩ := h
  have hle : b.1.floor ≤ b.2.ceil := by
    have : ((b.1.floor : ℤ) : ℚ) ≤ b.2.ceil := ((Rat.floor_le _).trans hordered).trans Rat.le_ceil
    exact_mod_cast this
  obtain ⟨hlo, hhi⟩ := pickInt_mem choice hle
  have hlo' : (b.1 : ℝ) - 1 < b.1.floor := by
    have := (Rat.cast_lt (K := ℝ)).mpr (Rat.lt_floor (x := b.1))
    push_cast at this
    exact this
  have hhi' : ((b.2.ceil : ℤ) : ℝ) < b.2 + 1 := by
    have := (Rat.cast_lt (K := ℝ)).mpr (Rat.ceil_lt (x := b.2))
    push_cast at this
    exact this
  have hpick : ((b.1.floor : ℤ) : ℝ) ≤ pickInt b.1.floor b.2.ceil choice := by exact_mod_cast hlo
  have hpick' : ((pickInt b.1.floor b.2.ceil choice : ℤ) : ℝ) ≤ b.2.ceil := by exact_mod_cast hhi
  rw [abs_le] at hbelow habove
  obtain ⟨hbelow, -⟩ := hbelow
  obtain ⟨-, habove⟩ := habove
  rw [abs_lt]
  constructor <;> linarith

/-! ### Coefficients (R38) -/

/-- The complex number that coefficient `k` of a slot stands for. -/
noncomputable def coefVal (parts : List Word) (k : Nat) : ℂ :=
  ((partOf parts (2 * k)).toInt : ℂ) / 2 ^ 24 + ((partOf parts (2 * k + 1)).toInt : ℂ) / 2 ^ 24 * Complex.I

theorem length_coefficient (re im : Word) : (coefficient re im).length = 128 :=
  length_cycAdd (length_cycMono _ _) (length_cycMono _ _)

theorem cycVal_coefficientAt (parts : List Word) (k : Nat) : cycVal (coefficientAt parts k) = coefVal parts k := by
  rw [coefficientAt, coefficient, cycVal_add ((length_cycMono _ _).trans (length_cycMono _ _).symm), cycVal_mono, cycVal_mono,
    pow_zero, one_mul, zeta_pow_64, mul_comm Complex.I, coefVal]
  push_cast
  rfl

theorem cycNorm_coefficientAt (parts : List Word) (k : Nat) : cycNorm (coefficientAt parts k) ≤ 2 ^ 8 := by
  have hpart : ∀ w : Word, |(w.toInt / 2 ^ 24 : Rat)| ≤ 2 ^ 7 := fun w => by
    have hlt := BitVec.toInt_lt (x := w)
    have hle := BitVec.le_toInt (x := w)
    have habs : |w.toInt| ≤ 2 ^ 31 := abs_le.mpr (by constructor <;> omega)
    have habs' : |(w.toInt : Rat)| ≤ 2 ^ 31 := by exact_mod_cast habs
    rw [abs_div, abs_of_pos (by positivity : (0 : Rat) < 2 ^ 24), div_le_iff₀ (by positivity)]
    exact habs'.trans (by norm_num)
  refine (cycNorm_add _ _).trans ?_
  rw [cycNorm_mono, cycNorm_mono]
  linarith [hpart (partOf parts (2 * k)), hpart (partOf parts (2 * k + 1))]

theorem coefVal_zeroParts {parts : List Word} (h : zeroParts parts = true) (k : Nat) : coefVal parts k = 0 := by
  have hpart : ∀ i, (partOf parts i).toInt = 0 := fun i => by
    have hzero : partOf parts i = 0#32 := by
      unfold partOf
      by_cases hi : i < parts.length
      · rw [List.getD_eq_getElem _ _ hi]
        simpa using List.all_eq_true.mp h _ (List.getElem_mem hi)
      · exact List.getD_eq_default _ _ (by omega)
    rw [hzero]
    rfl
  simp [coefVal, hpart]

/-! ### The bins of the estimate (R39) -/

/-- A sum over the terms of a list that are made. -/
theorem sum_map_filterMap {α β M : Type} [AddCommMonoid M] (g : α → Option β) (f : β → M) (l : List α) :
    ((l.filterMap g).map f).sum = (l.map fun x => (g x).elim 0 f).sum := by
  induction l with
  | nil => rfl
  | cons x xs ih =>
    rw [List.map_cons, List.sum_cons, ← ih]
    cases hx : g x with
    | none => simp [hx]
    | some y => simp [hx]

/-- A spectrum of the history is zero or that of 256 samples. -/
theorem paired_sound {h : History} (hs : h.Sampled) (refs j : Nat) : (h.paired refs j).Sound := by
  intro window hwindow
  unfold History.paired at hwindow
  by_cases hr : j % refs < 4
  · have hring : h.rings[j % refs]? = some h.rings[(⟨j % refs, hr⟩ : Fin 4)] := by simp [hr]
    rw [hring, Option.getD_some] at hwindow
    by_cases hd : j / refs < h.rings[(⟨j % refs, hr⟩ : Fin 4)].length
    · rw [List.getD_eq_getElem _ _ hd] at hwindow
      exact hs ⟨j % refs, hr⟩ window (hwindow ▸ List.getElem_mem hd)
    · rw [List.getD_eq_default _ _ (by omega)] at hwindow
      cases hwindow
  · simp [hr] at hwindow

section
variable {h : History} {refs : Nat} {reads : List (List Word)}

/-- The term of a zero factor is zero, made or not. -/
theorem termOf_val (x : Spectrum) (parts : List Word) (k : Nat) :
    ((termOf x parts).elim 0 fun t => cycVal (cycMul (coefficientAt t.2 k) (transformBin t.1 k))) = spectrumVal x k * coefVal parts k := by
  cases x with
  | zero => simp [termOf, spectrumVal]
  | of window =>
    by_cases hzero : zeroParts parts = true
    · simp [termOf, hzero, coefVal_zeroParts hzero]
    · rw [termOf, if_neg hzero, Option.elim_some, cycVal_mul _ (transformBin_spec window k).2.1, cycVal_coefficientAt, mul_comm]
      rfl

/-- What is known of the bins of the estimate spectrum. -/
theorem estimateBin_spec (hs : h.Sampled) (hlen : reads.length ≤ 256) (k : Nat) :
    cycVal (estimateBin (estimateTerms h refs reads) k) =
      ∑ j ∈ Finset.range reads.length, spectrumVal (h.paired refs j) k * coefVal (reads.getD j []) k ∧
    (estimateBin (estimateTerms h refs reads) k).length = 128 ∧
    cycNorm (estimateBin (estimateTerms h refs reads) k) ≤ 2 ^ 47 := by
  obtain ⟨hval, hlength, hnorm⟩ := cycVal_foldl_add (fun t : Term => cycMul (coefficientAt t.2 k) (transformBin t.1 k))
    (estimateTerms h refs reads) (fun t _ => length_cycMul _ (transformBin_spec t.1 k).2.1) cycZero length_cycZero
  refine ⟨?_, hlength, hnorm.trans ?_⟩
  · rw [estimateBin, hval, cycVal_cycZero, zero_add, estimateTerms, sum_map_filterMap, sum_map_zipIdx _ []]
    exact Finset.sum_congr rfl fun j _ => termOf_val _ _ _
  · have hterm : ∀ t ∈ estimateTerms h refs reads, cycNorm (cycMul (coefficientAt t.2 k) (transformBin t.1 k)) ≤ 2 ^ 39 := by
      intro t ht
      obtain ⟨⟨parts, j⟩, -, hterm⟩ := List.mem_filterMap.mp ht
      have hwindow : SampleBlock 256 t.1 := by
        have hsound := paired_sound hs refs j
        cases hx : h.paired refs j with
        | zero => simp [termOf, hx] at hterm
        | of window =>
          simp only [termOf, hx] at hterm
          split at hterm
          · cases hterm
          · cases hterm
            exact hsound window hx
      calc cycNorm (cycMul (coefficientAt t.2 k) (transformBin t.1 k))
          ≤ cycNorm (coefficientAt t.2 k) * cycNorm (transformBin t.1 k) := cycNorm_mul _ _
        _ ≤ 2 ^ 8 * (256 * 2 ^ 23) :=
            mul_le_mul (cycNorm_coefficientAt _ _) (transformBin_norm hwindow k) (cycNorm_nonneg _) (by positivity)
        _ = 2 ^ 39 := by norm_num
    have hcount : (estimateTerms h refs reads).length ≤ 256 := by
      refine (List.length_filterMap_le _ _).trans ?_
      rwa [List.length_zipIdx]
    rw [cycNorm_cycZero, zero_add]
    calc ((estimateTerms h refs reads).map fun t => cycNorm (cycMul (coefficientAt t.2 k) (transformBin t.1 k))).sum
        ≤ ((estimateTerms h refs reads).map fun t => cycNorm (cycMul (coefficientAt t.2 k) (transformBin t.1 k))).length • 2 ^ 39 := by
          refine List.sum_le_card_nsmul _ _ fun y hy => ?_
          obtain ⟨t, ht, rfl⟩ := List.mem_map.mp hy
          exact hterm t ht
      _ ≤ 2 ^ 47 := by
          rw [List.length_map, nsmul_eq_mul]
          have : ((estimateTerms h refs reads).length : Rat) ≤ 256 := by exact_mod_cast hcount
          linarith

/-- No slot makes a term when each has a zero factor (R39). -/
theorem estimateTerms_eq_nil (hzero : ∀ j < reads.length, h.paired refs j = .zero ∨ ∀ x ∈ reads.getD j [], x = 0) :
    estimateTerms h refs reads = [] := by
  refine List.filterMap_eq_nil_iff.mpr fun ⟨parts, j⟩ hj => ?_
  obtain ⟨hlt, hread⟩ := List.mem_zipIdx' hj
  rcases hzero j hlt with hx | hx
  · simp [termOf, hx]
  · rw [List.getD_eq_getElem _ _ hlt, ← hread] at hx
    have hparts : zeroParts parts = true := by simpa [zeroParts] using hx
    cases h.paired refs j <;> simp [termOf, hparts]

end

/-! ### The samples of the estimate (R40) -/

/-- The exact estimate: the inverse transform of the bins `b`, mirrored, at position `t`. -/
noncomputable def inverseVal (b : ℕ → ℂ) (t : ℕ) : ℂ :=
  ∑ k ∈ Finset.range 256, (if k ≤ 128 then b k else conj (b (256 - k))) * Complex.exp ((2 * Real.pi * (k * t) / 256) * Complex.I) / 256

theorem inverseVal_congr {b b' : ℕ → ℂ} (h : ∀ k ≤ 128, b k = b' k) (t : ℕ) : inverseVal b t = inverseVal b' t := by
  refine Finset.sum_congr rfl fun k hk => ?_
  have hk' := Finset.mem_range.mp hk
  split
  · rw [h k ‹_›]
  · rw [h (256 - k) (by omega)]

theorem estimateBlock_nil (n : Nat) : estimateBlock n [] = zeroBlock := rfl

theorem length_estimateBlock (n : Nat) (terms : List Term) : (estimateBlock n terms).length = 128 := by
  unfold estimateBlock
  split
  · exact List.length_replicate
  · simp [Config.blockLength]

theorem estimateBlock_getD (n : Nat) {terms : List Term} (h : terms ≠ []) {i : Nat} (hi : i < 128) :
    (estimateBlock n terms).getD i 0 =
      estimateSample (realBounds (inverseAt ((List.range 129).map (estimateBin terms)) (128 + i))) (Config.estimateSample n i) := by
  rw [estimateBlock, if_neg (by simpa using h)]
  simp [Config.blockLength, Config.bins, hi]

/-- Each sample of the estimate is the saturation of an integer within 1 of the exact one. -/
theorem estimateBlock_close {h : History} {refs : Nat} {reads : List (List Word)} (hs : h.Sampled) (hlen : reads.length ≤ 256) (n : Nat)
    {i : Nat} (hi : i < 128) :
    ∃ v : ℤ, (estimateBlock n (estimateTerms h refs reads)).getD i 0 = sat24 v ∧
      |(v : ℝ) - (inverseVal (fun k => ∑ j ∈ Finset.range reads.length, spectrumVal (h.paired refs j) k * coefVal (reads.getD j []) k)
        (128 + i)).re| < 1 + 1 / 2 ^ 30 := by
  set terms := estimateTerms h refs reads with hterms
  have hbin : ∀ k, cycVal (estimateBin terms k) =
      ∑ j ∈ Finset.range reads.length, spectrumVal (h.paired refs j) k * coefVal (reads.getD j []) k := fun k =>
    (estimateBin_spec hs hlen k).1
  simp only [← hbin]
  by_cases hnil : terms = []
  · have hzero : ∀ k, cycVal (estimateBin terms k) = 0 := fun k => by rw [hnil]; exact cycVal_cycZero
    refine ⟨0, ?_, ?_⟩
    · have hlt : i < zeroBlock.length := by rwa [zeroBlock, List.length_replicate]
      rw [hnil, estimateBlock_nil, List.getD_eq_getElem _ _ hlt]
      exact List.getElem_replicate _
    · simp only [hzero, inverseVal]
      norm_num
  · obtain ⟨hval, hlength, hnorm⟩ := inverseAt_spec (estimateBin terms) (fun k _ => (estimateBin_spec hs hlen k).2.1) (128 + i)
    have hclose := realBounds_close hlength
    rw [hval] at hclose
    have hsize : (cycNorm (inverseAt ((List.range 129).map (estimateBin terms)) (128 + i)) : ℝ) ≤ 2 * 2 ^ 47 := by
      exact_mod_cast hnorm (2 ^ 47) fun k _ => (estimateBin_spec hs hlen k).2.2
    have herror : (cycNorm (inverseAt ((List.range 129).map (estimateBin terms)) (128 + i)) : ℝ) * 2 ^ 11 / 2 ^ 128 ≤ 1 / 2 ^ 30 :=
      calc (cycNorm (inverseAt ((List.range 129).map (estimateBin terms)) (128 + i)) : ℝ) * 2 ^ 11 / 2 ^ 128
          ≤ 2 * 2 ^ 47 * 2 ^ 11 / 2 ^ 128 := by gcongr
        _ ≤ 1 / 2 ^ 30 := by norm_num
    exact ⟨_, estimateBlock_getD n hnil hi, pickInt_close (hclose.mono herror) _⟩

/-! ### The unit that forms the estimate -/

section
variable {s : State} {f : Flight} {c : Nat}

/-- The frame after the estimate of channel `c` (R41). -/
def State.estimated (s : State) (f : Flight) (c : Nat) : Flight :=
  { f.setWork c (workWith (f.chanWork c).mic (f.chanWork c).clipped (estimateBlock s.free (estimateTerms s.history s.geo.refs f.reads))
      (f.chanWork c).parity) with
    phase := if c + 1 < s.geo.mics then .estimate (c + 1) else .decide
    reads := [] }

theorem step_formEstimate (h : s.AtPhase f (.filter c)) (hreads : f.reads.length = (f.ctx c).parts * s.geo.refs) :
    step s = .next { s with free := s.free + 1, flight := some (s.estimated f c) } := by
  rw [step_atPhase h]
  obtain ⟨-, -, -, -, hphase, -⟩ := h
  have hleft : (f.ctx c).parts * s.geo.refs - f.reads.length = 0 := by omega
  simp only [frameUnit, hphase, filterUnit, settle, work_bind, getState_apply]
  rw [if_pos hleft]
  rfl

end

end Sys2Proof.Machine

namespace Sys2Proof
open Sys2Proof.Machine

/-- Settles O44: the unit that forms the estimate, its samples against the exact inverse transform. -/
theorem estimateWithinOne : Obligations.EstimateWithinOne := by
  unfold Obligations.EstimateWithinOne
  intro s f c h hc n hreads hn hsampled part spectrum bin exact w
  have hlen : f.reads.length ≤ 256 := hreads.trans_le hn
  set y := estimateBlock s.free (estimateTerms s.history s.geo.refs f.reads) with hy
  have hwork : (s.estimated f c).work = (f.setWork c (workWith w.mic w.clipped y w.parity)).work := rfl
  have hspectrum : ∀ j k, spectrumVal (s.history.paired s.geo.refs j) k = spectrum j k := fun j k => by
    have hsound := paired_sound hsampled s.geo.refs j
    simp only [spectrum]
    cases hx : s.history.paired s.geo.refs j with
    | zero => rfl
    | of window =>
      have hwindow := (transformBin_spec window k).1
      rw [(hsound window hx).1] at hwindow
      exact hwindow
  have hexact : ∀ i, (inverseVal (fun k => ∑ j ∈ Finset.range f.reads.length,
      spectrumVal (s.history.paired s.geo.refs j) k * coefVal (f.reads.getD j []) k) (128 + i)).re = exact i := fun i => by
    simp only [hspectrum, hreads, inverseVal, Nat.cast_add, Nat.cast_ofNat]
    rfl
  refine ⟨s.estimated f c, y, step_formEstimate h hreads, rfl, fun i hi => chanWork_set_other hwork hi, length_estimateBlock _ _,
    fun i hi => ?_, fun hzero => ?_, ?_⟩
  · rw [← hexact]
    exact estimateBlock_close hsampled hlen s.free hi
  · rw [hy, estimateTerms_eq_nil (fun j hj => hzero j (hreads ▸ hj)), estimateBlock_nil]
    exact fun x hx => List.eq_of_mem_replicate hx
  · rw [chanWork_set_same hwork hc]
    exact ⟨rfl, rfl, rfl, rfl, rfl, rfl, rfl, rfl⟩

end Sys2Proof
end

section
/-! The update of a slot in stage 6 (R38, R42 to R44): each stored part against the exact constrained gradient. -/

namespace Sys2Proof.Machine

open scoped ComplexConjugate

/-! ### Rounding and saturation (R4, R38) -/

theorem roundAway_close (q : Rat) : |((roundAway q : ℤ) : ℝ) - q| ≤ 1 / 2 := by
  have hfloor : ∀ x : Rat, |(((x + 1 / 2).floor : ℤ) : ℚ) - x| ≤ 1 / 2 := fun x => by
    have hle := Rat.floor_le (x + 1 / 2)
    have hlt := Rat.lt_floor (x := x + 1 / 2)
    rw [abs_le]
    constructor <;> linarith
  have hround : |((roundAway q : ℤ) : ℚ) - q| ≤ 1 / 2 := by
    unfold roundAway
    split
    · exact hfloor q
    · have := hfloor (-q)
      rw [← abs_neg]
      push_cast
      rwa [neg_sub, sub_neg_eq_add, add_comm, ← sub_neg_eq_add]
  have := (Rat.cast_le (K := ℝ)).mpr hround
  push_cast at this
  exact this

/-- An updated part is the saturation of an integer within 3/2 of the exact one, but for the error of the bounds (R38). -/
theorem updatedPart_close {b : Rat × Rat} {v e : ℝ} (h : RealClose b v e) (old : Word) (choice : Int) :
    ∃ z : ℤ, (updatedPart old b choice).toInt = max (-2147483648) (min 2147483647 z) ∧
      |(z : ℝ) - (old.toInt + v)| ≤ 3 / 2 + e := by
  obtain ⟨hordered, hbelow, habove⟩ := h
  set lo : Rat := old.toInt + b.1 - 1 with hlo
  set hi : Rat := old.toInt + b.2 + 1 with hhi
  have hlo' : (lo : ℝ) = old.toInt + b.1 - 1 := by rw [hlo]; push_cast; rfl
  have hhi' : (hi : ℝ) = old.toInt + b.2 + 1 := by rw [hhi]; push_cast; rfl
  have hb : (b.1 : ℝ) ≤ b.2 := by exact_mod_cast hordered
  obtain ⟨hlo1, hlo2⟩ := abs_le.mp (roundAway_close lo)
  obtain ⟨hhi1, hhi2⟩ := abs_le.mp (roundAway_close hi)
  obtain ⟨hbelow, -⟩ := abs_le.mp hbelow
  obtain ⟨-, habove⟩ := abs_le.mp habove
  have hle : roundAway lo ≤ roundAway hi := by
    have : ((roundAway lo : ℤ) : ℝ) ≤ roundAway hi := by linarith
    exact_mod_cast this
  obtain ⟨hge, hlt⟩ := pickInt_mem choice hle
  have hge' : ((roundAway lo : ℤ) : ℝ) ≤ pickInt (roundAway lo) (roundAway hi) choice := by exact_mod_cast hge
  have hlt' : ((pickInt (roundAway lo) (roundAway hi) choice : ℤ) : ℝ) ≤ roundAway hi := by exact_mod_cast hlt
  refine ⟨pickInt (roundAway lo) (roundAway hi) choice, ?_, ?_⟩
  · rw [updatedPart, clamp_eq_max_min (by decide), BitVec.toInt_ofInt, Int.bmod_eq_of_le (by omega) (by omega)]
  · rw [abs_le]
    constructor <;> linarith

/-! ### The gradient (R42, R43) -/

section
variable {mu : Rat} {power : List Rat} {window err : List Int}

theorem cycVal_gradientBin (k : Nat) : cycVal (gradientBin mu power window err k) =
    ((mu / (power.getD k 0 + regularisation) : Rat) : ℂ) *
      (conj (cycVal (transformBin window k)) * cycVal (transformBin (zeroBlock ++ err) k)) := by
  have hwindow := (transformBin_spec window k).2.1
  rw [gradientBin, cycVal_scale, cycVal_mul _ (transformBin_spec _ k).2.1, cycVal_conj hwindow]

theorem length_gradientBin (k : Nat) : (gradientBin mu power window err k).length = 128 :=
  length_cycScale _ (length_cycMul _ (transformBin_spec _ k).2.1)

/-- With a step size of at most 1 and a power that is not negative, the regularisation keeps the gradient's bins small. -/
theorem cycNorm_gradientBin (hwindow : SampleBlock 256 window) (herr : SampleBlock 128 err) (hmu : 0 ≤ mu) (hmu1 : mu ≤ 1) {k : Nat}
    (hpower : 0 ≤ power.getD k 0) : cycNorm (gradientBin mu power window err k) ≤ 2 ^ 38 := by
  have hblock : SampleBlock 256 (zeroBlock ++ err) := zeroBlock_sampled.append herr
  have hreg : (2 ^ 24 : Rat) ≤ power.getD k 0 + regularisation := by
    have : (2 ^ 24 : Rat) ≤ regularisation := by norm_num [regularisation]
    linarith
  have hfactor : |mu / (power.getD k 0 + regularisation)| ≤ 1 / 2 ^ 24 := by
    rw [abs_of_nonneg (div_nonneg hmu (le_trans (by positivity) hreg))]
    exact div_le_div₀ zero_le_one hmu1 (by positivity) hreg
  have hproduct : cycNorm (cycMul (cycConj (transformBin window k)) (transformBin (zeroBlock ++ err) k)) ≤ (256 * 2 ^ 23) * (256 * 2 ^ 23) := by
    refine (cycNorm_mul _ _).trans ?_
    rw [cycNorm_conj]
    exact mul_le_mul (transformBin_norm hwindow k) (transformBin_norm hblock k) (cycNorm_nonneg _) (by positivity)
  rw [gradientBin, cycNorm_scale]
  calc _ ≤ 1 / 2 ^ 24 * ((256 * 2 ^ 23) * (256 * 2 ^ 23) : Rat) := mul_le_mul hfactor hproduct (cycNorm_nonneg _) (by positivity)
    _ = 2 ^ 38 := by norm_num

end

/-! ### The constrained gradient (R44) -/

/-- Bin `k` of the transform of 128 values and the zeros after them, in units of 2^-24. -/
theorem constrainedBin_spec (T : Nat → Cyc) (hT : ∀ m < 128, (T m).length = 128) (k : Nat) :
    cycVal (constrainedBin ((List.range 128).map T) k) = 2 ^ 24 * ∑ m ∈ Finset.range 256,
      (if m < 128 then cycVal (T m) else 0) * Complex.exp (-(2 * Real.pi * (k * m) / 256) * Complex.I) ∧
    (constrainedBin ((List.range 128).map T) k).length = 128 ∧
    ∀ n, (∀ m < 128, cycNorm (T m) ≤ n) → cycNorm (constrainedBin ((List.range 128).map T) k) ≤ 2 ^ 24 * (128 * n) := by
  have hcount : ((List.range 128).map T).length = 128 := by simp
  have hget : ∀ m < 128, ((List.range 128).map T).getD m cycZero = T m := fun m hm => by simp [hm]
  have hpos : ∀ xt ∈ ((List.range 128).map T).zipIdx, xt.1.length = 128 := fun xt hxt => by
    obtain ⟨m, hm, hxt'⟩ := List.mem_map.mp (List.fst_mem_of_mem_zipIdx hxt)
    rw [← hxt']
    exact hT m (List.mem_range.mp hm)
  obtain ⟨hval, hlen, hnorm⟩ := cycVal_foldl_add (fun xt : Cyc × Nat => cycTurn (256 - k * xt.2 % 256) xt.1)
    ((List.range 128).map T).zipIdx (fun xt hxt => length_cycTurn _ (hpos xt hxt)) cycZero length_cycZero
  refine ⟨?_, length_cycScale _ hlen, fun n hn => ?_⟩
  · have hsplit : ∑ m ∈ Finset.range 256, (if m < 128 then cycVal (T m) else 0) * Complex.exp (-(2 * Real.pi * (k * m) / 256) * Complex.I) =
        ∑ m ∈ Finset.range 128, (if m < 128 then cycVal (T m) else 0) * Complex.exp (-(2 * Real.pi * (k * m) / 256) * Complex.I) := by
      refine (Finset.sum_subset (Finset.range_mono (by omega)) fun m _ hm => ?_).symm
      rw [if_neg (by simpa using hm), zero_mul]
    have hscale : ((16777216 : ℚ) : ℂ) = 2 ^ 24 := by norm_num
    rw [constrainedBin, cycVal_scale, hval, cycVal_cycZero, zero_add, sum_map_zipIdx _ cycZero, hcount, hsplit, hscale]
    refine congrArg (2 ^ 24 * ·) (Finset.sum_congr rfl fun m hm => ?_)
    have hm' := Finset.mem_range.mp hm
    rw [hget m hm', cycVal_turn (hT m hm'), zeta_pow_back, if_pos hm', mul_comm]
    push_cast
    rfl
  · have hsum : (((List.range 128).map T).zipIdx.map fun xt => cycNorm (cycTurn (256 - k * xt.2 % 256) xt.1)).sum ≤ 128 * n := by
      rw [sum_map_zipIdx _ cycZero, hcount]
      refine (Finset.sum_le_card_nsmul _ _ n fun m hm => ?_).trans (by simp)
      have hm' := Finset.mem_range.mp hm
      rw [hget m hm', cycNorm_turn]
      exact hn m hm'
    rw [cycNorm_cycZero, zero_add] at hnorm
    rw [constrainedBin, cycNorm_scale]
    calc _ ≤ (2 ^ 24 : Rat) * _ := mul_le_mul_of_nonneg_right (by norm_num) (cycNorm_nonneg _)
      _ ≤ 2 ^ 24 * (128 * n) := mul_le_mul_of_nonneg_left (hnorm.trans hsum) (by positivity)

/-- The constrained step of a bin whose gradient is small: both its parts are enclosed closely. -/
theorem constrainedStep_close (g : Nat → Cyc) (hg : ∀ k < 129, (g k).length = 128) (hnorm : ∀ k < 129, cycNorm (g k) ≤ 2 ^ 38) (k : Nat) :
    let step := constrainedBin (constrainedTime ((List.range 129).map g)) k
    let exact := 2 ^ 24 * ∑ m ∈ Finset.range 256, (if m < 128 then inverseVal (fun k => cycVal (g k)) m else 0) *
      Complex.exp (-(2 * Real.pi * (k * m) / 256) * Complex.I)
    RealClose (realBounds step) exact.re (1 / 2 ^ 30) ∧ RealClose (imagBounds step) exact.im (1 / 2 ^ 30) := by
  intro step exact
  obtain ⟨hval, hlen, hsize⟩ := constrainedBin_spec (inverseAt ((List.range 129).map g)) (fun m _ => (inverseAt_spec g hg m).2.1) k
  have hexact : cycVal step = exact := by
    refine hval.trans ?_
    refine congrArg (2 ^ 24 * ·) (Finset.sum_congr rfl fun m _ => ?_)
    rw [(inverseAt_spec g hg m).1]
    rfl
  have hstep : (cycNorm step : ℝ) ≤ 2 ^ 24 * (128 * (2 * 2 ^ 38)) := by
    have := hsize (2 * 2 ^ 38) fun m _ => (inverseAt_spec g hg m).2.2 (2 ^ 38) hnorm
    exact_mod_cast this
  have herror : (cycNorm step : ℝ) * 2 ^ 11 / 2 ^ 128 ≤ 1 / 2 ^ 30 :=
    calc (cycNorm step : ℝ) * 2 ^ 11 / 2 ^ 128 ≤ 2 ^ 24 * (128 * (2 * 2 ^ 38)) * 2 ^ 11 / 2 ^ 128 := by gcongr
      _ ≤ 1 / 2 ^ 30 := by norm_num
  have hreal := realBounds_close hlen
  have himag := imagBounds_close hlen
  change RealClose (realBounds step) (cycVal step).re _ at hreal
  change RealClose (imagBounds step) (cycVal step).im _ at himag
  rw [hexact] at hreal himag
  exact ⟨hreal.mono herror, himag.mono herror⟩

/-! ### The parts of the slot and the step size -/

section
variable {s : State}

theorem partOf_readParts (i p : Nat) :
    partOf (s.readParts i) p = if (s.slot i).bad = 0#258 then (s.slot i).parts.getD p 0 else 0 := by
  unfold State.readParts
  split
  · rfl
  · rw [zero_parts, partOf]
    by_cases hp : p < (List.replicate 258 0#32).length
    · rw [List.getD_eq_getElem _ _ hp]
      exact List.getElem_replicate _
    · exact List.getD_eq_default _ _ (by omega)

end

theorem stepSize_real (x : Channel) : ((stepSize x : Rat) : ℝ) = ((if x.state = .acquire then x.tuning.muAcq else x.tuning.muTrk : Int) : ℝ) / 32768 := by
  unfold stepSize
  split <;> push_cast <;> rfl

theorem stepSize_range {x : Channel} (h : x.tuning.InRange) : 0 ≤ stepSize x ∧ stepSize x ≤ 1 := by
  obtain ⟨⟨hacq1, hacq2⟩, ⟨htrk1, htrk2⟩, -⟩ := h
  have hbound : ∀ m : Int, 1 ≤ m → m ≤ 32767 → 0 ≤ (m : Rat) / 32768 ∧ (m : Rat) / 32768 ≤ 1 := fun m h1 h2 => by
    have h1' : (1 : Rat) ≤ m := by exact_mod_cast h1
    have h2' : (m : Rat) ≤ 32767 := by exact_mod_cast h2
    constructor
    · positivity
    · rw [div_le_one (by norm_num)]
      linarith
  unfold stepSize
  split
  · exact hbound _ hacq1 hacq2
  · exact hbound _ htrk1 (htrk2.trans hacq2)

/-- The error spectrum's window: 128 zeros, then the error block (R41). -/
theorem getD_zeroBlock_append (err : List Int) (m : Nat) : (zeroBlock ++ err).getD m 0 = if m < 128 then 0 else err.getD (m - 128) 0 := by
  have hlen : zeroBlock.length = 128 := List.length_replicate
  split
  · rename_i hm
    rw [List.getD_append _ _ _ _ (by omega), List.getD_eq_getElem _ _ (by omega)]
    exact List.getElem_replicate _
  · rw [List.getD_append_right _ _ _ _ (by omega), hlen]

end Sys2Proof.Machine

namespace Sys2Proof
open Sys2Proof.Machine

/-- Settles O48: the stored parts against the exact constrained gradient. -/
theorem updateFollowsTheGradient : Obligations.UpdateFollowsTheGradient := by
  unfold Obligations.UpdateFollowsTheGradient
  intro s f c j rest h hc i x err window hwindow hsamples herr hne hpower htuning hstate old mu transform spectrum errors gradient time
    step24 near
  set g := gradientBin (stepSize x) s.history.power window err with hg
  obtain ⟨hmu, hmu1⟩ := stepSize_range htuning
  have hspectrum : ∀ k, cycVal (transformBin window k) = spectrum k := fun k => by
    rw [(transformBin_spec window k).1, hsamples.1]
  have herrors : ∀ k, cycVal (transformBin (zeroBlock ++ err) k) = errors k := fun k => by
    rw [(transformBin_spec _ k).1, (zeroBlock_sampled.append herr).1]
    refine Finset.sum_congr rfl fun m _ => ?_
    rw [getD_zeroBlock_append]
    split <;> simp [*]
  have hgradient : ∀ k, cycVal (g k) = gradient k := fun k => by
    have hfactor : ((stepSize x / (s.history.power.getD k 0 + regularisation) : Rat) : ℂ) =
        (mu : ℂ) / (((s.history.power.getD k 0 : ℚ) : ℝ) + 2 ^ 54 / 10 ^ 9 : ℝ) := by
      have hreg : ((regularisation : Rat) : ℝ) = 2 ^ 54 / 10 ^ 9 := by norm_num [regularisation]
      have hmuEq : ((stepSize x : Rat) : ℝ) = mu := (stepSize_real x).trans rfl
      have hreal : ((stepSize x / (s.history.power.getD k 0 + regularisation) : Rat) : ℝ) =
          mu / (((s.history.power.getD k 0 : ℚ) : ℝ) + 2 ^ 54 / 10 ^ 9) := by
        rw [Rat.cast_div, Rat.cast_add, hmuEq, hreg]
      rw [← Complex.ofReal_ratCast, hreal, Complex.ofReal_div]
    rw [hg, cycVal_gradientBin, hspectrum, herrors, hfactor]
    simp only [gradient]
    ring
  have hstep := constrainedStep_close g (fun k _ => length_gradientBin k)
    (fun k hk => cycNorm_gradientBin hsamples herr hmu hmu1 (hpower k hk))
  have htime : ∀ m : ℕ, (if m < 128 then inverseVal (fun k => cycVal (g k)) m else 0) = time m := fun m => by
    simp only [hgradient]
    rfl
  simp only [htime] at hstep
  have hparts : ((s.adapted f c j rest).slot i).parts = updatedParts s.free (stepSize x) s.history.power (.of window) err (s.readParts i) := by
    rw [adapted_slot, if_pos rfl]
    simp only [State.newParts, hwindow]
    rfl
  refine ⟨s.adapted f c j rest, step_adapt h, fun k hk => ?_⟩
  obtain ⟨hreal, himag⟩ := hstep k
  have hold : ∀ p, partOf (s.readParts i) p = old p := partOf_readParts i
  constructor
  · have hget := updatedParts_getD (n := s.free) (mu := stepSize x) (power := s.history.power) (window := window) (parts := s.readParts i)
      hne (k := k) (i := 0) (by omega) (by omega)
    obtain ⟨z, hz, hclose⟩ := updatedPart_close hreal (old (2 * k)) (Config.coefficientPart s.free (2 * k))
    refine ⟨z, ?_, hclose⟩
    rw [hparts, ← hz, ← hold]
    exact congrArg BitVec.toInt hget
  · by_cases hedge : k = 0 ∨ k = 128
    · rw [if_pos hedge, hparts]
      exact updatedParts_imag hne hedge
    · rw [if_neg hedge]
      have hget := updatedParts_getD (n := s.free) (mu := stepSize x) (power := s.history.power) (window := window) (parts := s.readParts i)
        hne (k := k) (i := 1) (by omega) (by omega)
      rw [updatedCoefficient_eq, if_neg hedge] at hget
      obtain ⟨z, hz, hclose⟩ := updatedPart_close himag (old (2 * k + 1)) (Config.coefficientPart s.free (2 * k + 1))
      refine ⟨z, ?_, hclose⟩
      rw [hparts, ← hz, ← hold]
      exact congrArg BitVec.toInt hget

end Sys2Proof
end
